-- ==== Sys2Proof/Word.lean ====
section
/-! DEFINITION. The word types of the X9 (01_sequential_machine.md R17, 00_scope.md R2, R3): register words,
lines of 32 lane words, and the plainest arithmetic on them. -/
namespace Sys2Proof

/-- One byte. -/
abbrev Byte := BitVec 8
/-- A 32-bit lane word of a vector register (R17). -/
abbrev Word := BitVec 32
/-- A 64-bit scalar, address or program counter (R17). -/
abbrev Dword := BitVec 64
/-- A set of lanes: bit i is thread i of the wave (R12). -/
abbrev Mask := BitVec 32
/-- One vector register of a wave: one word for each of the 32 lanes (R201). -/
abbrev Line := Vector Word 32
/-- One 512-bit bundle (R41). -/
abbrev Bundle := BitVec 512
/-- One 56-bit slot (R46). -/
abbrev Slot := BitVec 56

/-- The lane numbers 0 to 31 in rising order. -/
def lanes : List (Fin 32) := List.finRange 32

/-- A line whose words are all `w`. -/
def Line.fill (w : Word) : Line := Vector.replicate 32 w

/-- The line whose lane i holds `f i`. -/
def Line.build (f : Fin 32 → Word) : Line := Vector.ofFn f

/-- The lane set of the lanes that satisfy `f`. -/
def Mask.build (f : Fin 32 → Bool) : Mask :=
  lanes.foldl (fun m i => if f i then m ||| (1#32 <<< i.val) else m) 0#32

/-- True when lane i belongs to the set. -/
def Mask.has (m : Mask) (i : Fin 32) : Bool := m.getLsbD i.val

/-- The lanes of a set in rising order. -/
def Mask.list (m : Mask) : List (Fin 32) := lanes.filter fun i => m.has i

/-- The lowest lane of a set. -/
def Mask.lowest (m : Mask) : Option (Fin 32) := m.list.head?

/-- Bits [hi:lo] of x as a number (R11). -/
def bits {n : Nat} (x : BitVec n) (hi lo : Nat) : Nat := (x.toNat >>> lo) % 2 ^ (hi + 1 - lo)

/-- Bit k of x. -/
def bit {n : Nat} (x : BitVec n) (k : Nat) : Bool := x.getLsbD k

/-- `Saturate(v, lo, hi)` of R12. -/
def saturate (v lo hi : Int) : Int := if v < lo then lo else if hi < v then hi else v

/-- The n bytes of a number, least significant first (R3). -/
def bytesOfNat : Nat → Nat → List Byte
  | 0, _ => []
  | n + 1, x => BitVec.ofNat 8 x :: bytesOfNat n (x / 256)

/-- The number whose little-endian bytes are given (R3). -/
def natOfBytes : List Byte → Nat
  | [] => 0
  | b :: bs => b.toNat + 256 * natOfBytes bs

end Sys2Proof
end

