-- ==== Sys2Proof/Config.lean ====
section
/-! DEFINITION. What the manual leaves open: constants without a body, so that nothing can be proved of
their values. Each takes the number of the free value drawn, so that two draws may differ. -/
namespace Sys2Proof.Config
open Sys2Proof

/-- A byte read from the control-node aperture (R458, R459): the control node's memory is outside. -/
opaque hostByte : Nat → Nat → Byte
/-- A byte read from the memory of a peer device (R484), or returned by its LLC. -/
opaque peerByte : Nat → Nat → Byte
/-- Whether a peer accepts an access (R484): its window is its own. -/
opaque peerAccepts : Nat → Nat → Bool
/-- Whether a page of a broken 64 KiB group is translated by the group's first entry (R233). -/
opaque c64First : Nat → Bool
/-- Whether an access uses the table's entry where the translation cache still holds another one (R236). -/
opaque newTable : Nat → Bool
/-- Whether a byte that a collective both reads and writes is read new (R479). -/
opaque overlapNew : Nat → Bool
/-- Which write of its own a copy command's read of a byte sees: 0 none, else one of the iterations that write it (R295). -/
opaque overlapFrom : Nat → Nat
/-- Whether a command that fails or is cancelled part-way has written a destination unit (R256): the free
value's number and the unit. -/
opaque unitWritten : Nat → Nat → Bool
/-- How many steps or rows a matrix command had applied when it was cancelled (R345). -/
opaque progress : Nat → Nat
/-- The words of a drawer header's STATE, which belong to the device (R313): the free value's number and the word. The
device finds its own STATE by its not being zero. -/
opaque drawerState : Nat → Nat → BitVec 64
/-- Whether a command with nothing left to wait for had made all its accesses when it was cancelled (R448). -/
opaque wasDone : Nat → Bool
/-- The 57 bytes of the vendor's public key in ROM, and of the identity key's secret (R522, R524, R525). -/
opaque vendorKey : Nat → Byte
opaque identityKey : Nat → Byte
/-- The identity certificate chain, at most 4,096 bytes (R525). -/
opaque certChain : List Byte
/-- The serial number, 16 bytes (R525). -/
opaque serial : BitVec 128
/-- Whether the cone test rejects a meshlet whose apex has an infinite coordinate (R352 speaks of reals). -/
opaque coneReject : Nat → Bool
/-- The depth word of a sample of a triangle with an infinite vertex depth (R361 speaks of reals): the free
value's number and the sample. -/
opaque depthWord : Nat → Nat → Word
/-- Cycles for which an access waits for the port of an L1 bank that another user holds (R504). -/
opaque l1Waits : Nat → Nat
/-- Cycles for which an engine command uses the port of a bank that it names (R218). -/
opaque portCycles : Nat → Nat
/-- Ticks that a retrain of a peer port takes (R521). -/
opaque retrainTicks : Nat → Nat
/-- How many of a core's queued trace records are written in a cycle (R490), and whether both snapshot buffers are still
being written (R506). -/
opaque traceWritten : Nat → Nat
opaque snapshotsBusy : Nat → Bool
/-- Issue cycles per mille that the power control withholds after a window (R526). -/
opaque withhold : Nat → Nat
/-- The lanes and the rate at which the link of a physical head trains (R388, R527), as codes. -/
opaque portLanes : Nat → Nat
opaque portRate : Nat → Nat

end Sys2Proof.Config
end

