-- ==== Sys2Proof/Syntax.lean ====
section
/-! DEFINITION. The instructions and steps of the X9: one constructor of `Instr` for each row of
opcode_table.json. Slot operations carry their guard and path tag (R46) and the fields of their
format (02_bundles_and_opcode_map.md R48); steps of the device's units carry what names the unit. -/
namespace Sys2Proof

/-- The element types of TYPE (R50). -/
inductive Ty where
  | i8 | i16 | i32 | i64 | n8 | n16 | n32 | n64 | f16 | bf16 | f32 | e4m3 | e5m2
  deriving DecidableEq, Repr

/-- The code of a type (R50). -/
def Ty.code : Ty → BitVec 4
  | .i8 => 0x0 | .i16 => 0x1 | .i32 => 0x2 | .i64 => 0x3 | .n8 => 0x4 | .n16 => 0x5 | .n32 => 0x6
  | .n64 => 0x7 | .f16 => 0x8 | .bf16 => 0x9 | .f32 => 0xA | .e4m3 => 0xB | .e5m2 => 0xC

/-- The type of a code; codes 0xD to 0xF are reserved (R50). -/
def Ty.ofCode (c : BitVec 4) : Option Ty :=
  [Ty.i8, .i16, .i32, .i64, .n8, .n16, .n32, .n64, .f16, .bf16, .f32, .e4m3, .e5m2][c.toNat]?

/-- Path tags (R27): always, or on outcome k from 0 to 4. -/
inductive Tag where
  | always | on0 | on1 | on2 | on3 | on4
  deriving DecidableEq, Repr

/-- The code of a tag (R27). -/
def Tag.code : Tag → BitVec 3
  | .always => 0 | .on0 => 1 | .on1 => 2 | .on2 => 3 | .on3 => 4 | .on4 => 5

/-- The tag of a code; 0b110 and 0b111 are illegal (R27). -/
def Tag.ofCode (c : BitVec 3) : Option Tag :=
  [Tag.always, .on0, .on1, .on2, .on3, .on4][c.toNat]?

/-- The outcome a tag names, none for always. -/
def Tag.outcome : Tag → Option Nat
  | .always => none | .on0 => some 0 | .on1 => some 1 | .on2 => some 2 | .on3 => some 3 | .on4 => some 4

/-- The first 17 bits of a slot but for OPC (R46): tag, guard negation, guard predicate. -/
structure Head where
  tag : Tag
  neg : Bool
  gp : BitVec 5
  deriving DecidableEq, Repr

/-- Rounding and comparison codes are kept as the three MOD bits (R51). -/
abbrev Mod := BitVec 3

/-- Format SR (R48). -/
structure SrFmt where
  d : BitVec 6
  a : BitVec 6
  b : BitVec 6
  ty : Ty
  cond : BitVec 4
  pos : BitVec 6
  len : BitVec 6
  deriving DecidableEq, Repr
/-- Format SI (R48). -/
structure SiFmt where
  d : BitVec 6
  a : BitVec 6
  ty : Ty
  cond : BitVec 4
  imm : BitVec 18
  deriving DecidableEq, Repr
/-- An opcode that accepts SR and SI: bit 38 selects (R48). -/
inductive SFmt where
  | r (o : SrFmt)
  | i (o : SiFmt)
  deriving DecidableEq, Repr
/-- Format SL (R48); H is the constructor. -/
structure SlFmt where
  d : BitVec 6
  imm : BitVec 32
  deriving DecidableEq, Repr
/-- Format SB (R48). -/
structure SbFmt where
  bt : BitVec 3
  off : BitVec 35
  deriving DecidableEq, Repr
/-- Format SX (R48). -/
structure SxFmt where
  bt : BitVec 3
  a : BitVec 6
  deriving DecidableEq, Repr
/-- Format SLP (R48). -/
structure SlpFmt where
  i : Bool
  a : BitVec 6
  cnt : BitVec 16
  off : BitVec 16
  deriving DecidableEq, Repr
/-- Format V (R48); bit 7 of a, b, c is LU of a vector source (R49). -/
structure VFmt where
  d : BitVec 7
  a : BitVec 8
  b : BitVec 8
  c : BitVec 8
  ty : Ty
  md : Mod
  bsel : Bool
  deriving DecidableEq, Repr
/-- The address form of format LM: OFF16 (X = 0) or lane index with LU and SH (X = 1). -/
inductive LmAddr where
  | off (o : BitVec 16)
  | idx (lu : Bool) (i : BitVec 7) (sh : BitVec 2)
  deriving DecidableEq, Repr
/-- Format LM (R48). -/
structure LmFmt where
  cls : BitVec 4
  d : BitVec 7
  base : BitVec 6
  ty : Ty
  addr : LmAddr
  deriving DecidableEq, Repr
/-- Format LA (R48). -/
structure LaFmt where
  cls : BitVec 4
  d : BitVec 7
  base : BitVec 6
  ty : Ty
  scope : BitVec 3
  aop : BitVec 4
  lu : Bool
  idx : BitVec 7
  deriving DecidableEq, Repr
/-- Format LC (R48). -/
structure LcFmt where
  cls : BitVec 4
  d : BitVec 7
  base : BitVec 6
  p : BitVec 5
  nl : BitVec 2
  off : BitVec 15
  deriving DecidableEq, Repr
/-- Format Q (R48). -/
structure QFmt where
  v : BitVec 7
  lu : Bool
  q : BitVec 3
  deriving DecidableEq, Repr
/-- Format T (R48). -/
structure TFmt where
  d : BitVec 7
  a : BitVec 8
  res : BitVec 6
  smp : BitVec 6
  md : BitVec 12
  deriving DecidableEq, Repr
/-- Format E (R48, R53). -/
structure EFmt where
  tn : BitVec 2
  td : BitVec 6
  t1 : BitVec 6
  t2 : BitVec 6
  t3 : BitVec 6
  a : BitVec 6
  md : BitVec 7
  deriving DecidableEq, Repr
/-- Format FF (R48). -/
structure FfFmt where
  kind : BitVec 2
  scope : BitVec 3
  cmask : BitVec 16
  deriving DecidableEq, Repr
/-- Format YG (R48). -/
structure YgFmt where
  d : BitVec 7
  a : BitVec 6
  b : BitVec 6
  imm : BitVec 20
  deriving DecidableEq, Repr
/-- Format YS (R48). -/
structure YsFmt where
  s : BitVec 6
  srn : BitVec 12
  deriving DecidableEq, Repr
/-- Format XD (R48). -/
structure XdFmt where
  d : BitVec 7
  a : BitVec 8
  s : BitVec 6
  md : BitVec 18
  deriving DecidableEq, Repr
/-- Format FD (R48). -/
structure FdFmt where
  d : BitVec 7
  a : BitVec 8
  b : BitVec 8
  frm : BitVec 6
  md : BitVec 10
  deriving DecidableEq, Repr

/-- One transfer test of a header (R43). -/
structure Test where
  pred : BitVec 5
  neg : Bool
  bt : BitVec 3
  deriving DecidableEq, Repr
/-- A transfer tree: the tests 1 to n of the last bundle's header (R26). -/
structure Tree where
  tests : List Test
  deriving DecidableEq, Repr

/-- The unit that issues a group: a compute core by gcore (R83), or a line core (R383). -/
inductive IssueUnit where
  | core (g : Nat)
  | line (k : Nat)
  deriving DecidableEq, Repr
/-- The engine whose command completes (R289): the k-th waiting command of a core's copy engine, the
oldest of its matrix engine, or the k-th of its mapsync and present commands. -/
inductive EngineRef where
  | copy (core k : Nat)
  | matrix (core : Nat)
  | sync (core k : Nat)
  deriving DecidableEq, Repr
/-- Where an accepted launch comes from: a bench entry of a group (R305), the fault domain of a record
(R425), the close of a draw (R356) or a command queue (R483). -/
inductive LaunchSrc where
  | bench (group entry : Nat)
  | handler (rec : Nat)
  | shade (draw : Nat)
  | queue (q : Nat)
  deriving DecidableEq, Repr
/-- Where an SRAM or GDDR 7 error falls (R230, R439, R440). -/
inductive SoftLoc where
  /-- Bytes of GDDR 7. -/
  | mem (pa len : Nat)
  /-- Bytes of a bank of a core. -/
  | sram (core bank off len : Nat)
  /-- A register-cache word. -/
  | reg (wave line lane : Nat)
  /-- Bytes of a line that L1 of a core, its write buffer, L2 of a die, or the LLC holds. -/
  | l1 (core line off len : Nat)
  | wbuf (core line off len : Nat)
  | l2 (die line off len : Nat)
  | llc (line off len : Nat)
  /-- Bytes of the shelf of a core. -/
  | shelf (core off len : Nat)
  /-- Bytes of the line buffer of a line core. -/
  | lbuf (line off len : Nat)
  /-- A word of an entry of a queue window of a wave. -/
  | window (wave q entry lane : Nat)
  /-- Bytes of a line of the map cache or texel cache of a core, by virtual line. -/
  | mapLine (core vline off len : Nat)
  /-- A weight or an accumulator word of the display matrix engine of a line core. -/
  | weight (line k : Nat)
  | lineAcc (line k : Nat)
  /-- A word of a register line of a line core. -/
  | lineReg (line reg lane : Nat)
  /-- Bundle k of the prepared target of a branch-target register, of a wave and of a line core. -/
  | target (wave b k : Nat)
  | lineTarget (line b k : Nat)
  /-- Bundle k of a loop's body that a wave or a line core holds, by its place in the loop stack. -/
  | body (wave e k : Nat)
  | lineBody (line e k : Nat)
  /-- Bytes of a routed packet in its ring buffers. -/
  | packet (packet off len : Nat)
  deriving DecidableEq, Repr
/-- One memory error: corrected, or uncorrectable at a place. -/
structure SoftErr where
  corrected : Bool
  loc : SoftLoc
  deriving DecidableEq, Repr
/-- The three registers of the frame partition (R225). -/
inductive FrameReg where
  | base | size | ways
  deriving DecidableEq, Repr
/-- The three writable registers of a command queue (R480). -/
inductive CqReg where
  | base | ctl | cpl
  deriving DecidableEq, Repr
/-- A participant of a sys collective on another device: its device number and its place in the ranks of that device, N,
MOD7's OP and TY, P, and its source bytes (R478, R479). -/
structure FarPart where
  dev : Nat
  place : Nat
  n : Nat
  op : Nat
  need : Nat
  data : List Byte
  deriving DecidableEq, Repr
/-- What arrives from another device or from the control node (R238, R460, R478, R484): an access at a local physical
address, an atomic with its type, AOP, operand and comparison value (R277), or a participant of a collective, with the
context slot and the tag of its instance. -/
inductive PeerOp where
  | read (o n : Nat)
  | write (o : Nat) (data : List Byte)
  | atomic (o : Nat) (ty : Ty) (aop : Nat) (x k : BitVec 64)
  | coll (slot tag : Nat) (p : FarPart)
  deriving DecidableEq, Repr
/-- The kinds of unit of the repair log (R518). -/
inductive UnitKind where
  | core | slice | way | pin
  deriving DecidableEq, Repr
/-- A unit that failed a self-test (R517, R518). -/
structure UnitFault where
  kind : UnitKind
  die : Nat
  unit : Nat
  deriving DecidableEq, Repr
/-- What the outside decides during one start (R513, R514): images, channels, self-test, ports. -/
structure StartReport where
  imageFail : Option Nat
  ownImageOk : Bool
  trained : BitVec 48
  fails : List UnitFault
  fabricOk : Bool
  portsOk : Bool
  /-- The step at which the start hangs, until its time runs out. -/
  hang : Option Nat
  deriving DecidableEq, Repr
/-- One 1 ms sample of power and heat (R526). -/
structure PowerSample where
  watts : Nat
  tmax : Nat
  coolin : Nat
  flow : Nat
  deriving DecidableEq, Repr

/-- The operands of an offered step: which units it names and the value it carries. Steps whose operands
are plain numbers read them here, since Lean's runtime bounds the constructors that carry fields. -/
structure Arg where
  a : Nat
  b : Nat
  c : Nat
  x : BitVec 64
  deriving DecidableEq, Repr

/-- The instructions and steps of the device, one constructor a row of opcode_table.json: the slot
operations with their fields, then the steps whose operands stand in an `Arg`. -/
inductive Instr where
  /-- ISSUE_GROUP (R20): The current PC group of a selected wave issues its next instruction group of 1 to 4 bundles, reading pre-group state and writing results after the last bundle. -/
  | issueGroup (u : IssueUnit)
  /-- BR (R26): The transfer tree of the last bundle's header selects the outcome and the next PC from up to four predicate tests. -/
  | br (t : Tree)
  /-- NOP (R47): A no-operation in any slot, which reads and writes nothing. -/
  | nop (h : Head)
  /-- HINT (R57): A hint-space operation of OPC 0xF0 to 0xFF executes as a no-operation. -/
  | hint (h : Head) (opc : BitVec 4) (x : BitVec 39)
  /-- ADD (R73): Scalar integer addition at the width of TYPE. -/
  | add (h : Head) (o : SFmt)
  /-- SUB (R73): Scalar integer subtraction. -/
  | sub (h : Head) (o : SFmt)
  /-- MUL (R73): Scalar multiplication, low N bits. -/
  | mul (h : Head) (o : SFmt)
  /-- MULH (R73): Scalar multiplication, high N bits by floor. -/
  | mulh (h : Head) (o : SFmt)
  /-- DIV (R74): Scalar division toward zero with defined results for zero divisors and overflow. -/
  | div (h : Head) (o : SFmt)
  /-- MOD (R74): Scalar remainder taking the sign of the dividend. -/
  | mod (h : Head) (o : SFmt)
  /-- MIN (R73): Scalar minimum by signedness. -/
  | min (h : Head) (o : SFmt)
  /-- MAX (R73): Scalar maximum by signedness. -/
  | max (h : Head) (o : SFmt)
  /-- AND (R73): Scalar bitwise AND. -/
  | and (h : Head) (o : SFmt)
  /-- OR (R73): Scalar bitwise OR. -/
  | or (h : Head) (o : SFmt)
  /-- XOR (R73): Scalar bitwise exclusive OR. -/
  | xor (h : Head) (o : SFmt)
  /-- ANDN (R73): Scalar AND with the complement of the second operand. -/
  | andn (h : Head) (o : SFmt)
  /-- SHL (R75): Scalar left shift, zero when the count reaches the width. -/
  | shl (h : Head) (o : SFmt)
  /-- SHR (R75): Scalar logical right shift. -/
  | shr (h : Head) (o : SFmt)
  /-- SAR (R75): Scalar arithmetic right shift. -/
  | sar (h : Head) (o : SFmt)
  /-- ROL (R75): Scalar rotate left by the count modulo the width. -/
  | rol (h : Head) (o : SFmt)
  /-- BFX (R76): Scalar bit-field extract with sign or zero extension. -/
  | bfx (h : Head) (o : SrFmt)
  /-- BFI (R76): Scalar bit-field insert. -/
  | bfi (h : Head) (o : SrFmt)
  /-- POPC (R77): Scalar count of one bits. -/
  | popc (h : Head) (o : SrFmt)
  /-- CLZ (R77): Scalar count of leading zeros. -/
  | clz (h : Head) (o : SrFmt)
  /-- CTZ (R77): Scalar count of trailing zeros. -/
  | ctz (h : Head) (o : SrFmt)
  /-- BREV (R77): Scalar bit reversal at the width of TYPE. -/
  | brev (h : Head) (o : SrFmt)
  /-- CMP (R78): Scalar comparison writing a predicate in each running thread. -/
  | cmp (h : Head) (o : SFmt)
  /-- TEST (R79): Scalar AND test writing a predicate as zero or nonzero. -/
  | test (h : Head) (o : SFmt)
  /-- SEL (R80): Scalar select by a predicate true in any running thread. -/
  | sel (h : Head) (o : SrFmt)
  /-- MOV (R81): Scalar move of a register or immediate at the width of TYPE. -/
  | mov (h : Head) (o : SFmt)
  /-- MOVW (R82): Writes a zero-extended 32-bit immediate to a scalar. -/
  | movw (h : Head) (o : SlFmt)
  /-- MOVW_HI (R82): Writes a 32-bit immediate to the upper half of a scalar, keeping the lower half. -/
  | movwHi (h : Head) (o : SlFmt)
  /-- GETID (R83): Reads a selected identifier of the core, wave, group, grid or launch into a scalar. -/
  | getid (h : Head) (o : SiFmt)
  /-- SETMODE (R85): Replaces masked bits of the wave's mode word and returns the old mode. -/
  | setmode (h : Head) (o : SFmt)
  /-- RDFL (R86): Reads the sticky flags and clears those selected by the mask. -/
  | rdfl (h : Head) (o : SrFmt)
  /-- PBR (R88): Writes a relative branch target with depth 3 and starts the prepared-target fill. -/
  | pbr (h : Head) (o : SbFmt)
  /-- PBRX (R89): Writes a branch target and depth from a scalar and starts a fill. -/
  | pbrx (h : Head) (o : SxFmt)
  /-- MFB (R89): Copies a branch-target register into a scalar. -/
  | mfb (h : Head) (o : SxFmt)
  /-- LOOP (R92): Pushes a hardware loop entry and enters the body, or skips it for a count of zero. -/
  | loop (h : Head) (o : SlpFmt)
  /-- CALL (R93): Transfers to a branch target and writes the return address to a scalar. -/
  | call (h : Head) (o : SxFmt)
  /-- RET (R93): Transfers to a branch target. -/
  | ret (h : Head) (o : SxFmt)
  /-- EXIT (R95): Ends each thread in which it runs after its group and records its exit address. -/
  | exit (h : Head)
  /-- VADD (R161): Element-wise vector addition, integer or float. -/
  | vadd (h : Head) (o : VFmt)
  /-- VSUB (R161): Element-wise vector subtraction. -/
  | vsub (h : Head) (o : VFmt)
  /-- VMUL (R161): Element-wise vector multiplication. -/
  | vmul (h : Head) (o : VFmt)
  /-- VMULH (R161): Element-wise high half of an integer product. -/
  | vmulh (h : Head) (o : VFmt)
  /-- VFMA (R161): Element-wise fused multiply-add. -/
  | vfma (h : Head) (o : VFmt)
  /-- VMIN (R162): Element-wise minimum with NaN handling. -/
  | vmin (h : Head) (o : VFmt)
  /-- VMAX (R162): Element-wise maximum with NaN handling. -/
  | vmax (h : Head) (o : VFmt)
  /-- VABS (R163): Element-wise absolute value, or sign clear for floats. -/
  | vabs (h : Head) (o : VFmt)
  /-- VNEG (R163): Element-wise negation, or sign inversion for floats. -/
  | vneg (h : Head) (o : VFmt)
  /-- VADDS (R161): Element-wise saturating integer addition. -/
  | vadds (h : Head) (o : VFmt)
  /-- VSUBS (R161): Element-wise saturating integer subtraction. -/
  | vsubs (h : Head) (o : VFmt)
  /-- VDIV (R164): Element-wise float division rounded once. -/
  | vdiv (h : Head) (o : VFmt)
  /-- VRINT (R165): Element-wise rounding to an integral float. -/
  | vrint (h : Head) (o : VFmt)
  /-- VFRACT (R165): Element-wise fractional part of a float. -/
  | vfract (h : Head) (o : VFmt)
  /-- VLDEXP (R165): Element-wise scaling of a float by a power of two. -/
  | vldexp (h : Head) (o : VFmt)
  /-- VAND (R166): 32-bit vector AND. -/
  | vand (h : Head) (o : VFmt)
  /-- VOR (R166): 32-bit vector OR. -/
  | vor (h : Head) (o : VFmt)
  /-- VXOR (R166): 32-bit vector exclusive OR. -/
  | vxor (h : Head) (o : VFmt)
  /-- VANDN (R166): 32-bit vector AND with complement. -/
  | vandn (h : Head) (o : VFmt)
  /-- VNOT (R166): 32-bit vector complement. -/
  | vnot (h : Head) (o : VFmt)
  /-- VSHL (R166): Element-wise left shift. -/
  | vshl (h : Head) (o : VFmt)
  /-- VSHR (R166): Element-wise logical right shift. -/
  | vshr (h : Head) (o : VFmt)
  /-- VSAR (R166): Element-wise arithmetic right shift. -/
  | vsar (h : Head) (o : VFmt)
  /-- VROL (R166): Element-wise rotate left. -/
  | vrol (h : Head) (o : VFmt)
  /-- VBFX (R167): Per-lane bit-field extract. -/
  | vbfx (h : Head) (o : VFmt)
  /-- VBFI (R167): Per-lane bit-field insert into the destination. -/
  | vbfi (h : Head) (o : VFmt)
  /-- VPOPC (R166): Element-wise count of one bits. -/
  | vpopc (h : Head) (o : VFmt)
  /-- VCLZ (R166): Element-wise count of leading zeros. -/
  | vclz (h : Head) (o : VFmt)
  /-- VBREV (R166): Element-wise bit reversal. -/
  | vbrev (h : Head) (o : VFmt)
  /-- VSEL (R168): Per-lane select by a predicate. -/
  | vsel (h : Head) (o : VFmt)
  /-- VMOV (R166): Per-lane move of operand B, including a broadcast scalar. -/
  | vmov (h : Head) (o : VFmt)
  /-- VCMP (R169): Per-lane comparison writing a predicate. -/
  | vcmp (h : Head) (o : VFmt)
  /-- VCLASS (R171): Per-lane f32 classification tested against a mask. -/
  | vclass (h : Head) (o : VFmt)
  /-- VTEST (R169): Per-lane AND test writing a predicate. -/
  | vtest (h : Head) (o : VFmt)
  /-- VSAD (R172): Sum of absolute differences added to an accumulator. -/
  | vsad (h : Head) (o : VFmt)
  /-- VMULW (R173): Widening multiply into a register pair. -/
  | vmulw (h : Head) (o : VFmt)
  /-- VMADW (R173): Widening multiply-add into a register pair. -/
  | vmadw (h : Head) (o : VFmt)
  /-- VCVT (R175): Converts one element per lane between formats. -/
  | vcvt (h : Head) (o : VFmt)
  /-- VPACK (R176): Narrows two 32-bit sources into packed elements. -/
  | vpack (h : Head) (o : VFmt)
  /-- VUNPK (R177): Widens one element to 32 bits. -/
  | vunpk (h : Head) (o : VFmt)
  /-- VBYTE (R178): Selects bytes from two sources by a selector. -/
  | vbyte (h : Head) (o : VFmt)
  /-- VRCP (R179): Correctly rounded reciprocal. -/
  | vrcp (h : Head) (o : VFmt)
  /-- VRSQ (R179): Correctly rounded reciprocal square root. -/
  | vrsq (h : Head) (o : VFmt)
  /-- VSQRT (R179): Correctly rounded square root. -/
  | vsqrt (h : Head) (o : VFmt)
  /-- VEXP2 (R179): Correctly rounded power of two. -/
  | vexp2 (h : Head) (o : VFmt)
  /-- VLOG2 (R179): Correctly rounded base-2 logarithm. -/
  | vlog2 (h : Head) (o : VFmt)
  /-- VSIN (R179): Correctly rounded sine of pi times x. -/
  | vsin (h : Head) (o : VFmt)
  /-- VCOS (R179): Correctly rounded cosine of pi times x. -/
  | vcos (h : Head) (o : VFmt)
  /-- VTANH (R179): Correctly rounded hyperbolic tangent. -/
  | vtanh (h : Head) (o : VFmt)
  /-- VCLMUL (R180): Low half of a carry-less product. -/
  | vclmul (h : Head) (o : VFmt)
  /-- VCLMULH (R180): High half of a carry-less product. -/
  | vclmulh (h : Head) (o : VFmt)
  /-- VRBOX (R183): Ray against axis-aligned box test. -/
  | vrbox (h : Head) (o : VFmt)
  /-- VRTRI (R184): Ray against triangle test with barycentrics. -/
  | vrtri (h : Head) (o : VFmt)
  /-- VDP4 (R174): Four-element dot product with accumulator. -/
  | vdp4 (h : Head) (o : VFmt)
  /-- VDP2 (R174): Two-element dot product with accumulator. -/
  | vdp2 (h : Head) (o : VFmt)
  /-- PAND (R185): Predicate AND. -/
  | pand (h : Head) (o : VFmt)
  /-- POR (R185): Predicate OR. -/
  | por (h : Head) (o : VFmt)
  /-- PXOR (R185): Predicate exclusive OR. -/
  | pxor (h : Head) (o : VFmt)
  /-- PANDN (R185): Predicate AND NOT. -/
  | pandn (h : Head) (o : VFmt)
  /-- PNOT (R185): Predicate complement. -/
  | pnot (h : Head) (o : VFmt)
  /-- PMOV (R185): Predicate move. -/
  | pmov (h : Head) (o : VFmt)
  /-- PSET (R185): Sets a predicate to an immediate. -/
  | pset (h : Head) (o : VFmt)
  /-- VPERM (R186): Each running lane reads the lane named by its index. -/
  | vperm (h : Head) (o : VFmt)
  /-- VROT (R186): Rotates values across lanes. -/
  | vrot (h : Head) (o : VFmt)
  /-- VSHUF (R186): Exchanges values across lanes by an XOR mask. -/
  | vshuf (h : Head) (o : VFmt)
  /-- VBCAST (R186): Broadcasts one lane's value. -/
  | vbcast (h : Head) (o : VFmt)
  /-- VMATCH (R186): Masks the running lanes holding an equal value. -/
  | vmatch (h : Head) (o : VFmt)
  /-- VBALLOT (R186): Masks the running lanes whose predicate holds. -/
  | vballot (h : Head) (o : VFmt)
  /-- VSCAN (R187): Inclusive or exclusive scan over running lanes. -/
  | vscan (h : Head) (o : VFmt)
  /-- VRED (R187): Reduction over running lanes. -/
  | vred (h : Head) (o : VFmt)
  /-- VLANE (R186): Moves one lane's value into a scalar. -/
  | vlane (h : Head) (o : VFmt)
  /-- VFIRST (R186): Writes the lowest running lane whose predicate holds into a scalar. -/
  | vfirst (h : Head) (o : VFmt)
  /-- VCOMPACT (R188): Packs selected lanes' values into the lowest running lanes. -/
  | vcompact (h : Head) (o : VFmt)
  /-- MAMAX (R342): Computes a block scale byte from the largest magnitude of the running lanes. -/
  | mamax (h : Head) (o : VFmt)
  /-- MCVT (R343): Quantises lanes to a scaled 8-bit or bit-plane format under a block scale. -/
  | mcvt (h : Head) (o : VFmt)
  /-- MEET (R190): Sets the meeting register of each running thread to a target. -/
  | meet (h : Head) (o : YgFmt)
  /-- MEET_SAVE (R190): Saves the meeting register into a vector pair and sets a new target. -/
  | meetSave (h : Head) (o : YgFmt)
  /-- MEET_REST (R190): Restores the meeting register from a vector pair. -/
  | meetRest (h : Head) (o : YgFmt)
  /-- MEET_CLR (R190): Clears the meeting register. -/
  | meetClr (h : Head) (o : YgFmt)
  /-- YIELD (R192): Causes a PC-group rotation after its group. -/
  | yield (h : Head) (o : YgFmt)
  /-- BAR (R193): Threads wait at the group barrier as a release fence. -/
  | bar (h : Head) (o : YgFmt)
  /-- VOTE (R196): Threads contribute a predicate and wait at the barrier for a vote result. -/
  | vote (h : Head) (o : YgFmt)
  /-- SLEEP (R197): Running threads wait for n cycles. -/
  | sleep (h : Head) (o : YgFmt)
  /-- RDCLK (R198): Reads the core cycle count or the hub nanosecond timebase. -/
  | rdclk (h : Head) (o : YgFmt)
  /-- LD (R272): Per-lane vector load from memory. -/
  | ld (h : Head) (o : LmFmt)
  /-- LDU (R273): Single wave-scoped load into a scalar. -/
  | ldu (h : Head) (o : LmFmt)
  /-- LDS (R272): Per-lane load from scratchpad, or the line buffer in profile D. -/
  | lds (h : Head) (o : LmFmt)
  /-- LDP (R274): Probe load that returns zero and a false residency predicate for invalid pages. -/
  | ldp (h : Head) (o : LmFmt)
  /-- LD_MARK (R275): Loads at the L2 slice and enters the lines into the wave's mark set. -/
  | ldMark (h : Head) (o : LmFmt)
  /-- ATOM (R276): Per-lane atomic read-modify-write returning the old value. -/
  | atom (h : Head) (o : LaFmt)
  /-- SATOM (R279): Per-lane scratchpad atomic returning the old value. -/
  | satom (h : Head) (o : LaFmt)
  /-- ST (R272): Per-lane vector store to memory. -/
  | st (h : Head) (o : LmFmt)
  /-- STU (R273): Single wave-scoped store from a scalar. -/
  | stu (h : Head) (o : LmFmt)
  /-- STS (R272): Per-lane store to scratchpad, or the line buffer in profile D. -/
  | sts (h : Head) (o : LmFmt)
  /-- RED (R280): Per-lane atomic reduction without return. -/
  | red (h : Head) (o : LaFmt)
  /-- SRED (R280): Per-lane scratchpad reduction without return. -/
  | sred (h : Head) (o : LaFmt)
  /-- CST4 (R282): Conditional store of up to four lines committed as one write if every mark is unbroken. -/
  | cst4 (h : Head) (o : LcFmt)
  /-- FENCE (R283): Orders accesses of the selected classes at a scope and completes when the scope's actions are done. -/
  | fence (h : Head) (o : FfFmt)
  /-- MON (R284): Arms the wave's monitor on the physical line of an address. -/
  | mon (h : Head) (o : LmFmt)
  /-- WAIT (R285): Threads wait for the monitor trigger, with an optional limit. -/
  | wait (h : Head) (o : YgFmt)
  /-- QPOP (R317): The wave removes the head entry of a queue window. -/
  | qpop (h : Head) (o : QFmt)
  /-- QPUSH (R317): The surveyor appends an entry to a queue window. -/
  | qpush (h : Head) (o : QFmt)
  /-- TEX (R376): Filtered texture sample with level fall-back and survey. -/
  | tex (h : Head) (o : TFmt)
  /-- TLD (R376): Unfiltered texel load with level fall-back. -/
  | tld (h : Head) (o : TFmt)
  /-- VATOM (R362): Per-lane 64-bit unsigned minimum of a visibility key. -/
  | vatom (h : Head) (o : TFmt)
  /-- COPY (R294): Copy-engine block copy of up to three dimensions. -/
  | copy (h : Head) (o : EFmt)
  /-- GATHER (R297): Copy-engine gather through an index array. -/
  | gather (h : Head) (o : EFmt)
  /-- SCATTER (R297): Copy-engine scatter through an index array. -/
  | scatter (h : Head) (o : EFmt)
  /-- PREF (R298): Brings lines toward a cache level. -/
  | pref (h : Head) (o : EFmt)
  /-- FILL (R299): Writes a repeated 8-byte pattern. -/
  | fill (h : Head) (o : EFmt)
  /-- CFLUSH (R300): Writes the die's dirty L2 bytes of a range to the LLC. -/
  | cflush (h : Head) (o : EFmt)
  /-- CINV (R300): Writes back and drops the range's lines from L2 and L1. -/
  | cinv (h : Head) (o : EFmt)
  /-- TOKEN_COMPLETE (R289): An engine completes a command by writing its status into the token register or the dormant wave's context. -/
  | tokenComplete (e : EngineRef)
  /-- DLAUNCH (R304): Takes a bench entry for a device-side grid launch, or waits or fails on a full bench. -/
  | dlaunch (h : Head) (o : EFmt)
  /-- LAUNCH_ACCEPT (R305): A bench entry or front-end launch whose tokens have completed is checked and accepted or refused. -/
  | launchAccept (src : LaunchSrc)
  /-- FORK (R311): Pushes a continuation record onto its queue. -/
  | fork (h : Head) (o : YgFmt)
  /-- JOIN (R311): Decrements a join counter at the LLC and pushes the record when it reaches zero. -/
  | join (h : Head) (o : YgFmt)
  /-- ENQ (R314): Sends a record to a work-graph drawer. -/
  | enq (h : Head) (o : EFmt)
  /-- MCFG (R326): Replaces the group's matrix configuration. -/
  | mcfg (h : Head) (o : EFmt)
  /-- MCFG_Q (R326): Reports MPROG without changing the configuration. -/
  | mcfgQ (h : Head) (o : EFmt)
  /-- MSHELF (R328): Loads operand B into the shelf in shelf form. -/
  | mshelf (h : Head) (o : EFmt)
  /-- MLOOP (R331): Multiplies A by B from the shelf into an accumulator tile over K-steps. -/
  | mloop (h : Head) (o : EFmt)
  /-- MSTEP (R331): Multiplies A by B from scratchpad into an accumulator tile over K-steps. -/
  | mstep (h : Head) (o : EFmt)
  /-- MZERO (R335): Clears selected accumulator tiles. -/
  | mzero (h : Head) (o : EFmt)
  /-- MROT (R337): Applies a Hadamard pass to a tile region in place. -/
  | mrot (h : Head) (o : EFmt)
  /-- MDRAIN (R341): Converts a tile region into scratchpad with block scales. -/
  | mdrain (h : Head) (o : EFmt)
  /-- MSCALE (R339): Sets a tensor record's scale mode, fixed scale and margin. -/
  | mscale (h : Head) (o : EFmt)
  /-- MHIST_CLEAR (R340): Empties a tensor record's maximum ring. -/
  | mhistClear (h : Head) (o : EFmt)
  /-- MHIST_READ (R340): Writes a tensor record's ring to scratchpad. -/
  | mhistRead (h : Head) (o : EFmt)
  /-- MHIST_PUSH (R340): Pushes a magnitude into a tensor record's ring. -/
  | mhistPush (h : Head) (o : EFmt)
  /-- MGET (R336): Copies a tile region out to memory or scratchpad. -/
  | mget (h : Head) (o : EFmt)
  /-- MPUT (R336): Copies a tile region in from memory or scratchpad. -/
  | mput (h : Head) (o : EFmt)
  /-- EMIT (R351): Hands a first-pass meshlet to the die's cull unit. -/
  | emit (h : Head) (o : YgFmt)
  /-- EMIT_RETEST (R353): Hands a second-pass meshlet for the pyramid test only. -/
  | emitRetest (h : Head) (o : YgFmt)
  /-- EMIT_CLOSE (R356): Closes a draw and launches its shading grid. -/
  | emitClose (h : Head) (o : YgFmt)
  /-- MAPSYNC (R379): Drops map and texel cache lines of a range on every core and empties the survey filters. -/
  | mapsync (h : Head) (o : EFmt)
  /-- PRESENT (R381): Copies a present record into a head's display queue. -/
  | present (h : Head) (o : EFmt)
  /-- TRAP (R430): Raises Trap(0x10) when a status register shows an error. -/
  | trap (h : Head) (o : YgFmt)
  /-- SYSC (R430): Raises a system-call trap. -/
  | sysc (h : Head) (o : YgFmt)
  /-- BKPT (R432): Halts the armed context or raises a breakpoint trap. -/
  | bkpt (h : Head) (o : YgFmt)
  /-- RDSR (R433): Reads a system register into a scalar. -/
  | rdsr (h : Head) (o : YsFmt)
  /-- WRSR (R433): Writes a system register that has no behaviour of its own. -/
  | wrsr (h : Head) (o : YsFmt)
  /-- SOFT_ERROR (R440): An uncorrectable SRAM or GDDR 7 error poisons bytes and writes a soft-error notice. -/
  | softError (e : SoftErr)
  /-- MAILBOX_WRITE (R395): A control-port write replaces a pose mailbox slot as one update. The control node's other
  accesses come by the same ports (R238, R460). -/
  | mailboxWrite (addr : Nat) (data : List Byte)
  /-- VQROT (R408): Rotates a vector by a quaternion. -/
  | vqrot (h : Head) (o : VFmt)
  /-- VPROJ (R408): Projects a point to pixel coordinates. -/
  | vproj (h : Head) (o : VFmt)
  /-- VWARP (R408): Applies a homography to a point. -/
  | vwarp (h : Head) (o : VFmt)
  /-- VEXTR (R408): Extrapolates a point along a motion vector. -/
  | vextr (h : Head) (o : VFmt)
  /-- VBLEND (R408): Blends two colours by a weight. -/
  | vblend (h : Head) (o : VFmt)
  /-- VDISOC (R408): Tests two depths for disocclusion. -/
  | vdisoc (h : Head) (o : VFmt)
  /-- VPXPK (R408): Packs four channels into a pixel word. -/
  | vpxpk (h : Head) (o : VFmt)
  /-- VPXUP (R408): Unpacks a pixel word into four channels. -/
  | vpxup (h : Head) (o : VFmt)
  /-- XCFG (R409): Sets the display matrix input format and clears the accumulators. -/
  | xcfg (h : Head) (o : XdFmt)
  /-- XWLD (R409): Loads a weight slot from the line buffer. -/
  | xwld (h : Head) (o : XdFmt)
  /-- XMMA (R410): Multiplies input rows by a weight slot into the accumulators. -/
  | xmma (h : Head) (o : XdFmt)
  /-- XACT (R409): Applies a bias and activation to accumulator rows. -/
  | xact (h : Head) (o : XdFmt)
  /-- XDRAIN (R410): Writes accumulator rows to the line buffer. -/
  | xdrain (h : Head) (o : XdFmt)
  /-- XZERO (R409): Clears accumulator rows. -/
  | xzero (h : Head) (o : XdFmt)
  /-- FFET (R407): Bilinear frame fetch with optional motion compensation. -/
  | ffet (h : Head) (o : FdFmt)
  /-- FFETD (R407): Nearest depth fetch. -/
  | ffetd (h : Head) (o : FdFmt)
  /-- FFETM (R407): Motion vector fetch. -/
  | ffetm (h : Head) (o : FdFmt)
  /-- FNEAR (R407): Nearest colour fetch. -/
  | fnear (h : Head) (o : FdFmt)
  /-- HEMIT (R403): Writes a 32-pixel segment of a line if before its deadline. -/
  | hemit (h : Head) (o : YgFmt)
  /-- HFILL (R403): Fills line segments with a pixel word if before the deadline. -/
  | hfill (h : Head) (o : YgFmt)
  /-- PGET (R404): Reads a line's latched pose after its latch. -/
  | pget (h : Head) (o : YgFmt)
  /-- DQPOP (R404): Copies CUR of the frame to the line buffer after promotion. -/
  | dqpop (h : Head) (o : YgFmt)
  /-- DQDONE (R404): Ends the run's use of its present record. -/
  | dqdone (h : Head) (o : YgFmt)
  /-- ATLSET (R405): Loads atlas entries from memory. -/
  | atlset (h : Head) (o : YgFmt)
  /-- LBAR (R405): Waits for the core's earlier X commands to complete. -/
  | lbar (h : Head) (o : YgFmt)
  /-- LWAIT (R405): Waits until a line's scan start. -/
  | lwait (h : Head) (o : YgFmt)
  /-- RDBEAM (R405): Reads the beam position, a deadline distance or the cycle count. -/
  | rdbeam (h : Head) (o : YgFmt)
  /-- SEND (R467): Sends a packet of 1 to 4 flits to a stop of the cluster ring. -/
  | send (h : Head) (o : EFmt)
  /-- RECV (R469): Waits for a channel's arrival count and subtracts it. -/
  | recv (h : Head) (o : EFmt)
  /-- BARC (R472): Groups wait to open a scheduled section. -/
  | barc (h : Head) (o : YgFmt)
  /-- BARC_CLOSE (R472): Groups wait to close a scheduled section. -/
  | barcClose (h : Head) (o : YgFmt)
  /-- XMIT (R475): Places flits on the outgoing link at scheduled section cycles. -/
  | xmit (h : Head) (o : EFmt)
  /-- ISEL (R475): Delivers, forwards or discards incoming flits at scheduled cycles. -/
  | isel (h : Head) (o : EFmt)
  /-- COLL (R478): Joins a collective instance at a scope as one participant. -/
  | coll (h : Head) (o : EFmt)
  /-- PEER_ACCESS (R484): An inbound access from a peer port is accepted or refused by the window. -/
  | peerAccess (port : Nat) (a : PeerOp)
  /-- RESET_COLD (R513): A cold reset runs the start steps to ready, or a minimal start. -/
  | resetCold (rep : StartReport)
  /-- BOOT_WARM_RESET (R515): Starts a warm reset once the wrsr completes. -/
  | bootWarmReset (rep : StartReport)
  /-- POWER_WINDOW (R526): Each 1 ms power average adjusts withheld issue cycles to the cap. -/
  | powerWindow (p : PowerSample)
  /-- SERVICE_TEST_CLUSTER (R520): Moves a cluster's groups away, tests and repairs it, and returns it. -/
  | serviceTestCluster (fails : List UnitFault)
  /-- SERVICE_RETRAIN_CHANNEL (R521): Retrains a GDDR 7 channel, holding its accesses. -/
  | serviceRetrainChannel (fails : List UnitFault)
  /-- PREPARED_TARGET_FILL (R31): A bundle of a prepared-target fill arrives from L1 into its buffer entry, or the fill meets a fault. In the running offer, a is the wave, b is the branch target. -/
  | preparedTargetFill
  /-- DONE_DECREMENT (R103): After the last group of a grid ends, the device decrements the DONE counter at the LLC, waiting if its page is not resident. In the running offer, a is the grid. -/
  | doneDecrement
  /-- SLEEP_EXPIRE (R197): A thread's sleep count ends and it becomes runnable. In the running offer, a is the wave, b is the lane. -/
  | sleepExpire
  /-- WRITE_COMBINE_FLUSH (R269): Merged write-combining stores leave the write buffer after a covering fence or 64 cycles. In the running offer, a is the core. -/
  | writeCombineFlush
  /-- MONITOR_TRIGGER (R262): A write performing at pkg scope to a monitored line, or its removal, triggers the monitor and wakes its waiters. In the running offer, a is the line. -/
  | monitorTrigger
  /-- WAIT_LIMIT_EXPIRE (R285): A limited wait reaches its limit and the thread resumes with a false predicate. In the running offer, a is the wave, b is the lane. -/
  | waitLimitExpire
  /-- MAP_CACHE_EXPIRE (R373): A map-cache line is dropped 65,536 cycles after its fill. In the running offer, a is the core, b is the line. -/
  | mapCacheExpire
  /-- LRATE_WINDOW (R109): A new hub microsecond begins, admitting launches held by the LRATE budget. -/
  | lrateWindow
  /-- GROUP_PLACE (R113): The front end places a waiting group on a core once resources allow, granting banks and creating waves. In the running offer, a is the grid, b is the core. -/
  | groupPlace
  /-- WAVE_ACTIVATE (R210): A ready-dormant wave is activated into a free slot, reading its header from the context. In the running offer, a is the wave. -/
  | waveActivate
  /-- WAVE_DEACTIVATE (R211): A victim wave writes its dirty lines and header to its context and frees its slot. In the running offer, a is the wave. -/
  | waveDeactivate
  /-- VICTIM_AGE_EXPIRE (R128): A ready-dormant wave has waited 16,384 cycles, or a barrier wait 2,048, making activated waves eligible victims. In the running offer, a is the core. -/
  | victimAgeExpire
  /-- REGISTER_FILL (R208): A register-cache miss evicts a victim line and fills the line from the context. In the running offer, a is the wave, b is the line. -/
  | registerFill
  /-- CONTINUATION_POP (R312): A queued continuation is popped onto a core as a one-wave group. In the running offer, a is the place of the record among those queued, b is the core. -/
  | continuationPop
  /-- DRAWER_RECORD_PLACE (R314): The drawer places a record in its slot, launching the batch when it reaches COAL records. In the running offer, a is the enq command. -/
  | drawerRecordPlace
  /-- DRAWER_TIMEOUT (R315): A drawer batch's timer expires and the batch launches as one group. In the running offer, a is the drawer. -/
  | drawerTimeout
  /-- MESHLET_CULL (R352): The cull unit tests a queued meshlet and bins it, lists it for retest or discards it. In the running offer, a is the die. -/
  | meshletCull
  /-- TILE_RESOLVE (R355): A visibility resolver rasterises a tile and writes sample keys by minimum at the LLC. In the running offer, a is the die, b is the draw, c is the tile. -/
  | tileResolve
  /-- TILE_FINAL (R356): A tile becomes final and its shading group may be placed. In the running offer, a is the die, b is the draw, c is the tile. -/
  | tileFinal
  /-- WATCHDOG_TRAP (R442): A wave whose bundle count would exceed WDOG traps with 0x09 before the group issues. In the running offer, a is the wave. -/
  | watchdogTrap
  /-- FAULT_RESUME (R427): Resumes the trapping threads at NEXT. In the running offer, a is the record. -/
  | faultResume
  /-- FAULT_REPLAY (R427): Reissues the trapping group from its PC. In the running offer, a is the record. -/
  | faultReplay
  /-- FAULT_KILL_WAVE (R427): Ends every thread of the wave and cancels its commands. In the running offer, a is the record. -/
  | faultKillWave
  /-- FAULT_KILL_GROUP (R427): Kills every wave of the group. In the running offer, a is the record. -/
  | faultKillGroup
  /-- FAULT_KILL_GRID (R427): Kills every placed group of the grid and places no more. In the running offer, a is the record. -/
  | faultKillGrid
  /-- FAULT_KILL_CONTEXT (R427): Kills every grid of every region under the context slot. In the running offer, a is the record. -/
  | faultKillContext
  /-- FAULT_VACATE (R427): Deactivates the stopped wave, keeping its record open. In the running offer, a is the record. -/
  | faultVacate
  /-- FAULT_HEAD_WRITE (R424): Software consumes fault records, letting waiting records enter the ring. In the running offer, x is the value. -/
  | faultHeadWrite
  /-- FAULT_TIMEOUT (R428): An open kind-0 record's control-node timeout expires and FDPOL is applied. In the running offer, a is the record. -/
  | faultTimeout
  /-- SWITCH_OUT (R447): A switch request stops the slot's groups and drains their engine commands in phase A. -/
  | switchOut
  /-- SWITCH_PHASE_B (R447): After phase A, lines, headers and group save areas are written to the pool. -/
  | switchPhaseB
  /-- SWITCH_PHASE_C (R447): Once phase B writes perform, grants are released and the status is written. -/
  | switchPhaseC
  /-- SWITCH_IN (R451): A switch request places the saved groups again and restores their state. -/
  | switchIn
  /-- REGION_SYNC (R111): Discards the device's copies of a region control block. In the running offer, x is the value. -/
  | regionSync
  /-- BANK_ROLE (R216): Changes the roles of a core's SRAM banks. In the running offer, a is the core, x is the value. -/
  | bankRole
  /-- TRANS_INVAL_PAGE (R236): Invalidates one page's translations of a slot. In the running offer, x is the value. -/
  | transInvalPage
  /-- TRANS_INVAL_SLOT (R236): Invalidates all translations of a slot. In the running offer, x is the value. -/
  | transInvalSlot
  /-- TRANS_INVAL_ALL (R236): Invalidates translations of all slots. In the running offer, x is the value. -/
  | transInvalAll
  /-- FRAME_PARTITION_WRITE (R225): A write to FRAME_BASE, FRAME_SIZE or FRAME_WAYS drops and reloads the frame partition. In the running offer, a is the register, x is the value. -/
  | framePartitionWrite
  /-- HEAD_RESERVE (R226): Sets a head's display read bandwidth reservation unless the total is exceeded. In the running offer, a is the head, x is the value. -/
  | headReserve
  /-- FWIN_CTL (R229): Reconfigures a format window and discards its views' LLC lines. In the running offer, a is the window, x is the value. -/
  | fwinCtl
  /-- HEAD_ENABLE (R385): Enables a disabled head, reading its descriptor and beginning frame 0. In the running offer, a is the head, x is the value. -/
  | headEnable
  /-- HEAD_REREAD (R385): Rereads an enabled head's descriptor for the next promotion instant. In the running offer, a is the head, x is the value. -/
  | headReread
  /-- HEAD_DISABLE (R385): Stops a head at the next promotion instant. In the running offer, a is the head, x is the value. -/
  | headDisable
  /-- FRAME_PROMOTE (R393): At a frame's promotion instant the newest valid queued record becomes CUR. In the running offer, a is the head. -/
  | framePromote
  /-- RUN_START (R391): A free line core starts the open band with the earliest deadline, loading its atlas and clearing its buffer if needed. In the running offer, a is the line core, b is the head. -/
  | runStart
  /-- BAND_CLOSE (R391): A band's close ends its run at a group boundary or skips it. In the running offer, a is the head. -/
  | bandClose
  /-- POSE_LATCH (R396): At a line's latch the head copies the later mailbox slot into its pose store. In the running offer, a is the head. -/
  | poseLatch
  /-- LINE_DEADLINE (R412): At a line's deadline the head takes the run's line if ready, else the reprojected line. In the running offer, a is the head. -/
  | lineDeadline
  /-- LINE_SCAN_OUT (R389): At a line's scan start the head sends it out of its port or writes it to memory. In the running offer, a is the head. -/
  | lineScanOut
  /-- LINE_CORE_WAIT_END (R404): A line core's pget, dqpop or lwait wait ends at its instant and the core resumes. In the running offer, a is the line core. -/
  | lineCoreWaitEnd
  /-- DME_COMMAND_EXECUTE (R411): The display matrix engine runs a queued X command row by row and completes it. In the running offer, a is the line core. -/
  | dmeCommandExecute
  /-- PACKET_HOP (R462): A waiting packet advances to the next stop using slots or the escape lane. In the running offer, a is the cluster, b is the packet. -/
  | packetHop
  /-- PACKET_ARRIVE (R468): A packet reaching its stop is refused, held or written and counted. In the running offer, a is the cluster, b is the packet. -/
  | packetArrive
  /-- SECTION_OPEN (R473): Once all stops arrive and the ring drains, the section opens and releases at T0. In the running offer, a is the cluster. -/
  | sectionOpen
  /-- SECTION_CLOSE (R473): Once all groups arrive and scheduled commands complete, routed mode resumes. In the running offer, a is the cluster. -/
  | sectionClose
  /-- COLL_INSTANCE_COMPLETE (R479): A complete collective instance writes its combined result to every participant. In the running offer, a is the instance. -/
  | collInstanceComplete
  /-- CQ_CTL (R480): Enables or configures a command queue, resetting NEXT on enable. In the running offer, a is the queue, b is the register, x is the value. -/
  | cqCtl
  /-- KICK (R482): Makes the front end reread the queue's next packet and may start the stale timer. In the running offer, a is the queue. -/
  | kick
  /-- KICK_TIMER_EXPIRE (R482): The 1 ms stale timer expires with the packet still invalid, raising STALE. In the running offer, a is the queue. -/
  | kickTimerExpire
  /-- CQ_NOP (R483): A nop packet completes at once. In the running offer, a is the queue. -/
  | cqNop
  /-- CQ_LAUNCH (R483): A launch packet launches a grid from its record. In the running offer, a is the queue. -/
  | cqLaunch
  /-- CQ_SIGNAL (R483): After earlier launches end, writes a value as a sys release. In the running offer, a is the queue. -/
  | cqSignal
  /-- CQ_WAIT (R483): Holds the queue until a memory value reaches a threshold. In the running offer, a is the queue. -/
  | cqWait
  /-- CQ_SWITCH (R483): Queues a switch request. In the running offer, a is the queue. -/
  | cqSwitch
  /-- CQ_INVALID (R483): A packet with an unknown OP or nonzero reserved field completes 0x86. In the running offer, a is the queue. -/
  | cqInvalid
  /-- DBG_TABLE (R488): Writing the debug table base makes every core reread its entry. In the running offer, x is the value. -/
  | dbgTable
  /-- DBG_SYNC (R488): Makes named cores reread their debug entries. In the running offer, x is the value. -/
  | dbgSync
  /-- DBG_HALT (R499): Halt command triggers a halt of the armed slot. -/
  | dbgHalt
  /-- DBG_RESUME (R501): Lets every halted wave of the slot issue again. -/
  | dbgResume
  /-- DBG_STEP (R501): Lets one halted wave issue exactly one group. In the running offer, a is the core, b is the activation slot. -/
  | dbgStep
  /-- DBG_DEACTIVATE (R500): Deactivates every activated halted wave of the slot. -/
  | dbgDeactivate
  /-- DBG_PROFILE_DUMP (R506): Every core takes a snapshot of its counters. -/
  | dbgProfileDump
  /-- DBG_PROFILE_CLEAR (R505): Sets every conflict counter to zero. -/
  | dbgProfileClear
  /-- PC_SAMPLE (R495): Every 64 x SPER cycles a core samples one activated wave into the trace ring. In the running offer, a is the core. -/
  | pcSample
  /-- REPLAY_OFF (R507): Turns recording and replay off. In the running offer, x is the value. -/
  | replayOff
  /-- REPLAY_RECORD (R509): Starts recording the slot's placements, issue order and atomic orders. In the running offer, x is the value. -/
  | replayRecord
  /-- REPLAY_ENFORCE (R510): Starts replay, enforcing the logs up to LLIMIT. In the running offer, x is the value. -/
  | replayEnforce
  /-- REPLAY_TIMEOUT (R512): An unmatched operation or RUN wait exceeds the limit and replay diverges. In the running offer, a is the unit. -/
  | replayTimeout
  /-- START_TIMEOUT (R513): A start not ready within 30 s fails with code 0x02. In the running offer, a is the step. -/
  | startTimeout
  /-- BOOT_CLEAR_FAILS (R515): Sets the failure count F to zero. -/
  | bootClearFails
  /-- THERMAL_TRIP (R526): A die reaching 110 degrees stops the device at once. -/
  | thermalTrip
  /-- POWER_FAULT (R515): A power fault stops the device at once. -/
  | powerFault
  /-- SERVICE_INSTALL_IMAGE (R524): Verifies and installs a signed image. -/
  | serviceInstallImage
  /-- SERVICE_RETRAIN_PEER (R521): Retrains a peer port, completing pending aperture accesses with 0x8E. -/
  | serviceRetrainPeer
  /-- ATTEST_REPORT (R525): Writes a signed attestation report over a nonce. In the running offer, x is the value. -/
  | attestReport
  /-- ATTEST_CERT_CHAIN (R525): Writes the identity certificate chain. In the running offer, x is the value. -/
  | attestCertChain
  /-- FAULT_CTL (R422): A write to FAULT_CTL enables or reconfigures the fault ring, letting records that waited in the device enter it. In the running offer, x is the value. -/
  | faultCtl
  /-- PEER_LINK_TRAINED (R481): A peer port's link becomes trained, setting PEER_CTL.LINK and admitting aperture accesses and sys collectives through it. In the running offer, a is the port. -/
  | peerLinkTrained
  /-- PEER_LINK_DOWN (R484): A peer port's link goes down, clearing LINK so that aperture accesses trap or complete 0x8E and the live count of sys collectives falls. In the running offer, a is the port. -/
  | peerLinkDown
  /-- HEAD_LINK_DOWN (R385): A physical head's DisplayPort link is lost, clearing HEAD_STAT.LINK. In the running offer, a is the head. -/
  | headLinkDown
  /-- IMAGE_ACTIVE (R524): An accepted image becomes active at the next idle point of its unit, and the minimum version of its KIND rises to its VERSION. In the running offer, a is the kind. -/
  | imageActive
  deriving DecidableEq, Repr

/-- A step and its operands, as the outside or another step offers it. -/
structure Offer where
  instr : Instr
  arg : Arg
  deriving DecidableEq, Repr

end Sys2Proof
end

