-- ==== Sys2Proof/WellFormed.lean ====
section
/-! DEFINITION. Which slot operations are legal encodings: the limits that R48, R49, R50, R51, R58 and each
instruction's own rule set on its fields. A step of a device unit has no encoding and is always well formed. -/
namespace Sys2Proof

/-- Integer type codes 0x0 to 0x7 (R55). -/
def Ty.isInt : Ty → Bool
  | .i8 | .i16 | .i32 | .i64 | .n8 | .n16 | .n32 | .n64 => true
  | _ => false
/-- Signed integer types. -/
def Ty.signed : Ty → Bool
  | .i8 | .i16 | .i32 | .i64 => true
  | _ => false
/-- Width in bits of an element (R71, R157). -/
def Ty.width : Ty → Nat
  | .i8 | .n8 | .e4m3 | .e5m2 => 8
  | .i16 | .n16 | .f16 | .bf16 => 16
  | .i32 | .n32 | .f32 => 32
  | .i64 | .n64 => 64
/-- Width in bytes of an access (R265). -/
def Ty.size (t : Ty) : Nat := t.width / 8
/-- 64-bit types. -/
def Ty.wide (t : Ty) : Bool := t == .i64 || t == .n64
/-- The integer types of the V slots (R157). -/
def Ty.vInt (t : Ty) : Bool := t.isInt && !t.wide
/-- The floating-point types of the arithmetic V opcodes (R161). -/
def Ty.vFloat (t : Ty) : Bool := t == .f16 || t == .bf16 || t == .f32
/-- The 8-bit floating-point types. -/
def Ty.float8 (t : Ty) : Bool := t == .e4m3 || t == .e5m2

/-- GP = 0 with GN = 1 is illegal (R18, R46). -/
def Head.wf (h : Head) : Bool := !(h.neg && h.gp == 0)

/-- A rounding mode is accepted (R51). -/
def rndOk (m : Mod) : Bool := m.toNat ≤ 5

/-- An 8-bit source field names a predicate (R49). -/
def predSrc (x : BitVec 8) : Bool := x.toNat < 32
/-- A 7-bit field names a predicate (R49). -/
def predDst (x : BitVec 7) : Bool := x.toNat < 32
/-- A 7-bit field names a scalar (R49). -/
def scalDst (x : BitVec 7) : Bool := x.toNat < 64
/-- A 6-bit field names a predicate (R49). -/
def pred6 (x : BitVec 6) : Bool := x.toNat < 32
/-- A run of n vector registers from a 7-bit field stays below v128. -/
def runD (x : BitVec 7) (n : Nat) : Bool := x.toNat + n ≤ 128
/-- A run of n vector registers from an 8-bit source field stays below v128. -/
def runS (x : BitVec 8) (n : Nat) : Bool := x.toNat % 128 + n ≤ 128
def even7 (x : BitVec 7) : Bool := x.toNat % 2 == 0

namespace VFmt
/-- Operand B is a vector source: BSEL = 1 needs field B zero (R44). -/
def bOk (o : VFmt) : Bool := !o.bsel || o.b == 0
/-- Operand B is not used. -/
def noB (o : VFmt) : Bool := !o.bsel && o.b == 0
def noC (o : VFmt) : Bool := o.c == 0
/-- TYPE "—" (R157) and MOD zero. -/
def plain (o : VFmt) : Bool := o.ty == .i8 && o.md == 0
/-- Integer types with MOD zero, or float types with a rounding mode (R158). -/
def arith (o : VFmt) : Bool := (o.ty.vInt && o.md == 0) || (o.ty.vFloat && rndOk o.md)
def intOnly (o : VFmt) : Bool := o.ty.vInt && o.md == 0
def floatOnly (o : VFmt) : Bool := o.ty.vFloat && rndOk o.md
/-- A float opcode of the transcendental unit (R179). -/
def trans (o : VFmt) : Bool := (o.ty == .f32 || o.ty == .f16) && rndOk o.md && o.noB && o.noC
/-- vabs and vneg (R161, R163). -/
def signOp (o : VFmt) : Bool := ((o.ty.vInt && o.ty.signed) || o.ty.vFloat) && o.md == 0 && o.noB && o.noC
def imm5 (o : VFmt) : Bool := o.c.toNat < 32
/-- The widening products (R173). -/
def wideOk (o : VFmt) : Bool := o.intOnly && o.bOk && even7 o.d
/-- IMM8 of vcvt (R175). -/
def cvtOk (o : VFmt) : Bool :=
  let src := Ty.ofCode (o.c.extractLsb' 0 4)
  match src with
  | none => false
  | some t =>
    !t.wide && !o.ty.wide && (bits o.c 5 4 < 32 / t.width) && (bits o.c 7 6 < 32 / o.ty.width) && o.noB
      && (if t.isInt && o.ty.isInt then o.md == 0 else rndOk o.md)
/-- vpack (R176). -/
def packOk (o : VFmt) : Bool :=
  o.bOk && (if o.ty.width == 16 then o.c == 0 else o.c.toNat < 2)
    && ((o.ty.isInt && o.md == 0 && o.ty.width ≤ 16) || ((o.ty == .f16 || o.ty == .bf16 || o.ty.float8) && rndOk o.md))
/-- vunpk (R177). -/
def unpkOk (o : VFmt) : Bool :=
  o.noB && o.md == 0 && o.ty.width ≤ 16 && o.c.toNat < 32 / o.ty.width
/-- vscan and vred (R187). -/
def scanOk (o : VFmt) (ex : Bool) : Bool :=
  let op := bits o.c 2 0
  o.noB && o.c.toNat < (if ex then 16 else 8) && op ≤ 5
    && (((o.ty == .i32 || o.ty == .n32) && o.md == 0)
        || (o.ty == .f32 && op ≤ 2 && (if op == 0 then rndOk o.md else o.md == 0)))
/-- The target code of mamax and mcvt (R342): e4m3, e5m2 or bp2 to bp8. -/
def target (o : VFmt) : Bool := let k := bits o.c 3 0; k == 2 || k == 3 || (8 ≤ k && k ≤ 14)
/-- The predicate operations (R185). -/
def predOp (o : VFmt) : Bool := o.plain && !o.bsel && predDst o.d
/-- The float opcodes of profile D (R408). -/
def dispF (o : VFmt) : Bool := o.ty == .f32 && o.md == 0 && !o.bsel
end VFmt

namespace EFmt
/-- Consumed-token fields above TN are zero, and a run of n scalars from A ends by s63 (R53). -/
def runOk (o : EFmt) (n : Nat) : Bool :=
  (1 ≤ o.tn.toNat || o.t1 == 0) && (2 ≤ o.tn.toNat || o.t2 == 0) && (3 ≤ o.tn.toNat || o.t3 == 0)
    && o.a.toNat + n ≤ 64
/-- DIMS of copy (R294). -/
def dims (o : EFmt) : Nat := bits o.md 1 0
end EFmt

/-- A matrix format code that is not reserved (R322). -/
def matCode (k : Nat) : Bool := k ≤ 4 || (8 ≤ k && k ≤ 14)

/-- The type and operation pairs of atomics (R277). -/
def aopOk (ty : Ty) (aop : Nat) : Bool :=
  let int := ty == .i32 || ty == .n32 || ty == .i64 || ty == .n64
  let all := int || ty == .f32
  if aop ≤ 2 || aop == 6 then all
  else if aop ≤ 5 || aop == 7 then int
  else (aop == 8 || aop == 9) && (ty == .n32 || ty == .n64)

/-- The D limits of atom and satom (R276). -/
def atomD (o : LaFmt) : Bool :=
  let need := (if o.ty.wide then 2 else 1) * (if o.aop == 7 then 2 else 1)
  o.d.toNat % need == 0

/-- D of a 64-bit vector load or store is even (R265). -/
def LmFmt.vecD (o : LmFmt) : Bool := !o.ty.wide || even7 o.d
def LmFmt.noX (o : LmFmt) : Bool := match o.addr with | .off _ => true | .idx .. => false

/-- An SRN that a system register occupies (R434, R487, R502, R507 and the registers of chapter 22). -/
def srnOccupied (n : Nat) : Bool :=
  (0x010 ≤ n && n ≤ 0x014) || n == 0x018 || (0x020 ≤ n && n ≤ 0x023) || n == 0x040 || n == 0x070
    || (0x080 ≤ n && n ≤ 0x082) || (0x090 ≤ n && n ≤ 0x092) || (0x100 ≤ n && n ≤ 0x13F)
    || (0x400 ≤ n && n ≤ 0x503) || (0x600 ≤ n && n ≤ 0x703) || (0x800 ≤ n && n ≤ 0x903)
    || (0xA00 ≤ n && n ≤ 0xA05) || (0xA10 ≤ n && n ≤ 0xA1F) || (0xA30 ≤ n && n ≤ 0xA32)
    || (0xC00 ≤ n && n ≤ 0xC02) || n == 0xC04 || n == 0xC05 || (0xC08 ≤ n && n ≤ 0xC0A)
    || (0xC40 ≤ n && n ≤ 0xC7F)

/-- Two-operand S opcodes (R73). -/
def SFmt.alu : SFmt → Bool
  | .r o => o.ty.isInt && o.cond == 0 && o.pos == 0 && o.len == 0
  | .i o => o.ty.isInt && o.cond == 0
/-- cmp and test (R78, R79): D names a predicate and COND is at most `k`. -/
def SFmt.cmpOk (k : Nat) : SFmt → Bool
  | .r o => o.ty.isInt && o.cond.toNat ≤ k && o.pos == 0 && o.len == 0 && pred6 o.d
  | .i o => o.ty.isInt && o.cond.toNat ≤ k && pred6 o.d

/-- The legality of a slot operation's fields (R58), apart from what the header and its place in the
group decide. -/
def Instr.fieldsOk : Instr → Bool
  | .add _ o | .sub _ o | .mul _ o | .mulh _ o | .div _ o | .mod _ o | .min _ o | .max _ o | .and _ o
  | .or _ o | .xor _ o | .andn _ o | .shl _ o | .shr _ o | .sar _ o | .rol _ o => o.alu
  | .bfx _ o => o.ty.isInt && o.cond == 0 && o.b == 0 && o.pos.toNat + o.len.toNat + 1 ≤ o.ty.width
  | .bfi _ o => o.ty.isInt && o.cond == 0 && o.pos.toNat + o.len.toNat + 1 ≤ o.ty.width
  | .popc _ o | .clz _ o | .ctz _ o | .brev _ o =>
    o.ty.isInt && o.b == 0 && o.cond == 0 && o.pos == 0 && o.len == 0
  | .cmp _ o => o.cmpOk 5
  | .test _ o => o.cmpOk 1
  | .sel _ o => o.ty.isInt && o.cond == 0 && pred6 o.pos && o.len == 0
  | .mov _ (.r o) => o.ty.isInt && o.b == 0 && o.cond == 0 && o.pos == 0 && o.len == 0
  | .mov _ (.i o) => o.ty.isInt && o.a == 0 && o.cond == 0
  | .movw _ _ | .movwHi _ _ => true
  | .getid _ o => o.a == 0 && o.ty == .i8 && o.cond == 0 && o.imm.toNat ≤ 16
  | .setmode _ (.r o) => o.ty == .i8 && o.cond == 0 && o.pos == 0 && o.len == 0
  | .setmode _ (.i o) => o.ty == .i8 && o.cond == 0 && o.a == 0 && bits o.imm 7 5 == 0 && bits o.imm 17 13 == 0
  | .rdfl _ o => o.ty == .i8 && o.cond == 0 && o.a == 0 && o.b == 0 && o.len == 0 && pred6 o.pos
  | .pbr _ _ | .pbrx _ _ | .mfb _ _ | .call _ _ => true
  | .loop _ o => !o.off.msb && (if o.i then o.a == 0 else o.cnt == 0)
  | .ret _ o => o.a == 0
  | .exit _ => true
  | .vadd _ o | .vsub _ o | .vmul _ o => o.arith && o.bOk && o.noC
  | .vmulh _ o | .vadds _ o | .vsubs _ o => o.intOnly && o.bOk && o.noC
  | .vfma _ o => o.arith && o.bOk
  | .vmin _ o | .vmax _ o => (o.ty.vInt || o.ty.vFloat) && o.md == 0 && o.bOk && o.noC
  | .vabs _ o | .vneg _ o => o.signOp
  | .vdiv _ o | .vldexp _ o => o.floatOnly && o.bOk && o.noC
  | .vrint _ o | .vfract _ o => o.floatOnly && o.noB && o.noC
  | .vand _ o | .vor _ o | .vxor _ o | .vandn _ o => o.plain && o.bOk && o.noC
  | .vnot _ o => o.plain && o.noB && o.noC
  | .vshl _ o | .vshr _ o | .vsar _ o | .vrol _ o => o.intOnly && o.bOk && o.noC
  | .vbfx _ o => (o.ty == .i32 || o.ty == .n32) && o.md == 0 && o.bOk
  | .vbfi _ o => o.plain && o.bOk
  | .vpopc _ o | .vclz _ o | .vbrev _ o => o.intOnly && o.noB && o.noC
  | .vsel _ o => o.plain && o.bOk && predSrc o.c
  | .vmov _ o => o.plain && o.bOk && o.a == 0 && o.noC
  | .vcmp _ o =>
    predDst o.d && o.bOk && o.noC && (((o.ty == .i32 || o.ty == .n32) && o.md.toNat ≤ 5) || o.ty == .f32)
  | .vclass _ o => predDst o.d && o.ty == .f32 && o.md == 0 && o.noB
  | .vtest _ o => predDst o.d && o.ty == .i8 && o.md.toNat ≤ 1 && o.bOk && o.noC
  | .vsad _ o => o.ty.isInt && o.ty.width ≤ 16 && o.md == 0 && o.bOk
  | .vmulw _ o => o.wideOk && o.noC
  | .vmadw _ o => o.wideOk && o.c.toNat % 2 == 0
  | .vcvt _ o => o.cvtOk
  | .vpack _ o => o.packOk
  | .vunpk _ o => o.unpkOk
  | .vbyte _ o => o.plain && o.bOk
  | .vrcp _ o | .vrsq _ o | .vsqrt _ o | .vexp2 _ o | .vlog2 _ o | .vsin _ o | .vcos _ o | .vtanh _ o => o.trans
  | .vclmul _ o | .vclmulh _ o => o.ty == .n32 && o.md == 0 && o.bOk && o.noC
  | .vrbox _ o => o.dispF && runS o.a 4 && runS o.b 3 && runS o.c 6 && runD o.d 2
  | .vrtri _ o => o.dispF && runS o.a 4 && runS o.b 3 && runS o.c 9 && runD o.d 4
  | .vdp4 _ o => o.bOk && (((o.ty == .i8 || o.ty == .n8) && o.md == 0) || (o.ty.float8 && rndOk o.md))
  | .vdp2 _ o =>
    o.bOk && (((o.ty == .i16 || o.ty == .n16) && o.md == 0) || ((o.ty == .f16 || o.ty == .bf16) && rndOk o.md))
  | .pand _ o | .por _ o | .pxor _ o | .pandn _ o => o.predOp && predSrc o.a && predSrc o.b && o.noC
  | .pnot _ o | .pmov _ o => o.predOp && predSrc o.a && o.b == 0 && o.noC
  | .pset _ o => o.predOp && o.a == 0 && o.b == 0 && o.c.toNat < 2
  | .vperm _ o => o.plain && o.bOk && o.noC
  | .vrot _ o | .vshuf _ o | .vbcast _ o => o.plain && o.noB && o.imm5
  | .vmatch _ o => o.plain && o.noB && o.noC
  | .vballot _ o => o.plain && o.noB && o.noC && predSrc o.a
  | .vscan _ o => o.scanOk true
  | .vred _ o => o.scanOk false
  | .vlane _ o => o.plain && o.noB && o.imm5 && scalDst o.d
  | .vfirst _ o => o.plain && o.noB && o.noC && scalDst o.d && predSrc o.a
  | .vcompact _ o => o.plain && !o.bsel && predSrc o.b && o.noC
  | .mamax _ o => o.ty == .f32 && o.md == 0 && o.noB && o.target && !bit o.c 7
  | .mcvt _ o => o.ty == .f32 && rndOk o.md && o.bOk && o.target && bits o.c 7 4 == 0
  | .meet _ o => o.d == 0 && o.a == 0 && o.b == 0 && bits o.imm 19 18 == 0
  | .meetSave _ o => even7 o.d && o.a == 0 && o.b == 0 && bits o.imm 19 18 == 1
  | .meetRest _ o => even7 o.d && o.a == 0 && o.b == 0 && o.imm == 0x80000
  | .meetClr _ o => o.d == 0 && o.a == 0 && o.b == 0 && o.imm == 0xC0000
  | .yield _ o | .bar _ o | .dqdone _ o | .lbar _ o => o.d == 0 && o.a == 0 && o.b == 0 && o.imm == 0
  | .vote _ o => predDst o.d && pred6 o.a && o.b == 0 && o.imm.toNat ≤ 2
  | .sleep _ o => o.d == 0 && o.a == 0 && o.b == 0
  | .rdclk _ o => scalDst o.d && o.a == 0 && o.b == 0 && o.imm.toNat ≤ 1
  | .ld _ o | .lds _ o | .ldMark _ o | .st _ o | .sts _ o => o.vecD
  | .ldu _ o | .stu _ o => o.noX && scalDst o.d
  | .ldp _ o => o.noX && o.vecD
  | .mon _ o => o.noX && o.d == 0 && o.ty == .i8
  | .atom _ o => aopOk o.ty o.aop.toNat && o.scope.toNat ≤ 6 && atomD o
  | .satom _ o => aopOk o.ty o.aop.toNat && o.scope.toNat ≤ 2 && atomD o
  | .red _ o => aopOk o.ty o.aop.toNat && o.aop.toNat ≤ 5 && o.scope.toNat ≤ 6 && atomD o
  | .sred _ o => aopOk o.ty o.aop.toNat && o.aop.toNat ≤ 5 && o.scope.toNat ≤ 2 && atomD o
  | .cst4 _ o => o.d.toNat + o.nl.toNat ≤ 127
  | .fence _ o => o.kind.toNat ≤ 2 && o.scope.toNat ≤ 6
  | .wait _ o => predDst o.d && o.a == 0 && o.b == 0
  | .qpop _ o => !o.lu
  | .qpush _ _ => true
  | .tex _ o => runD o.d 5 && runS o.a (if bit o.md 0 then 6 else 3) && o.md.toNat < 4
  | .tld _ o => runD o.d 5 && runS o.a 3 && o.smp == 0 && (o.md == 0 || o.md == 2)
  | .vatom _ o => even7 o.d && o.smp == 0 && o.md.toNat < 4
  | .copy _ o => o.md.toNat < 32 && o.dims ≤ 2 && o.runOk (3 + o.dims)
  | .gather _ o | .scatter _ o => o.md.toNat < 32 && o.dims == 0 && o.runOk 4
  | .pref _ o => o.md.toNat ≤ 2 && o.runOk 2
  | .fill _ o => (o.md == 0 || o.md == 8) && o.runOk 3
  | .cflush _ o | .cinv _ o | .mapsync _ o | .present _ o | .xmit _ o | .isel _ o => o.md == 0 && o.runOk 2
  | .dlaunch _ o => o.md.toNat < 64 && (bit o.md 5 || o.md == 0) && o.runOk 1
  | .fork _ o | .join _ o => o.d == 0 && o.imm == 0
  | .enq _ o => (o.md == 0 || o.md == 4) && o.runOk 2
  | .mcfg _ o => o.md == 0 && o.runOk 1
  | .mcfgQ _ o => o.md == 1 && o.runOk 1
  | .mshelf _ o => o.md.toNat < 2 && o.runOk 3
  | .mloop _ o | .mstep _ o => o.md.toNat < 2 && o.runOk 4
  | .mzero _ o | .mscale _ o => o.md == 0 && o.runOk 1
  | .mrot _ o => o.dims ≤ 2 && o.runOk 2
  | .mdrain _ o => matCode (bits o.md 3 0) && bits o.md 6 4 ≤ 4 && o.runOk 3
  | .mhistClear _ o | .mhistRead _ o | .mhistPush _ o => o.md == 0 && o.runOk 2
  | .mget _ o | .mput _ o => o.md.toNat < 2 && o.runOk 2
  | .emit _ o => o.d == 0 && o.imm == 0
  | .emitRetest _ o => o.d == 0 && o.imm == 1
  | .emitClose _ o => o.d == 0 && o.a == 0 && o.imm == 2
  | .trap _ o => o.d == 0 && o.b == 0 && bits o.imm 19 17 == 0
  | .sysc _ o => o.d == 0 && o.b == 0
  | .bkpt _ o => o.d == 0 && o.a == 0 && o.b == 0 && bits o.imm 19 16 == 0
  | .rdsr _ o | .wrsr _ o => srnOccupied o.srn.toNat
  | .vqrot _ o => o.dispF && runS o.a 3 && o.b == 0 && runS o.c 4 && runD o.d 3
  | .vproj _ o => o.dispF && runS o.a 3 && o.b == 0 && runS o.c 4 && runD o.d 2
  | .vwarp _ o => o.dispF && runS o.a 2 && o.b == 0 && runS o.c 9 && runD o.d 2
  | .vextr _ o => o.dispF && runS o.a 2 && runD o.d 2
  | .vblend _ o => o.dispF && runS o.a 4 && runS o.b 4 && runD o.d 4
  | .vdisoc _ o => o.dispF && predDst o.d
  | .vpxpk _ o => o.plain && !o.bsel && runS o.a 4 && o.b == 0 && o.c.toNat ≤ 1
  | .vpxup _ o => o.plain && !o.bsel && o.b == 0 && o.c.toNat ≤ 1 && runD o.d 4
  | .xcfg _ o => o.d == 0 && o.a == 0 && o.md == 0
  | .xwld _ o => o.d == 0 && o.a == 0 && o.md.toNat < 4
  | .xmma _ o => o.d == 0 && o.a == 0 && o.md.toNat < 128
  | .xact _ o => o.d == 0 && o.a == 0 && o.md.toNat < 256 && bits o.md 1 0 ≤ 2
  | .xdrain _ o => o.d == 0 && o.a == 0 && o.md.toNat < 8192 && bits o.md 1 0 == 0
  | .xzero _ o => o.d == 0 && o.a == 0 && o.s == 0 && o.md.toNat < 128 && bits o.md 1 0 == 0
  | .ffet _ o | .fnear _ o => runD o.d 4 && runS o.a 2 && o.md.toNat ≤ 1 && (o.md == 1 || o.b == 0)
  | .ffetd _ o => runS o.a 2 && o.md.toNat ≤ 1 && (o.md == 1 || o.b == 0)
  | .ffetm _ o => runD o.d 2 && runS o.a 2 && o.md == 0 && o.b == 0
  | .hemit _ o => o.b == 0 && o.imm.toNat < 32
  | .hfill _ o => o.d == 0 && o.imm.toNat < 32
  | .pget _ o => o.d.toNat ≤ 56 && o.b == 0 && o.imm.toNat < 32
  | .dqpop _ o => o.d == 0 && o.b == 0 && o.imm.toNat < 32
  | .atlset _ o => o.d == 0 && o.imm == 0
  | .lwait _ o => o.d == 0 && o.b == 0 && o.imm == 0
  | .rdbeam _ o => scalDst o.d && o.b == 0 && o.imm.toNat ≤ 2 && (o.imm == 1 || o.a == 0)
  | .send _ o => o.md.toNat < 8 && o.runOk 2
  | .recv _ o => o.md.toNat < 8 && o.runOk 1
  | .barc _ o => o.d == 0 && o.a == 0 && o.b == 0 && o.imm == 0
  | .barcClose _ o => o.d == 0 && o.a == 0 && o.b == 0 && o.imm == 1
  | .coll _ o =>
    o.runOk 3 && bits o.md 2 0 ≤ 6 && bits o.md 6 5 ≤ 2
      && !(3 ≤ bits o.md 2 0 && bits o.md 2 0 ≤ 5 && 2 ≤ bits o.md 4 3)
  | _ => true

/-- The guard and tag of a slot operation; none for a step of a device unit. -/
def Instr.head? : Instr → Option Head
  | .nop h => some h
  | .hint h _ _ => some h
  | .add h _ => some h
  | .sub h _ => some h
  | .mul h _ => some h
  | .mulh h _ => some h
  | .div h _ => some h
  | .mod h _ => some h
  | .min h _ => some h
  | .max h _ => some h
  | .and h _ => some h
  | .or h _ => some h
  | .xor h _ => some h
  | .andn h _ => some h
  | .shl h _ => some h
  | .shr h _ => some h
  | .sar h _ => some h
  | .rol h _ => some h
  | .bfx h _ => some h
  | .bfi h _ => some h
  | .popc h _ => some h
  | .clz h _ => some h
  | .ctz h _ => some h
  | .brev h _ => some h
  | .cmp h _ => some h
  | .test h _ => some h
  | .sel h _ => some h
  | .mov h _ => some h
  | .movw h _ => some h
  | .movwHi h _ => some h
  | .getid h _ => some h
  | .setmode h _ => some h
  | .rdfl h _ => some h
  | .pbr h _ => some h
  | .pbrx h _ => some h
  | .mfb h _ => some h
  | .loop h _ => some h
  | .call h _ => some h
  | .ret h _ => some h
  | .exit h => some h
  | .vadd h _ => some h
  | .vsub h _ => some h
  | .vmul h _ => some h
  | .vmulh h _ => some h
  | .vfma h _ => some h
  | .vmin h _ => some h
  | .vmax h _ => some h
  | .vabs h _ => some h
  | .vneg h _ => some h
  | .vadds h _ => some h
  | .vsubs h _ => some h
  | .vdiv h _ => some h
  | .vrint h _ => some h
  | .vfract h _ => some h
  | .vldexp h _ => some h
  | .vand h _ => some h
  | .vor h _ => some h
  | .vxor h _ => some h
  | .vandn h _ => some h
  | .vnot h _ => some h
  | .vshl h _ => some h
  | .vshr h _ => some h
  | .vsar h _ => some h
  | .vrol h _ => some h
  | .vbfx h _ => some h
  | .vbfi h _ => some h
  | .vpopc h _ => some h
  | .vclz h _ => some h
  | .vbrev h _ => some h
  | .vsel h _ => some h
  | .vmov h _ => some h
  | .vcmp h _ => some h
  | .vclass h _ => some h
  | .vtest h _ => some h
  | .vsad h _ => some h
  | .vmulw h _ => some h
  | .vmadw h _ => some h
  | .vcvt h _ => some h
  | .vpack h _ => some h
  | .vunpk h _ => some h
  | .vbyte h _ => some h
  | .vrcp h _ => some h
  | .vrsq h _ => some h
  | .vsqrt h _ => some h
  | .vexp2 h _ => some h
  | .vlog2 h _ => some h
  | .vsin h _ => some h
  | .vcos h _ => some h
  | .vtanh h _ => some h
  | .vclmul h _ => some h
  | .vclmulh h _ => some h
  | .vrbox h _ => some h
  | .vrtri h _ => some h
  | .vdp4 h _ => some h
  | .vdp2 h _ => some h
  | .pand h _ => some h
  | .por h _ => some h
  | .pxor h _ => some h
  | .pandn h _ => some h
  | .pnot h _ => some h
  | .pmov h _ => some h
  | .pset h _ => some h
  | .vperm h _ => some h
  | .vrot h _ => some h
  | .vshuf h _ => some h
  | .vbcast h _ => some h
  | .vmatch h _ => some h
  | .vballot h _ => some h
  | .vscan h _ => some h
  | .vred h _ => some h
  | .vlane h _ => some h
  | .vfirst h _ => some h
  | .vcompact h _ => some h
  | .mamax h _ => some h
  | .mcvt h _ => some h
  | .meet h _ => some h
  | .meetSave h _ => some h
  | .meetRest h _ => some h
  | .meetClr h _ => some h
  | .yield h _ => some h
  | .bar h _ => some h
  | .vote h _ => some h
  | .sleep h _ => some h
  | .rdclk h _ => some h
  | .ld h _ => some h
  | .ldu h _ => some h
  | .lds h _ => some h
  | .ldp h _ => some h
  | .ldMark h _ => some h
  | .atom h _ => some h
  | .satom h _ => some h
  | .st h _ => some h
  | .stu h _ => some h
  | .sts h _ => some h
  | .red h _ => some h
  | .sred h _ => some h
  | .cst4 h _ => some h
  | .fence h _ => some h
  | .mon h _ => some h
  | .wait h _ => some h
  | .qpop h _ => some h
  | .qpush h _ => some h
  | .tex h _ => some h
  | .tld h _ => some h
  | .vatom h _ => some h
  | .copy h _ => some h
  | .gather h _ => some h
  | .scatter h _ => some h
  | .pref h _ => some h
  | .fill h _ => some h
  | .cflush h _ => some h
  | .cinv h _ => some h
  | .dlaunch h _ => some h
  | .fork h _ => some h
  | .join h _ => some h
  | .enq h _ => some h
  | .mcfg h _ => some h
  | .mcfgQ h _ => some h
  | .mshelf h _ => some h
  | .mloop h _ => some h
  | .mstep h _ => some h
  | .mzero h _ => some h
  | .mrot h _ => some h
  | .mdrain h _ => some h
  | .mscale h _ => some h
  | .mhistClear h _ => some h
  | .mhistRead h _ => some h
  | .mhistPush h _ => some h
  | .mget h _ => some h
  | .mput h _ => some h
  | .emit h _ => some h
  | .emitRetest h _ => some h
  | .emitClose h _ => some h
  | .mapsync h _ => some h
  | .present h _ => some h
  | .trap h _ => some h
  | .sysc h _ => some h
  | .bkpt h _ => some h
  | .rdsr h _ => some h
  | .wrsr h _ => some h
  | .vqrot h _ => some h
  | .vproj h _ => some h
  | .vwarp h _ => some h
  | .vextr h _ => some h
  | .vblend h _ => some h
  | .vdisoc h _ => some h
  | .vpxpk h _ => some h
  | .vpxup h _ => some h
  | .xcfg h _ => some h
  | .xwld h _ => some h
  | .xmma h _ => some h
  | .xact h _ => some h
  | .xdrain h _ => some h
  | .xzero h _ => some h
  | .ffet h _ => some h
  | .ffetd h _ => some h
  | .ffetm h _ => some h
  | .fnear h _ => some h
  | .hemit h _ => some h
  | .hfill h _ => some h
  | .pget h _ => some h
  | .dqpop h _ => some h
  | .dqdone h _ => some h
  | .atlset h _ => some h
  | .lbar h _ => some h
  | .lwait h _ => some h
  | .rdbeam h _ => some h
  | .send h _ => some h
  | .recv h _ => some h
  | .barc h _ => some h
  | .barcClose h _ => some h
  | .xmit h _ => some h
  | .isel h _ => some h
  | .coll h _ => some h
  | _ => none

/-- A well-formed operation: a legal head (R46) and legal fields (R58). -/
def Instr.wf (i : Instr) : Bool := (match i.head? with | some h => h.wf | none => true) && i.fieldsOk

end Sys2Proof
end

