-- ==== Sys2Proof/Decode.lean ====
section
/-! DEFINITION. The decoder of bundles and slots (02_bundles_and_opcode_map.md R41 to R60): fields of each
operand format, the opcode maps of both profiles, and after them the encoder written from the same
tables. A slot that is no instruction decodes to none: an illegal encoding. -/
namespace Sys2Proof

/-- The 39-bit operand field of a slot (R46). -/
abbrev Opnd := BitVec 39

/-- A field [hi:lo] of the operand field: `n` bits from bit `lo`. -/
def fld (x : Opnd) (lo n : Nat) : BitVec n := x.extractLsb' lo n

/-! Fields of each format (R48). A parser refuses a nonzero bit marked zero and a reserved TYPE. -/

def parseSR (x : Opnd) : Option SrFmt :=
  if fld x 38 1 == 0 then
    (Ty.ofCode (fld x 16 4)).map fun ty =>
      { d := fld x 32 6, a := fld x 26 6, b := fld x 20 6, ty, cond := fld x 12 4, pos := fld x 6 6, len := fld x 0 6 }
  else none
def encSR (o : SrFmt) : Opnd := (0#1) ++ o.d ++ o.a ++ o.b ++ o.ty.code ++ o.cond ++ o.pos ++ o.len

def parseSI (x : Opnd) : Option SiFmt :=
  if fld x 38 1 == 1 then
    (Ty.ofCode (fld x 22 4)).map fun ty =>
      { d := fld x 32 6, a := fld x 26 6, ty, cond := fld x 18 4, imm := fld x 0 18 }
  else none
def encSI (o : SiFmt) : Opnd := (1#1) ++ o.d ++ o.a ++ o.ty.code ++ o.cond ++ o.imm

/-- SR or SI: bit 38 selects. -/
def parseS (x : Opnd) : Option SFmt :=
  if fld x 38 1 == 0 then (parseSR x).map .r else (parseSI x).map .i
def encS : SFmt → Opnd
  | .r o => encSR o
  | .i o => encSI o

def parseSL (h : BitVec 1) (x : Opnd) : Option SlFmt :=
  if fld x 38 1 == h then some { d := fld x 32 6, imm := fld x 0 32 } else none
def encSL (h : BitVec 1) (o : SlFmt) : Opnd := h ++ o.d ++ o.imm

def parseSB (x : Opnd) : Option SbFmt :=
  if fld x 35 1 == 0 then some { bt := fld x 36 3, off := fld x 0 35 } else none
def encSB (o : SbFmt) : Opnd := o.bt ++ (0#1) ++ o.off

def parseSX (x : Opnd) : Option SxFmt :=
  if fld x 0 30 == 0 then some { bt := fld x 36 3, a := fld x 30 6 } else none
def encSX (o : SxFmt) : Opnd := o.bt ++ o.a ++ (0#30)

def parseSLP (x : Opnd) : Option SlpFmt :=
  some { i := fld x 38 1 == 1, a := fld x 32 6, cnt := fld x 16 16, off := fld x 0 16 }
def encSLP (o : SlpFmt) : Opnd := BitVec.ofBool o.i ++ o.a ++ o.cnt ++ o.off

def parseV (x : Opnd) : Option VFmt :=
  (Ty.ofCode (fld x 4 4)).map fun ty =>
    { d := fld x 32 7, a := fld x 24 8, b := fld x 16 8, c := fld x 8 8, ty, md := fld x 1 3, bsel := fld x 0 1 == 1 }
def encV (o : VFmt) : Opnd := o.d ++ o.a ++ o.b ++ o.c ++ o.ty.code ++ o.md ++ BitVec.ofBool o.bsel

def parseLM (x : Opnd) : Option LmFmt :=
  if fld x 16 1 == 0 then
    (Ty.ofCode (fld x 18 4)).bind fun ty =>
      let mk (ad : LmAddr) : LmFmt := { cls := fld x 35 4, d := fld x 28 7, base := fld x 22 6, ty, addr := ad }
      if fld x 17 1 == 0 then some (mk (.off (fld x 0 16)))
      else if fld x 0 6 == 0 then some (mk (.idx (fld x 15 1 == 1) (fld x 8 7) (fld x 6 2)))
      else none
  else none
def encLmAddr : LmAddr → BitVec 18
  | .off o => (0#2) ++ o
  | .idx lu i sh => (2#2) ++ BitVec.ofBool lu ++ i ++ sh ++ (0#6)
def encLM (o : LmFmt) : Opnd := o.cls ++ o.d ++ o.base ++ o.ty.code ++ encLmAddr o.addr

def parseLA (x : Opnd) : Option LaFmt :=
  if fld x 0 3 == 0 then
    (Ty.ofCode (fld x 18 4)).map fun ty =>
      { cls := fld x 35 4, d := fld x 28 7, base := fld x 22 6, ty, scope := fld x 15 3, aop := fld x 11 4,
        lu := fld x 10 1 == 1, idx := fld x 3 7 }
  else none
def encLA (o : LaFmt) : Opnd :=
  o.cls ++ o.d ++ o.base ++ o.ty.code ++ o.scope ++ o.aop ++ BitVec.ofBool o.lu ++ o.idx ++ (0#3)

def parseLC (x : Opnd) : Option LcFmt :=
  some { cls := fld x 35 4, d := fld x 28 7, base := fld x 22 6, p := fld x 17 5, nl := fld x 15 2, off := fld x 0 15 }
def encLC (o : LcFmt) : Opnd := o.cls ++ o.d ++ o.base ++ o.p ++ o.nl ++ o.off

def parseQ (x : Opnd) : Option QFmt :=
  if fld x 3 28 == 0 then some { v := fld x 32 7, lu := fld x 31 1 == 1, q := fld x 0 3 } else none
def encQ (o : QFmt) : Opnd := o.v ++ BitVec.ofBool o.lu ++ (0#28) ++ o.q

def parseT (x : Opnd) : Option TFmt :=
  some { d := fld x 32 7, a := fld x 24 8, res := fld x 18 6, smp := fld x 12 6, md := fld x 0 12 }
def encT (o : TFmt) : Opnd := o.d ++ o.a ++ o.res ++ o.smp ++ o.md

def parseE (x : Opnd) : Option EFmt :=
  some { tn := fld x 37 2, td := fld x 31 6, t1 := fld x 25 6, t2 := fld x 19 6, t3 := fld x 13 6, a := fld x 7 6,
         md := fld x 0 7 }
def encE (o : EFmt) : Opnd := o.tn ++ o.td ++ o.t1 ++ o.t2 ++ o.t3 ++ o.a ++ o.md

def parseFF (x : Opnd) : Option FfFmt :=
  if fld x 16 18 == 0 then some { kind := fld x 37 2, scope := fld x 34 3, cmask := fld x 0 16 } else none
def encFF (o : FfFmt) : Opnd := o.kind ++ o.scope ++ (0#18) ++ o.cmask

def parseYG (x : Opnd) : Option YgFmt :=
  some { d := fld x 32 7, a := fld x 26 6, b := fld x 20 6, imm := fld x 0 20 }
def encYG (o : YgFmt) : Opnd := o.d ++ o.a ++ o.b ++ o.imm

def parseYS (x : Opnd) : Option YsFmt :=
  if fld x 38 1 == 0 && fld x 12 20 == 0 then some { s := fld x 32 6, srn := fld x 0 12 } else none
def encYS (o : YsFmt) : Opnd := (0#1) ++ o.s ++ (0#20) ++ o.srn

def parseXD (x : Opnd) : Option XdFmt :=
  some { d := fld x 32 7, a := fld x 24 8, s := fld x 18 6, md := fld x 0 18 }
def encXD (o : XdFmt) : Opnd := o.d ++ o.a ++ o.s ++ o.md

def parseFD (x : Opnd) : Option FdFmt :=
  some { d := fld x 32 7, a := fld x 24 8, b := fld x 16 8, frm := fld x 10 6, md := fld x 0 10 }
def encFD (o : FdFmt) : Opnd := o.d ++ o.a ++ o.b ++ o.frm ++ o.md

/-! The bundle and its header (R41, R42). -/

/-- The profile of a core (R24). -/
inductive Profile where
  | c | d
  deriving DecidableEq, Repr

/-- Slot k of a bundle: bits [119 + 56k : 64 + 56k] (R41). -/
def slotOf (b : Bundle) (k : Nat) : Slot := b.extractLsb' (64 + 56 * k) 56
def hdrStop (b : Bundle) : Bool := bit b 0
def hdrProf (b : Bundle) : Nat := bits b 2 1
def hdrTcnt (b : Bundle) : Nat := bits b 5 3
/-- Test field k of the header, for k from 1 to 4 (R42). -/
def hdrTestBits (b : Bundle) (k : Nat) : BitVec 9 := b.extractLsb' (9 * k - 3) 9
def hdrBpe (b : Bundle) : Bool := bit b 42
def hdrBps (b : Bundle) : BitVec 6 := b.extractLsb' 43 6
def hdrBph (b : Bundle) : Bool := bit b 49
def hdrScyc (b : Bundle) : Nat := bits b 63 50

/-- One transfer test (R43). -/
def testOf (t : BitVec 9) : Test := { pred := t.extractLsb' 0 5, neg := t.getLsbD 5, bt := t.extractLsb' 6 3 }
def encTest (t : Test) : BitVec 9 := t.bt ++ BitVec.ofBool t.neg ++ t.pred

/-- The transfer tree of a header: tests 1 to TCNT (R26). -/
def treeOf (b : Bundle) : Tree :=
  { tests := (List.range (min (hdrTcnt b) 4)).map fun k => testOf (hdrTestBits b (k + 1)) }

/-- A header is legal for its place and profile (R43, R44, R59). -/
def hdrOk (p : Profile) (last : Bool) (b : Bundle) : Bool :=
  hdrProf b == (match p with | .c => 0 | .d => 1) && hdrTcnt b ≤ 4
    && (last || hdrTcnt b == 0)
    && ((List.range 4).all fun k => k + 1 ≤ hdrTcnt b || hdrTestBits b (k + 1) == 0)
    && (hdrBpe b || (hdrBps b == 0 && !hdrBph b))

/-! Opcode maps (R55, R56): an opcode with the reader of its operand field. -/

/-- One row of an opcode map. -/
structure OpRow where
  opc : Nat
  rd : Head → Opnd → Option Instr

/-- S slot of both profiles (R55). -/
def sMap : List OpRow := [
  { opc := 0x01, rd := fun h x => (parseS x).map (.add h) },
  { opc := 0x02, rd := fun h x => (parseS x).map (.sub h) },
  { opc := 0x03, rd := fun h x => (parseS x).map (.mul h) },
  { opc := 0x04, rd := fun h x => (parseS x).map (.mulh h) },
  { opc := 0x05, rd := fun h x => (parseS x).map (.div h) },
  { opc := 0x06, rd := fun h x => (parseS x).map (.mod h) },
  { opc := 0x07, rd := fun h x => (parseS x).map (.min h) },
  { opc := 0x08, rd := fun h x => (parseS x).map (.max h) },
  { opc := 0x09, rd := fun h x => (parseS x).map (.and h) },
  { opc := 0x0A, rd := fun h x => (parseS x).map (.or h) },
  { opc := 0x0B, rd := fun h x => (parseS x).map (.xor h) },
  { opc := 0x0C, rd := fun h x => (parseS x).map (.andn h) },
  { opc := 0x0D, rd := fun h x => (parseS x).map (.shl h) },
  { opc := 0x0E, rd := fun h x => (parseS x).map (.shr h) },
  { opc := 0x0F, rd := fun h x => (parseS x).map (.sar h) },
  { opc := 0x10, rd := fun h x => (parseS x).map (.rol h) },
  { opc := 0x11, rd := fun h x => (parseSR x).map (.bfx h) },
  { opc := 0x12, rd := fun h x => (parseSR x).map (.bfi h) },
  { opc := 0x13, rd := fun h x => (parseSR x).map (.popc h) },
  { opc := 0x14, rd := fun h x => (parseSR x).map (.clz h) },
  { opc := 0x15, rd := fun h x => (parseSR x).map (.ctz h) },
  { opc := 0x16, rd := fun h x => (parseSR x).map (.brev h) },
  { opc := 0x17, rd := fun h x => (parseS x).map (.cmp h) },
  { opc := 0x18, rd := fun h x => (parseS x).map (.test h) },
  { opc := 0x19, rd := fun h x => (parseSR x).map (.sel h) },
  { opc := 0x1A, rd := fun h x => (parseS x).map (.mov h) },
  { opc := 0x1B, rd := fun h x => if fld x 38 1 == 0 then (parseSL 0 x).map (.movw h) else (parseSL 1 x).map (.movwHi h) },
  { opc := 0x1C, rd := fun h x => (parseSI x).map (.getid h) },
  { opc := 0x1D, rd := fun h x => (parseS x).map (.setmode h) },
  { opc := 0x1E, rd := fun h x => (parseSR x).map (.rdfl h) },
  { opc := 0x20, rd := fun h x => (parseSB x).map (.pbr h) },
  { opc := 0x21, rd := fun h x => (parseSX x).map (.pbrx h) },
  { opc := 0x22, rd := fun h x => (parseSX x).map (.mfb h) },
  { opc := 0x23, rd := fun h x => (parseSLP x).map (.loop h) },
  { opc := 0x24, rd := fun h x => (parseSX x).map (.call h) },
  { opc := 0x25, rd := fun h x => (parseSX x).map (.ret h) },
  { opc := 0x26, rd := fun h x => if x == 0 then some (.exit h) else none }]

/-- V opcodes of both profiles that stand in V0 and V1 (R55). -/
def vMapComA : List OpRow := [
  { opc := 0x01, rd := fun h x => (parseV x).map (.vadd h) },
  { opc := 0x02, rd := fun h x => (parseV x).map (.vsub h) },
  { opc := 0x03, rd := fun h x => (parseV x).map (.vmul h) },
  { opc := 0x04, rd := fun h x => (parseV x).map (.vmulh h) },
  { opc := 0x05, rd := fun h x => (parseV x).map (.vfma h) },
  { opc := 0x06, rd := fun h x => (parseV x).map (.vmin h) },
  { opc := 0x07, rd := fun h x => (parseV x).map (.vmax h) },
  { opc := 0x08, rd := fun h x => (parseV x).map (.vabs h) },
  { opc := 0x09, rd := fun h x => (parseV x).map (.vneg h) },
  { opc := 0x0A, rd := fun h x => (parseV x).map (.vadds h) },
  { opc := 0x0B, rd := fun h x => (parseV x).map (.vsubs h) },
  { opc := 0x0C, rd := fun h x => (parseV x).map (.vdiv h) },
  { opc := 0x0D, rd := fun h x => (parseV x).map (.vrint h) },
  { opc := 0x0E, rd := fun h x => (parseV x).map (.vfract h) },
  { opc := 0x0F, rd := fun h x => (parseV x).map (.vldexp h) },
  { opc := 0x10, rd := fun h x => (parseV x).map (.vand h) },
  { opc := 0x11, rd := fun h x => (parseV x).map (.vor h) },
  { opc := 0x12, rd := fun h x => (parseV x).map (.vxor h) },
  { opc := 0x13, rd := fun h x => (parseV x).map (.vandn h) },
  { opc := 0x14, rd := fun h x => (parseV x).map (.vnot h) },
  { opc := 0x15, rd := fun h x => (parseV x).map (.vshl h) },
  { opc := 0x16, rd := fun h x => (parseV x).map (.vshr h) },
  { opc := 0x17, rd := fun h x => (parseV x).map (.vsar h) },
  { opc := 0x18, rd := fun h x => (parseV x).map (.vrol h) },
  { opc := 0x19, rd := fun h x => (parseV x).map (.vbfx h) },
  { opc := 0x1A, rd := fun h x => (parseV x).map (.vbfi h) },
  { opc := 0x1B, rd := fun h x => (parseV x).map (.vpopc h) },
  { opc := 0x1C, rd := fun h x => (parseV x).map (.vclz h) },
  { opc := 0x1D, rd := fun h x => (parseV x).map (.vbrev h) },
  { opc := 0x1E, rd := fun h x => (parseV x).map (.vsel h) },
  { opc := 0x1F, rd := fun h x => (parseV x).map (.vmov h) },
  { opc := 0x20, rd := fun h x => (parseV x).map (.vcmp h) },
  { opc := 0x21, rd := fun h x => (parseV x).map (.vclass h) },
  { opc := 0x22, rd := fun h x => (parseV x).map (.vtest h) },
  { opc := 0x23, rd := fun h x => (parseV x).map (.vsad h) },
  { opc := 0x24, rd := fun h x => (parseV x).map (.vmulw h) },
  { opc := 0x25, rd := fun h x => (parseV x).map (.vmadw h) },
  { opc := 0x28, rd := fun h x => (parseV x).map (.vcvt h) },
  { opc := 0x29, rd := fun h x => (parseV x).map (.vpack h) },
  { opc := 0x2A, rd := fun h x => (parseV x).map (.vunpk h) }]

/-- V opcodes of both profiles that stand in V0 and V1 (R55). -/
def vMapComB : List OpRow := [
  { opc := 0x2B, rd := fun h x => (parseV x).map (.vbyte h) },
  { opc := 0x3C, rd := fun h x => (parseV x).map (.vdp4 h) },
  { opc := 0x3D, rd := fun h x => (parseV x).map (.vdp2 h) },
  { opc := 0x40, rd := fun h x => (parseV x).map (.pand h) },
  { opc := 0x41, rd := fun h x => (parseV x).map (.por h) },
  { opc := 0x42, rd := fun h x => (parseV x).map (.pxor h) },
  { opc := 0x43, rd := fun h x => (parseV x).map (.pandn h) },
  { opc := 0x44, rd := fun h x => (parseV x).map (.pnot h) },
  { opc := 0x45, rd := fun h x => (parseV x).map (.pmov h) },
  { opc := 0x46, rd := fun h x => (parseV x).map (.pset h) },
  { opc := 0x50, rd := fun h x => (parseV x).map (.vperm h) },
  { opc := 0x51, rd := fun h x => (parseV x).map (.vrot h) },
  { opc := 0x52, rd := fun h x => (parseV x).map (.vshuf h) },
  { opc := 0x53, rd := fun h x => (parseV x).map (.vbcast h) },
  { opc := 0x54, rd := fun h x => (parseV x).map (.vmatch h) },
  { opc := 0x55, rd := fun h x => (parseV x).map (.vballot h) },
  { opc := 0x56, rd := fun h x => (parseV x).map (.vscan h) },
  { opc := 0x57, rd := fun h x => (parseV x).map (.vred h) },
  { opc := 0x58, rd := fun h x => (parseV x).map (.vlane h) },
  { opc := 0x59, rd := fun h x => (parseV x).map (.vfirst h) },
  { opc := 0x5A, rd := fun h x => (parseV x).map (.vcompact h) }]

/-- V opcodes of both profiles that stand in V0 and V1 (R55). -/
def vMapCom : List OpRow := vMapComA ++ vMapComB

/-- V opcodes of both profiles that stand in V1 only (R55). -/
def vMapOne : List OpRow := [
  { opc := 0x30, rd := fun h x => (parseV x).map (.vrcp h) },
  { opc := 0x31, rd := fun h x => (parseV x).map (.vrsq h) },
  { opc := 0x32, rd := fun h x => (parseV x).map (.vsqrt h) },
  { opc := 0x33, rd := fun h x => (parseV x).map (.vexp2 h) },
  { opc := 0x34, rd := fun h x => (parseV x).map (.vlog2 h) },
  { opc := 0x35, rd := fun h x => (parseV x).map (.vsin h) },
  { opc := 0x36, rd := fun h x => (parseV x).map (.vcos h) },
  { opc := 0x37, rd := fun h x => (parseV x).map (.vtanh h) }]

/-- V0-only opcode of profile C (R55). -/
def vMapC0 : List OpRow := [
  { opc := 0x5C, rd := fun h x => (parseV x).map (.mamax h) }]

/-- V1-only opcodes of profile C (R55). -/
def vMapC1 : List OpRow := [
  { opc := 0x38, rd := fun h x => (parseV x).map (.vclmul h) },
  { opc := 0x39, rd := fun h x => (parseV x).map (.vclmulh h) },
  { opc := 0x3A, rd := fun h x => (parseV x).map (.vrbox h) },
  { opc := 0x3B, rd := fun h x => (parseV x).map (.vrtri h) },
  { opc := 0x5D, rd := fun h x => (parseV x).map (.mcvt h) }]

/-- V opcodes added by profile D (R56). -/
def vMapD : List OpRow := [
  { opc := 0x60, rd := fun h x => (parseV x).map (.vqrot h) },
  { opc := 0x61, rd := fun h x => (parseV x).map (.vproj h) },
  { opc := 0x62, rd := fun h x => (parseV x).map (.vwarp h) },
  { opc := 0x63, rd := fun h x => (parseV x).map (.vextr h) },
  { opc := 0x64, rd := fun h x => (parseV x).map (.vblend h) },
  { opc := 0x65, rd := fun h x => (parseV x).map (.vdisoc h) },
  { opc := 0x66, rd := fun h x => (parseV x).map (.vpxpk h) },
  { opc := 0x67, rd := fun h x => (parseV x).map (.vpxup h) }]

/-- M slot (R55). -/
def mMap : List OpRow := [
  { opc := 0x01, rd := fun h x => (parseE x).map fun o => if bit o.md 0 then .mcfgQ h o else .mcfg h o },
  { opc := 0x02, rd := fun h x => (parseE x).map (.mshelf h) },
  { opc := 0x03, rd := fun h x => (parseE x).map (.mloop h) },
  { opc := 0x04, rd := fun h x => (parseE x).map (.mstep h) },
  { opc := 0x05, rd := fun h x => (parseE x).map (.mzero h) },
  { opc := 0x06, rd := fun h x => (parseE x).map (.mrot h) },
  { opc := 0x07, rd := fun h x => (parseE x).map (.mdrain h) },
  { opc := 0x08, rd := fun h x => (parseE x).map (.mscale h) },
  { opc := 0x09, rd := fun h x => (parseE x).map (.mhistClear h) },
  { opc := 0x0A, rd := fun h x => (parseE x).map (.mget h) },
  { opc := 0x0B, rd := fun h x => (parseE x).map (.mput h) }]

/-- L slot of profile C (R55). -/
def lMap : List OpRow := [
  { opc := 0x01, rd := fun h x => (parseLM x).map (.ld h) },
  { opc := 0x02, rd := fun h x => (parseLM x).map (.ldu h) },
  { opc := 0x03, rd := fun h x => (parseLM x).map (.lds h) },
  { opc := 0x04, rd := fun h x => (parseLM x).map (.ldp h) },
  { opc := 0x05, rd := fun h x => (parseLM x).map (.ldMark h) },
  { opc := 0x06, rd := fun h x => (parseLA x).map (.atom h) },
  { opc := 0x07, rd := fun h x => (parseLA x).map (.satom h) },
  { opc := 0x08, rd := fun h x => (parseQ x).map (.qpop h) },
  { opc := 0x09, rd := fun h x => (parseT x).map (.tex h) },
  { opc := 0x0A, rd := fun h x => (parseT x).map (.tld h) }]

/-- W slot of profile C (R55). -/
def wMap : List OpRow := [
  { opc := 0x01, rd := fun h x => (parseLM x).map (.st h) },
  { opc := 0x02, rd := fun h x => (parseLM x).map (.stu h) },
  { opc := 0x03, rd := fun h x => (parseLM x).map (.sts h) },
  { opc := 0x04, rd := fun h x => (parseLA x).map (.red h) },
  { opc := 0x05, rd := fun h x => (parseLA x).map (.sred h) },
  { opc := 0x06, rd := fun h x => (parseLC x).map (.cst4 h) },
  { opc := 0x07, rd := fun h x => (parseQ x).map (.qpush h) },
  { opc := 0x08, rd := fun h x => (parseT x).map (.vatom h) }]

/-- C slot (R55). -/
def cMap : List OpRow := [
  { opc := 0x01, rd := fun h x => (parseE x).map (.copy h) },
  { opc := 0x02, rd := fun h x => (parseE x).map (.gather h) },
  { opc := 0x03, rd := fun h x => (parseE x).map (.scatter h) },
  { opc := 0x04, rd := fun h x => (parseE x).map (.pref h) },
  { opc := 0x05, rd := fun h x => (parseE x).map (.fill h) },
  { opc := 0x06, rd := fun h x => (parseE x).map (.cflush h) },
  { opc := 0x07, rd := fun h x => (parseE x).map (.cinv h) },
  { opc := 0x08, rd := fun h x => (parseE x).map (.send h) },
  { opc := 0x09, rd := fun h x => (parseE x).map (.recv h) },
  { opc := 0x0A, rd := fun h x => (parseE x).map (.xmit h) },
  { opc := 0x0B, rd := fun h x => (parseE x).map (.isel h) },
  { opc := 0x0C, rd := fun h x => (parseE x).map (.coll h) }]

/-- Y slot (R55). -/
def yMap : List OpRow := [
  { opc := 0x01, rd := fun h x => (parseFF x).map (.fence h) },
  { opc := 0x02, rd := fun h x => (parseLM x).map (.mon h) },
  { opc := 0x03, rd := fun h x => (parseYG x).map (.wait h) },
  { opc := 0x04, rd := fun h x => (parseYG x).map fun o => if bits o.imm 19 18 == 0 then .meet h o else if bits o.imm 19 18 == 1 then .meetSave h o else if bits o.imm 19 18 == 2 then .meetRest h o else .meetClr h o },
  { opc := 0x05, rd := fun h x => (parseYG x).map (.yield h) },
  { opc := 0x06, rd := fun h x => (parseYG x).map (.bar h) },
  { opc := 0x07, rd := fun h x => (parseYG x).map (.vote h) },
  { opc := 0x08, rd := fun h x => (parseYG x).map (.trap h) },
  { opc := 0x09, rd := fun h x => (parseYG x).map (.sysc h) },
  { opc := 0x0A, rd := fun h x => (parseYG x).map (.bkpt h) },
  { opc := 0x0B, rd := fun h x => (parseYS x).map (.rdsr h) },
  { opc := 0x0C, rd := fun h x => (parseYS x).map (.wrsr h) },
  { opc := 0x0D, rd := fun h x => (parseE x).map (.dlaunch h) },
  { opc := 0x0E, rd := fun h x => (parseYG x).map (.fork h) },
  { opc := 0x0F, rd := fun h x => (parseYG x).map (.join h) },
  { opc := 0x10, rd := fun h x => (parseE x).map (.enq h) },
  { opc := 0x11, rd := fun h x => (parseE x).map (.mapsync h) },
  { opc := 0x12, rd := fun h x => (parseE x).map (.present h) },
  { opc := 0x13, rd := fun h x => (parseYG x).map fun o => if o.imm == 1 then .barcClose h o else .barc h o },
  { opc := 0x14, rd := fun h x => (parseYG x).map fun o => if o.imm == 1 then .emitRetest h o else if o.imm == 2 then .emitClose h o else .emit h o },
  { opc := 0x15, rd := fun h x => (parseYG x).map (.sleep h) },
  { opc := 0x16, rd := fun h x => (parseYG x).map (.rdclk h) }]

/-- X slot (R56). -/
def xMap : List OpRow := [
  { opc := 0x01, rd := fun h x => (parseXD x).map (.xcfg h) },
  { opc := 0x02, rd := fun h x => (parseXD x).map (.xwld h) },
  { opc := 0x03, rd := fun h x => (parseXD x).map (.xmma h) },
  { opc := 0x04, rd := fun h x => (parseXD x).map (.xact h) },
  { opc := 0x05, rd := fun h x => (parseXD x).map (.xdrain h) },
  { opc := 0x06, rd := fun h x => (parseXD x).map (.xzero h) }]

/-- F slot (R56). -/
def fMap : List OpRow := [
  { opc := 0x01, rd := fun h x => (parseFD x).map (.ffet h) },
  { opc := 0x02, rd := fun h x => (parseFD x).map (.ffetd h) },
  { opc := 0x03, rd := fun h x => (parseFD x).map (.ffetm h) },
  { opc := 0x04, rd := fun h x => (parseFD x).map (.fnear h) }]

/-- E slot (R56). -/
def eMap : List OpRow := [
  { opc := 0x01, rd := fun h x => (parseFF x).map (.fence h) },
  { opc := 0x08, rd := fun h x => (parseYG x).map (.trap h) },
  { opc := 0x0A, rd := fun h x => (parseYG x).map (.bkpt h) },
  { opc := 0x0B, rd := fun h x => (parseYS x).map (.rdsr h) },
  { opc := 0x0C, rd := fun h x => (parseYS x).map (.wrsr h) },
  { opc := 0x20, rd := fun h x => (parseYG x).map (.hemit h) },
  { opc := 0x21, rd := fun h x => (parseYG x).map (.hfill h) },
  { opc := 0x22, rd := fun h x => (parseYG x).map (.pget h) },
  { opc := 0x23, rd := fun h x => (parseYG x).map (.dqpop h) },
  { opc := 0x24, rd := fun h x => (parseYG x).map (.dqdone h) },
  { opc := 0x25, rd := fun h x => (parseYG x).map (.atlset h) },
  { opc := 0x26, rd := fun h x => (parseYG x).map (.lbar h) },
  { opc := 0x27, rd := fun h x => (parseYG x).map (.lwait h) },
  { opc := 0x28, rd := fun h x => (parseYG x).map (.rdbeam h) }]

/-- L slot of profile D: opcodes 0x01 to 0x03 only (R56). -/
def lMapD : List OpRow := lMap.take 3
/-- W slot of profile D: opcodes 0x01 to 0x03 only (R56). -/
def wMapD : List OpRow := wMap.take 3

/-- The opcode map of a slot (R41, R55, R56). -/
def slotMap : Profile → Nat → List OpRow
  | _, 0 => sMap
  | .c, 1 => vMapCom ++ vMapC0
  | .c, 2 => vMapCom ++ vMapOne ++ vMapC1
  | .d, 1 => vMapCom ++ vMapD
  | .d, 2 => vMapCom ++ vMapOne ++ vMapD
  | .c, 3 => mMap
  | .d, 3 => xMap
  | .c, 4 => lMap
  | .d, 4 => lMapD
  | .c, 5 => wMap
  | .d, 5 => wMapD
  | .c, 6 => cMap
  | .d, 6 => fMap
  | .c, 7 => yMap
  | .d, 7 => eMap
  | _, _ => []

/-- The head of a slot (R46): TAG, GN, GP. A tag of 0b110 or 0b111 and GP = 0 with GN = 1 are illegal. -/
def headOf (w : Slot) : Option Head :=
  (Tag.ofCode (w.extractLsb' 53 3)).bind fun tag =>
    let h : Head := { tag, neg := w.getLsbD 52, gp := w.extractLsb' 47 5 }
    if h.wf then some h else none
def slotOpc (w : Slot) : BitVec 8 := w.extractLsb' 39 8
def slotOpnd (w : Slot) : Opnd := w.extractLsb' 0 39

/-- The operation of a slot, or none for an illegal encoding (R47, R55 to R58). -/
def decodeSlot (p : Profile) (k : Nat) (w : Slot) : Option Instr :=
  (headOf w).bind fun h =>
    let opc := slotOpc w
    let x := slotOpnd w
    if opc == 0 then (if x == 0 then some (.nop h) else none)
    else if 0xF0 ≤ opc.toNat then some (.hint h (opc.extractLsb' 0 4) x)
    else
      match (slotMap p k).find? fun r => r.opc == opc.toNat with
      | none => none
      | some r =>
        match r.rd h x with
        | none => none
        | some i => if i.fieldsOk then some i else none

/-- The head bits [55:47] of a slot (R46). -/
def encHead (h : Head) : BitVec 9 := h.tag.code ++ BitVec.ofBool h.neg ++ h.gp
/-- A slot from its head, opcode and operand field (R46). -/
def mkSlot (h : Head) (opc : BitVec 8) (x : Opnd) : Slot := encHead h ++ opc ++ x

/-- The words of a well-formed operation (R46, R48, R55, R56); none for a step of a device unit. -/
def encodeSlot : Instr → Option Slot
  | .nop h => some (mkSlot h 0x00 0)
  | .hint h opc x => some (mkSlot h (0xF#4 ++ opc) x)
  | .add h o => some (mkSlot h 0x01 (encS o))
  | .sub h o => some (mkSlot h 0x02 (encS o))
  | .mul h o => some (mkSlot h 0x03 (encS o))
  | .mulh h o => some (mkSlot h 0x04 (encS o))
  | .div h o => some (mkSlot h 0x05 (encS o))
  | .mod h o => some (mkSlot h 0x06 (encS o))
  | .min h o => some (mkSlot h 0x07 (encS o))
  | .max h o => some (mkSlot h 0x08 (encS o))
  | .and h o => some (mkSlot h 0x09 (encS o))
  | .or h o => some (mkSlot h 0x0A (encS o))
  | .xor h o => some (mkSlot h 0x0B (encS o))
  | .andn h o => some (mkSlot h 0x0C (encS o))
  | .shl h o => some (mkSlot h 0x0D (encS o))
  | .shr h o => some (mkSlot h 0x0E (encS o))
  | .sar h o => some (mkSlot h 0x0F (encS o))
  | .rol h o => some (mkSlot h 0x10 (encS o))
  | .bfx h o => some (mkSlot h 0x11 (encSR o))
  | .bfi h o => some (mkSlot h 0x12 (encSR o))
  | .popc h o => some (mkSlot h 0x13 (encSR o))
  | .clz h o => some (mkSlot h 0x14 (encSR o))
  | .ctz h o => some (mkSlot h 0x15 (encSR o))
  | .brev h o => some (mkSlot h 0x16 (encSR o))
  | .cmp h o => some (mkSlot h 0x17 (encS o))
  | .test h o => some (mkSlot h 0x18 (encS o))
  | .sel h o => some (mkSlot h 0x19 (encSR o))
  | .mov h o => some (mkSlot h 0x1A (encS o))
  | .movw h o => some (mkSlot h 0x1B (encSL 0 o))
  | .movwHi h o => some (mkSlot h 0x1B (encSL 1 o))
  | .getid h o => some (mkSlot h 0x1C (encSI o))
  | .setmode h o => some (mkSlot h 0x1D (encS o))
  | .rdfl h o => some (mkSlot h 0x1E (encSR o))
  | .pbr h o => some (mkSlot h 0x20 (encSB o))
  | .pbrx h o => some (mkSlot h 0x21 (encSX o))
  | .mfb h o => some (mkSlot h 0x22 (encSX o))
  | .loop h o => some (mkSlot h 0x23 (encSLP o))
  | .call h o => some (mkSlot h 0x24 (encSX o))
  | .ret h o => some (mkSlot h 0x25 (encSX o))
  | .exit h => some (mkSlot h 0x26 0)
  | .vadd h o => some (mkSlot h 0x01 (encV o))
  | .vsub h o => some (mkSlot h 0x02 (encV o))
  | .vmul h o => some (mkSlot h 0x03 (encV o))
  | .vmulh h o => some (mkSlot h 0x04 (encV o))
  | .vfma h o => some (mkSlot h 0x05 (encV o))
  | .vmin h o => some (mkSlot h 0x06 (encV o))
  | .vmax h o => some (mkSlot h 0x07 (encV o))
  | .vabs h o => some (mkSlot h 0x08 (encV o))
  | .vneg h o => some (mkSlot h 0x09 (encV o))
  | .vadds h o => some (mkSlot h 0x0A (encV o))
  | .vsubs h o => some (mkSlot h 0x0B (encV o))
  | .vdiv h o => some (mkSlot h 0x0C (encV o))
  | .vrint h o => some (mkSlot h 0x0D (encV o))
  | .vfract h o => some (mkSlot h 0x0E (encV o))
  | .vldexp h o => some (mkSlot h 0x0F (encV o))
  | .vand h o => some (mkSlot h 0x10 (encV o))
  | .vor h o => some (mkSlot h 0x11 (encV o))
  | .vxor h o => some (mkSlot h 0x12 (encV o))
  | .vandn h o => some (mkSlot h 0x13 (encV o))
  | .vnot h o => some (mkSlot h 0x14 (encV o))
  | .vshl h o => some (mkSlot h 0x15 (encV o))
  | .vshr h o => some (mkSlot h 0x16 (encV o))
  | .vsar h o => some (mkSlot h 0x17 (encV o))
  | .vrol h o => some (mkSlot h 0x18 (encV o))
  | .vbfx h o => some (mkSlot h 0x19 (encV o))
  | .vbfi h o => some (mkSlot h 0x1A (encV o))
  | .vpopc h o => some (mkSlot h 0x1B (encV o))
  | .vclz h o => some (mkSlot h 0x1C (encV o))
  | .vbrev h o => some (mkSlot h 0x1D (encV o))
  | .vsel h o => some (mkSlot h 0x1E (encV o))
  | .vmov h o => some (mkSlot h 0x1F (encV o))
  | .vcmp h o => some (mkSlot h 0x20 (encV o))
  | .vclass h o => some (mkSlot h 0x21 (encV o))
  | .vtest h o => some (mkSlot h 0x22 (encV o))
  | .vsad h o => some (mkSlot h 0x23 (encV o))
  | .vmulw h o => some (mkSlot h 0x24 (encV o))
  | .vmadw h o => some (mkSlot h 0x25 (encV o))
  | .vcvt h o => some (mkSlot h 0x28 (encV o))
  | .vpack h o => some (mkSlot h 0x29 (encV o))
  | .vunpk h o => some (mkSlot h 0x2A (encV o))
  | .vbyte h o => some (mkSlot h 0x2B (encV o))
  | .vrcp h o => some (mkSlot h 0x30 (encV o))
  | .vrsq h o => some (mkSlot h 0x31 (encV o))
  | .vsqrt h o => some (mkSlot h 0x32 (encV o))
  | .vexp2 h o => some (mkSlot h 0x33 (encV o))
  | .vlog2 h o => some (mkSlot h 0x34 (encV o))
  | .vsin h o => some (mkSlot h 0x35 (encV o))
  | .vcos h o => some (mkSlot h 0x36 (encV o))
  | .vtanh h o => some (mkSlot h 0x37 (encV o))
  | .vclmul h o => some (mkSlot h 0x38 (encV o))
  | .vclmulh h o => some (mkSlot h 0x39 (encV o))
  | .vrbox h o => some (mkSlot h 0x3A (encV o))
  | .vrtri h o => some (mkSlot h 0x3B (encV o))
  | .vdp4 h o => some (mkSlot h 0x3C (encV o))
  | .vdp2 h o => some (mkSlot h 0x3D (encV o))
  | .pand h o => some (mkSlot h 0x40 (encV o))
  | .por h o => some (mkSlot h 0x41 (encV o))
  | .pxor h o => some (mkSlot h 0x42 (encV o))
  | .pandn h o => some (mkSlot h 0x43 (encV o))
  | .pnot h o => some (mkSlot h 0x44 (encV o))
  | .pmov h o => some (mkSlot h 0x45 (encV o))
  | .pset h o => some (mkSlot h 0x46 (encV o))
  | .vperm h o => some (mkSlot h 0x50 (encV o))
  | .vrot h o => some (mkSlot h 0x51 (encV o))
  | .vshuf h o => some (mkSlot h 0x52 (encV o))
  | .vbcast h o => some (mkSlot h 0x53 (encV o))
  | .vmatch h o => some (mkSlot h 0x54 (encV o))
  | .vballot h o => some (mkSlot h 0x55 (encV o))
  | .vscan h o => some (mkSlot h 0x56 (encV o))
  | .vred h o => some (mkSlot h 0x57 (encV o))
  | .vlane h o => some (mkSlot h 0x58 (encV o))
  | .vfirst h o => some (mkSlot h 0x59 (encV o))
  | .vcompact h o => some (mkSlot h 0x5A (encV o))
  | .mamax h o => some (mkSlot h 0x5C (encV o))
  | .mcvt h o => some (mkSlot h 0x5D (encV o))
  | .meet h o => some (mkSlot h 0x04 (encYG o))
  | .meetSave h o => some (mkSlot h 0x04 (encYG o))
  | .meetRest h o => some (mkSlot h 0x04 (encYG o))
  | .meetClr h o => some (mkSlot h 0x04 (encYG o))
  | .yield h o => some (mkSlot h 0x05 (encYG o))
  | .bar h o => some (mkSlot h 0x06 (encYG o))
  | .vote h o => some (mkSlot h 0x07 (encYG o))
  | .sleep h o => some (mkSlot h 0x15 (encYG o))
  | .rdclk h o => some (mkSlot h 0x16 (encYG o))
  | .ld h o => some (mkSlot h 0x01 (encLM o))
  | .ldu h o => some (mkSlot h 0x02 (encLM o))
  | .lds h o => some (mkSlot h 0x03 (encLM o))
  | .ldp h o => some (mkSlot h 0x04 (encLM o))
  | .ldMark h o => some (mkSlot h 0x05 (encLM o))
  | .atom h o => some (mkSlot h 0x06 (encLA o))
  | .satom h o => some (mkSlot h 0x07 (encLA o))
  | .st h o => some (mkSlot h 0x01 (encLM o))
  | .stu h o => some (mkSlot h 0x02 (encLM o))
  | .sts h o => some (mkSlot h 0x03 (encLM o))
  | .red h o => some (mkSlot h 0x04 (encLA o))
  | .sred h o => some (mkSlot h 0x05 (encLA o))
  | .cst4 h o => some (mkSlot h 0x06 (encLC o))
  | .fence h o => some (mkSlot h 0x01 (encFF o))
  | .mon h o => some (mkSlot h 0x02 (encLM o))
  | .wait h o => some (mkSlot h 0x03 (encYG o))
  | .qpop h o => some (mkSlot h 0x08 (encQ o))
  | .qpush h o => some (mkSlot h 0x07 (encQ o))
  | .tex h o => some (mkSlot h 0x09 (encT o))
  | .tld h o => some (mkSlot h 0x0A (encT o))
  | .vatom h o => some (mkSlot h 0x08 (encT o))
  | .copy h o => some (mkSlot h 0x01 (encE o))
  | .gather h o => some (mkSlot h 0x02 (encE o))
  | .scatter h o => some (mkSlot h 0x03 (encE o))
  | .pref h o => some (mkSlot h 0x04 (encE o))
  | .fill h o => some (mkSlot h 0x05 (encE o))
  | .cflush h o => some (mkSlot h 0x06 (encE o))
  | .cinv h o => some (mkSlot h 0x07 (encE o))
  | .dlaunch h o => some (mkSlot h 0x0D (encE o))
  | .fork h o => some (mkSlot h 0x0E (encYG o))
  | .join h o => some (mkSlot h 0x0F (encYG o))
  | .enq h o => some (mkSlot h 0x10 (encE o))
  | .mcfg h o => some (mkSlot h 0x01 (encE o))
  | .mcfgQ h o => some (mkSlot h 0x01 (encE o))
  | .mshelf h o => some (mkSlot h 0x02 (encE o))
  | .mloop h o => some (mkSlot h 0x03 (encE o))
  | .mstep h o => some (mkSlot h 0x04 (encE o))
  | .mzero h o => some (mkSlot h 0x05 (encE o))
  | .mrot h o => some (mkSlot h 0x06 (encE o))
  | .mdrain h o => some (mkSlot h 0x07 (encE o))
  | .mscale h o => some (mkSlot h 0x08 (encE o))
  | .mhistClear h o => some (mkSlot h 0x09 (encE o))
  | .mhistRead h o => some (mkSlot h 0x09 (encE o))
  | .mhistPush h o => some (mkSlot h 0x09 (encE o))
  | .mget h o => some (mkSlot h 0x0A (encE o))
  | .mput h o => some (mkSlot h 0x0B (encE o))
  | .emit h o => some (mkSlot h 0x14 (encYG o))
  | .emitRetest h o => some (mkSlot h 0x14 (encYG o))
  | .emitClose h o => some (mkSlot h 0x14 (encYG o))
  | .mapsync h o => some (mkSlot h 0x11 (encE o))
  | .present h o => some (mkSlot h 0x12 (encE o))
  | .trap h o => some (mkSlot h 0x08 (encYG o))
  | .sysc h o => some (mkSlot h 0x09 (encYG o))
  | .bkpt h o => some (mkSlot h 0x0A (encYG o))
  | .rdsr h o => some (mkSlot h 0x0B (encYS o))
  | .wrsr h o => some (mkSlot h 0x0C (encYS o))
  | .vqrot h o => some (mkSlot h 0x60 (encV o))
  | .vproj h o => some (mkSlot h 0x61 (encV o))
  | .vwarp h o => some (mkSlot h 0x62 (encV o))
  | .vextr h o => some (mkSlot h 0x63 (encV o))
  | .vblend h o => some (mkSlot h 0x64 (encV o))
  | .vdisoc h o => some (mkSlot h 0x65 (encV o))
  | .vpxpk h o => some (mkSlot h 0x66 (encV o))
  | .vpxup h o => some (mkSlot h 0x67 (encV o))
  | .xcfg h o => some (mkSlot h 0x01 (encXD o))
  | .xwld h o => some (mkSlot h 0x02 (encXD o))
  | .xmma h o => some (mkSlot h 0x03 (encXD o))
  | .xact h o => some (mkSlot h 0x04 (encXD o))
  | .xdrain h o => some (mkSlot h 0x05 (encXD o))
  | .xzero h o => some (mkSlot h 0x06 (encXD o))
  | .ffet h o => some (mkSlot h 0x01 (encFD o))
  | .ffetd h o => some (mkSlot h 0x02 (encFD o))
  | .ffetm h o => some (mkSlot h 0x03 (encFD o))
  | .fnear h o => some (mkSlot h 0x04 (encFD o))
  | .hemit h o => some (mkSlot h 0x20 (encYG o))
  | .hfill h o => some (mkSlot h 0x21 (encYG o))
  | .pget h o => some (mkSlot h 0x22 (encYG o))
  | .dqpop h o => some (mkSlot h 0x23 (encYG o))
  | .dqdone h o => some (mkSlot h 0x24 (encYG o))
  | .atlset h o => some (mkSlot h 0x25 (encYG o))
  | .lbar h o => some (mkSlot h 0x26 (encYG o))
  | .lwait h o => some (mkSlot h 0x27 (encYG o))
  | .rdbeam h o => some (mkSlot h 0x28 (encYG o))
  | .send h o => some (mkSlot h 0x08 (encE o))
  | .recv h o => some (mkSlot h 0x09 (encE o))
  | .barc h o => some (mkSlot h 0x13 (encYG o))
  | .barcClose h o => some (mkSlot h 0x13 (encYG o))
  | .xmit h o => some (mkSlot h 0x0A (encE o))
  | .isel h o => some (mkSlot h 0x0B (encE o))
  | .coll h o => some (mkSlot h 0x0C (encE o))
  | _ => none

/-- The slots in which an operation may stand, in profile C and in profile D (R55, R56). -/
def Instr.slots : Profile → Instr → List Nat
  | _, .nop _ | _, .hint _ _ _ => [0, 1, 2, 3, 4, 5, 6, 7]
  | _, .add _ _ | _, .sub _ _ | _, .mul _ _ | _, .mulh _ _ | _, .div _ _ | _, .mod _ _ | _, .min _ _ | _, .max _ _
      | _, .and _ _ | _, .or _ _ | _, .xor _ _ | _, .andn _ _ | _, .shl _ _ | _, .shr _ _ | _, .sar _ _ | _, .rol _
      _ | _, .bfx _ _ | _, .bfi _ _ | _, .popc _ _ | _, .clz _ _ | _, .ctz _ _ | _, .brev _ _ | _, .cmp _ _ | _,
      .test _ _ | _, .sel _ _ | _, .mov _ _ | _, .movw _ _ | _, .movwHi _ _ | _, .getid _ _ | _, .setmode _ _ | _,
      .rdfl _ _ | _, .pbr _ _ | _, .pbrx _ _ | _, .mfb _ _ | _, .loop _ _ | _, .call _ _ | _, .ret _ _ | _, .exit _ => [0]
  | _, .vadd _ _ | _, .vsub _ _ | _, .vmul _ _ | _, .vmulh _ _ | _, .vfma _ _ | _, .vmin _ _ | _, .vmax _ _ | _,
      .vabs _ _ | _, .vneg _ _ | _, .vadds _ _ | _, .vsubs _ _ | _, .vdiv _ _ | _, .vrint _ _ | _, .vfract _ _ | _,
      .vldexp _ _ | _, .vand _ _ | _, .vor _ _ | _, .vxor _ _ | _, .vandn _ _ | _, .vnot _ _ | _, .vshl _ _ | _,
      .vshr _ _ | _, .vsar _ _ | _, .vrol _ _ | _, .vbfx _ _ | _, .vbfi _ _ | _, .vpopc _ _ | _, .vclz _ _ | _,
      .vbrev _ _ | _, .vsel _ _ | _, .vmov _ _ | _, .vcmp _ _ | _, .vclass _ _ | _, .vtest _ _ | _, .vsad _ _ | _,
      .vmulw _ _ | _, .vmadw _ _ | _, .vcvt _ _ | _, .vpack _ _ | _, .vunpk _ _ | _, .vbyte _ _ | _, .vdp4 _ _ | _,
      .vdp2 _ _ | _, .pand _ _ | _, .por _ _ | _, .pxor _ _ | _, .pandn _ _ | _, .pnot _ _ | _, .pmov _ _ | _, .pset
      _ _ | _, .vperm _ _ | _, .vrot _ _ | _, .vshuf _ _ | _, .vbcast _ _ | _, .vmatch _ _ | _, .vballot _ _ | _,
      .vscan _ _ | _, .vred _ _ | _, .vlane _ _ | _, .vfirst _ _ | _, .vcompact _ _ => [1, 2]
  | _, .vrcp _ _ | _, .vrsq _ _ | _, .vsqrt _ _ | _, .vexp2 _ _ | _, .vlog2 _ _ | _, .vsin _ _ | _, .vcos _ _ | _,
      .vtanh _ _ => [2]
  | .c, .vclmul _ _ | .c, .vclmulh _ _ | .c, .vrbox _ _ | .c, .vrtri _ _ | .c, .mcvt _ _ => [2]
  | .c, .mamax _ _ => [1]
  | .c, .meet _ _ | .c, .meetSave _ _ | .c, .meetRest _ _ | .c, .meetClr _ _ | .c, .yield _ _ | .c, .bar _ _ | .c,
      .vote _ _ | .c, .sleep _ _ | .c, .rdclk _ _ | .c, .mon _ _ | .c, .wait _ _ | .c, .dlaunch _ _ | .c, .fork _ _
      | .c, .join _ _ | .c, .enq _ _ | .c, .emit _ _ | .c, .emitRetest _ _ | .c, .emitClose _ _ | .c, .mapsync _ _ |
      .c, .present _ _ | .c, .sysc _ _ | .c, .barc _ _ | .c, .barcClose _ _ => [7]
  | _, .ld _ _ | _, .ldu _ _ | _, .lds _ _ => [4]
  | .c, .ldp _ _ | .c, .ldMark _ _ | .c, .atom _ _ | .c, .satom _ _ | .c, .qpop _ _ | .c, .tex _ _ | .c, .tld _ _ => [4]
  | _, .st _ _ | _, .stu _ _ | _, .sts _ _ => [5]
  | .c, .red _ _ | .c, .sred _ _ | .c, .cst4 _ _ | .c, .qpush _ _ | .c, .vatom _ _ => [5]
  | _, .fence _ _ | _, .trap _ _ | _, .bkpt _ _ | _, .rdsr _ _ | _, .wrsr _ _ => [7]
  | .c, .copy _ _ | .c, .gather _ _ | .c, .scatter _ _ | .c, .pref _ _ | .c, .fill _ _ | .c, .cflush _ _ | .c,
      .cinv _ _ | .c, .send _ _ | .c, .recv _ _ | .c, .xmit _ _ | .c, .isel _ _ | .c, .coll _ _ => [6]
  | .c, .mcfg _ _ | .c, .mcfgQ _ _ | .c, .mshelf _ _ | .c, .mloop _ _ | .c, .mstep _ _ | .c, .mzero _ _ | .c,
      .mrot _ _ | .c, .mdrain _ _ | .c, .mscale _ _ | .c, .mhistClear _ _ | .c, .mhistRead _ _ | .c, .mhistPush _ _
      | .c, .mget _ _ | .c, .mput _ _ => [3]
  | .d, .vqrot _ _ | .d, .vproj _ _ | .d, .vwarp _ _ | .d, .vextr _ _ | .d, .vblend _ _ | .d, .vdisoc _ _ | .d,
      .vpxpk _ _ | .d, .vpxup _ _ => [1, 2]
  | .d, .xcfg _ _ | .d, .xwld _ _ | .d, .xmma _ _ | .d, .xact _ _ | .d, .xdrain _ _ | .d, .xzero _ _ => [3]
  | .d, .ffet _ _ | .d, .ffetd _ _ | .d, .ffetm _ _ | .d, .fnear _ _ => [6]
  | .d, .hemit _ _ | .d, .hfill _ _ | .d, .pget _ _ | .d, .dqpop _ _ | .d, .dqdone _ _ | .d, .atlset _ _ | .d,
      .lbar _ _ | .d, .lwait _ _ | .d, .rdbeam _ _ => [7]
  | _, _ => []

/-- The first 512-bit bundle that holds one operation in slot k, closes its group, and has profile p. -/
def oneSlotBundle (p : Profile) (k : Nat) (w : Slot) : Bundle :=
  let hdr : BitVec 512 := 1 ||| (match p with | .c => 0 | .d => 2)
  hdr ||| (w.zeroExtend 512 <<< (64 + 56 * k))

/-- The eight slots of a bundle decoded, with their slot numbers; none when one is illegal (R60). -/
def decodeBundle (p : Profile) (b : Bundle) : Option (List (Nat × Instr)) :=
  (List.range 8).mapM fun k => (decodeSlot p k (slotOf b k)).map fun i => (k, i)

/-- The operations of a decoded bundle that are neither nop nor hint (R47, R57). -/
def Instr.isIdle : Instr → Bool
  | .nop _ => true
  | .hint _ _ _ => true
  | _ => false

def Instr.isNop : Instr → Bool
  | .nop _ => true
  | _ => false

/-- The profile that a header names (R42). -/
def profileOf (b : Bundle) : Option Profile :=
  if hdrProf b == 0 then some .c else if hdrProf b == 1 then some .d else none

/-- What an instruction word numbered as opcode_table.json numbers bits stands for: the word is the first
bundle of a group, taken to be its last, its missing upper bits zero. It is the bundle's first operation, with its
slot; with every slot idle, the transfer tree when the header has one, else its first hint, else the nop of slot 0. A
bundle with an illegal slot or header is none. -/
def tablePick (nbits w : Nat) : Option (Bundle × Profile × Option Nat × Instr) :=
  let b : Bundle := BitVec.ofNat 512 (w % 2 ^ nbits)
  (profileOf b).bind fun p =>
    if hdrOk p true b then
      (decodeBundle p b).bind fun ops =>
        match ops.filter fun o => !o.2.isIdle with
        | [] =>
          if hdrTcnt b != 0 then some (b, p, none, .br (treeOf b))
          else match ops.find? fun o => !o.2.isNop with
            | some o => some (b, p, some o.1, o.2)
            | none => ops.head?.map fun o => (b, p, some o.1, o.2)
        | o :: _ => some (b, p, some o.1, o.2)
    else none
/-- The instruction of such a word. -/
def decodeTableWord (nbits w : Nat) : Option Instr := (tablePick nbits w).map fun t => t.2.2.2

end Sys2Proof
end

