-- ==== Sys2Proof/Machine/Parts.lean ====
section
/-! DEFINITION. The parts of the machine's state that belong to waves, groups, grids, cores and the levels
of memory: plain data, one structure for each thing the spec names. -/
namespace Sys2Proof.Machine
open Sys2Proof

/-- A byte and its poison (R230). -/
structure PByte where
  v : Byte
  bad : Bool
  deriving DecidableEq, Repr

/-- A sparse byte store in canonical form: addresses strictly rising, no byte equal to zero. -/
abbrev Cells := List Host.Cell

/-- A byte store with poison: cells that are not zero, and the addresses of poisoned bytes, rising. -/
structure Store where
  cells : Cells
  bad : List Nat
  deriving DecidableEq, Repr

/-- A sparse word store (accumulator tiles) with poison, keyed by word index. -/
structure WordStore where
  cells : List (Nat × Word)
  bad : List Nat
  deriving DecidableEq, Repr

/-! Threads and waves (R17, R97, R118, R200). -/

/-- The states of a thread (R118, R200 TSTATE). -/
inductive TState where
  | runnable | held | waiting | parked | exited
  deriving DecidableEq, Repr

/-- The kinds of wait (R200 WKIND 0x0 to 0x9). -/
inductive WKind where
  | bar | vote | barc | wait | waitLim | sleep | bench | contq | window | cull
  deriving DecidableEq, Repr

/-- One thread of a wave (R17, R200). -/
structure Thread where
  /-- PC, or the exit address of an exited thread (R17, R95, R200). -/
  pc : Dword
  /-- Meeting register (R17, R121). -/
  meet : Dword
  /-- State (R118). -/
  st : TState
  /-- Kind of wait while it waits (R200). -/
  wkind : WKind
  /-- Low 48 bits of the cycle at which a sleep or limited wait ends (R200 WAITREC END). -/
  wend : BitVec 48
  /-- Predicate that its wait or vote writes (R200 WAITREC PD). -/
  wpd : BitVec 5
  /-- Vote form (R200 WAITREC VFORM). -/
  vform : BitVec 2
  /-- Vote value contributed (R200 WAITREC VVAL). -/
  vval : Bool
  /-- It waits at barc.close (R472). -/
  close : Bool
  /-- Branch target named by the transfer that led to PC (R32), none after a fall-through. -/
  via : Option (BitVec 3)
  /-- Core cycle at which its wait began (R128). -/
  wfrom : Nat := 0
  /-- First bundle of the group that held its last opening barc (R452). -/
  barc : Dword := 0
  /-- PC was reached by a return to a loop's start (R38). -/
  back : Bool := false
  /-- It exited with the group of its vote, and that generation of the barrier has not completed (R95, R196). -/
  voted : Bool := false
  deriving DecidableEq, Repr

/-- A bundle as fetched, with its poison (R438). -/
structure FBundle where
  bits : Bundle
  bad : Bool
  deriving DecidableEq, Repr

/-- One entry of the loop stack (R35), with the first bundles of its body, at most four, that the core holds once
they have issued (R38, R247). -/
structure LoopEntry where
  start : Dword
  stop : Dword
  count : Word
  body : List FBundle := []
  deriving DecidableEq, Repr

/-- The stochastic state (R143). -/
structure Stoch where
  x : Word
  y : Word
  z : Word
  w : Word
  deriving DecidableEq, Repr

/-- One prepared-target buffer entry (R30, R31): the bundles held, those still to come, the cycle from which the next
of them can arrive (on a line core a counted cycle, R397), and whether a fault ended the fill, on a line core with its
trap code. -/
structure PTEntry where
  base : Dword
  got : List FBundle
  left : Nat
  next : Nat
  fault : Bool
  code : Byte := 0
  deriving DecidableEq, Repr

/-- An entry that holds nothing. -/
def PTEntry.blank : PTEntry := { base := 0, got := [], left := 0, next := 0, fault := false }
/-- Nothing is held, nothing on the way, and no fault was met (R32). -/
def PTEntry.isEmpty (e : PTEntry) : Bool := e.got.isEmpty && e.left == 0 && !e.fault
/-- The fill that a branch-target register starts after a group whose last bundle issues in a cycle (R30, R31). -/
def PTEntry.start (x : Dword) (last : Nat) : PTEntry :=
  { base := x &&& ~~~(0x3F#64), got := [], left := (x.toNat % 4) + 1, next := last + 4, fault := false }

/-- One entry of a wave's mark set (R275): a physical line, broken or not. -/
structure Mark where
  line : Nat
  broken : Bool
  deriving DecidableEq, Repr

/-- Where a wave's state lies (R126, R127, R210, R435). -/
inductive Act where
  /-- Activated in a slot since a core cycle. -/
  | active (slot : Nat) (since : Nat)
  /-- Dormant since a core cycle; `fresh` while it was never activated, `fault` while a fault of its
  context keeps it parked or stopped. -/
  | dormant (since : Nat) (fresh : Bool) (fault : Bool)
  deriving DecidableEq, Repr

/-- An entry of a queue window: 128 bytes with the poison of each word, or a bookend (R317, R319). -/
structure QEntry where
  data : Line
  bad : Mask
  bookend : Bool
  deriving DecidableEq, Repr

/-- Predicate and scalar words of a wave kept together: s0 to s63 with the poison of their halves. -/
structure Scalars where
  val : Vector Dword 64
  bad : BitVec 128
  deriving DecidableEq, Repr

/-- Register lines of a wave: residence in the register cache and what the state store holds of each
line (R200, R205, R207, R435). Bit n is line n of R201. -/
structure Lines where
  resident : BitVec 133
  dirty : BitVec 133
  pinned : BitVec 133
  dead : BitVec 133
  legend : Vector Byte 133
  poison : Vector Word 133
  deriving DecidableEq, Repr

/-- The registers of a wave (R17). -/
structure Regs where
  v : Vector Line 128
  vbad : Vector Mask 128
  p : Vector Mask 32
  pbad : Mask
  s : Scalars
  b : Vector Dword 8
  loops : List LoopEntry
  mode : BitVec 5
  flags : BitVec 5
  stoch : Stoch
  deriving DecidableEq, Repr

/-- What stops, waits and watches a wave (R200, R261, R275, R420, R441, R498, R501). -/
structure WaveCtl where
  tokPend : Dword
  parkVA : Dword
  /-- Physical lines of the page-table entries on which the wave's threads are parked, newest first (R235). -/
  parkLines : List Nat
  stopped : Bool
  halted : Bool
  wsup : Bool
  traprec : Nat
  barGen : Word
  /-- Physical line of the armed monitor (R261). -/
  mon : Option Nat
  monTrig : Bool
  /-- The mark set, newest first (R275). -/
  marks : List Mark
  /-- Bundles issued since the last meeting (R441). -/
  wdog : Nat
  /-- Completions kept for a dormant wave (R212). -/
  kept : List (BitVec 6 × Dword)
  /-- The next group issues once by a debug step (R501). -/
  stepOnce : Bool
  /-- Pinned lines whose page is absent, with the physical line of the page-table entry (R435). -/
  pinAt : List (Nat × Nat) := []
  /-- Its deactivation was abandoned and has not been retried (R435). -/
  abandoned : Bool := false
  deriving DecidableEq, Repr

/-- A wave of 32 threads, or a surveyor, or the wave of a line core (R97, R316, R383). -/
structure Wave where
  uid : Nat
  group : Nat
  index : Nat
  surveyor : Bool
  pair : Option Nat
  /-- Virtual address of the context (R112, R200) and its arena index. -/
  ctx : Dword
  arenaIdx : Nat
  threads : Vector Thread 32
  /-- Threads of the current PC group (R118), none when it must be selected. -/
  cur : Mask
  cursor : Dword
  r : Regs
  lines : Lines
  c : WaveCtl
  targets : Vector PTEntry 8
  act : Act
  lastIssue : Nat
  /-- Registers written by each of the last eight groups, newest first (R206). -/
  recent : List (List (BitVec 7))
  /-- Queue windows q0 to q7 of a wave with a surveyor (R317). -/
  windows : List (List QEntry)
  /-- Header words as deactivation wrote them (R213), and predicate writes owed to the wave's predicate line:
  lane, predicate, value (R196, R285). -/
  img : List Dword
  owed : List (Nat × Nat × Bool)
  /-- Groups issued by the wave (R508 ORD). -/
  issued : Nat
  /-- First bundle of the last group that issued (R496). -/
  lastPc : Dword := 0
  /-- First core cycle at which the threads that a barrier released may issue (R193). -/
  wakeAt : Nat := 0
  /-- Core cycle since which the dormant wave has been ready-dormant (R127, R128). -/
  ready : Option Nat := none
  /-- Registers that await the result of an earlier group, and the cycle from which a group may use them (R33, R160). -/
  await : List (Nat × Nat) := []
  deriving DecidableEq, Repr

/-! Commands handed to engines (R292). -/

/-- A consumed token of a command: the status read at issue, or the register still pending (R292). -/
inductive Dep where
  | status (x : Dword)
  | pending (r : BitVec 6)
  deriving DecidableEq, Repr

/-- A command that an engine holds (R292, R293). -/
structure Cmd where
  uid : Nat
  wave : Nat
  group : Nat
  core : Nat
  op : Instr
  run : List Dword
  td : BitVec 6
  deps : List Dep
  /-- Banks named (R218) by bank number of the core. -/
  banks : List Nat
  /-- Progress of a command that waits part-way: flits sent, steps done (R467, R345). -/
  prog : Nat
  /-- Extra operands latched at issue by the operation's chapter. -/
  aux : List Nat
  /-- The command has begun its effects and waits for its end. -/
  started : Bool
  /-- The issuing wave ran privileged (R108, R234). -/
  priv : Bool
  deriving DecidableEq, Repr

/-- A bench entry of a group (R305): a dlaunch that waits for its tokens, as a command. -/
abbrev Bench := Cmd

/-! Groups and grids (R97, R100, R302). -/

/-- The fields of a kernel descriptor (R302). -/
structure KDesc where
  addr : Dword
  entry : Dword
  waves : Nat
  prof : Nat
  regs : Nat
  sbanks : Nat
  acc : Bool
  surv : Bool
  xsh : Nat
  ysh : Nat
  zsh : Nat
  sentry : Dword
  deriving DecidableEq, Repr

/-- A tensor record of a group (R339, R340, R447): scale mode, fixed exponent, margin and the ring of
recent maxima, oldest first. -/
structure Tensor where
  id : Nat
  smode : Byte
  fixe : Byte
  margin : Byte
  ring : List Word
  oldest : Nat
  deriving DecidableEq, Repr

/-- Matrix state of a group (R320, R326, R447). -/
structure MatState where
  afmt : BitVec 4
  bfmt : BitVec 4
  aread : BitVec 4
  bread : BitVec 4
  mprog : BitVec 40
  deriving DecidableEq, Repr

/-- A held flit of a switched group (R447, R471). -/
structure HeldFlit where
  data : BitVec 256
  bad : Mask
  dst : Nat
  ch : Nat
  last : Bool
  deriving DecidableEq, Repr

/-- A placed or switched-out group (R97, R113). -/
structure Group where
  uid : Nat
  grid : Nat
  lin : Nat
  core : Nat
  /-- Physical numbers of the granted banks (R217). -/
  sbanks : List Nat
  obanks : List Nat
  scratch : Store
  acc : WordStore
  barGen : Word
  voteT : Bool
  voteF : Bool
  /-- Arrival counts of channels 0 to 7 (R469). -/
  arrive : Vector Word 8
  mat : MatState
  tensors : List Tensor
  bench : List Bench
  /-- The group lies in an open scheduled section (R472). -/
  inSection : Bool
  /-- It was in an open section when the switch out began (R447, R452). -/
  cutSection : Bool := false
  /-- First records of a drawer batch that this group frees at its end (R315): drawer and count. -/
  batch : Option (Nat × Nat)
  /-- Saved by a switch out and not yet placed again (R447, R451). -/
  saved : Bool
  heldFlits : List HeldFlit
  /-- Emit order and draw of the group for the graphics units (R351). -/
  draw : Option Nat
  emitted : Nat
  deriving DecidableEq, Repr

/-- Who gets the completion of a grid (R103, R315, R425, R483). -/
inductive GridFor where
  | program | handler (rec : Nat) | queue (q : Nat) (pkt : Nat) | cont | drawer (d : Nat) | shade (draw : Nat)
  deriving DecidableEq, Repr

/-- A launched grid (R97, R100). -/
structure Grid where
  uid : Nat
  /-- Order of acceptance (R114). -/
  seq : Nat
  launch : Dword
  region : Dword
  /-- Context slot of the region's root, and the slot through which its blocks are read (R102, R107, R425). -/
  slot : Nat
  rslot : Nat
  kd : KDesc
  nx : Nat
  ny : Nat
  nz : Nat
  lmode : BitVec 5
  coop : Bool
  args : List Dword
  done : Dword
  /-- Next linear index to place and groups that have ended. -/
  next : Nat
  ended : Nat
  killed : Bool
  /-- The DONE decrement waits at a page that is not resident, on this line (R103). -/
  doneWait : Option Nat
  /-- Held because its slot is switched out (R447). -/
  held : Bool
  who : GridFor
  /-- Entry override and batch of a continuation or drawer group (R312, R315). -/
  entry : Option Dword
  batch : Option (Nat × Nat)
  /-- Core of the issuing wave, for the placement order of R308. -/
  home : Option Nat
  deriving DecidableEq, Repr

/-- A device's copy of a region control block (R110): the effective values are computed from copies. -/
structure RegionCopy where
  slot : Nat
  addr : Dword
  words : List Dword
  deriving DecidableEq, Repr

/-- Counts of launches accepted in the current hub microsecond (R109). -/
structure LrateCount where
  slot : Nat
  region : Dword
  count : Nat
  deriving DecidableEq, Repr
/-- A launch that an LRATE budget holds: where it comes from, the slot it is read through, and its region (R109). -/
structure LrateWait where
  src : LaunchSrc
  rslot : Nat
  region : Dword
  deriving DecidableEq, Repr
/-- A write of a system register that has not completed: of SWITCH_REQ or SERVICE_REQ while the queue is full, or of
FAULT_ACT while the action waits for a switch in. The writer's wave, none for a control port (R426, R433, R445). -/
structure LateWr where
  wave : Option Nat
  srn : Nat
  value : Dword
  deriving DecidableEq, Repr

/-! Cores (R199, R207, R215, R238, R293). -/

/-- A line of the core's L1 (R220). -/
structure L1Line where
  line : Nat
  data : BitVec 1024
  bad : BitVec 128
  deriving DecidableEq, Repr

/-- A translation held by a core (R236). -/
structure TlbEntry where
  slot : Nat
  vpage : Nat
  pa : Nat
  w : Bool
  x : Bool
  u : Bool
  mt : Nat
  /-- Pages of 4 KiB under the entry that gave it (R233). -/
  pages : Nat := 1
  deriving DecidableEq, Repr

/-- A line of the write buffer of a core (R269): merged bytes, the classes of their stores, the cycle of
the first. -/
structure WcLine where
  line : Nat
  data : BitVec 1024
  bad : BitVec 128
  mask : BitVec 128
  classes : BitVec 16
  since : Nat
  deriving DecidableEq, Repr

/-- A section of a core's shelf with a holder (R320, R327). -/
structure ShelfSec where
  index : Nat
  group : Nat
  valid : Bool
  deriving DecidableEq, Repr

/-- The trace and debug copies of a core (R488 to R496): its table entry as last read and its ring. -/
structure CoreTrace where
  entry : List Dword
  /-- The next index (R489). -/
  count : Nat
  /-- Cycle of the previous record (R491). -/
  lastEvent : Nat
  /-- PRTAIL (R506). -/
  prtail : Nat
  nextSample : Nat
  samplePtr : Nat
  /-- Activated waves whose SYNC item stands since the last marker (R493). -/
  synced : List Nat
  /-- Records dropped since the last LOST record (R490). -/
  dropped : Nat
  /-- Records that have an index and are not yet written, oldest first: the last of them has index `count` − 1 (R490). -/
  queue : List (Dword × Dword) := []
  /-- Snapshots written since reset (R506). -/
  snaps : Nat := 0
  deriving DecidableEq, Repr

/-- A compute core (R199). -/
structure Core where
  id : Nat
  /-- The roles in effect, and role changes that wait for a grant to end (R215, R216): bank and role. -/
  bankRole : Dword
  roleWait : List (Nat × Nat)
  /-- Pointer over the activation slots (R124). -/
  pointer : BitVec 6
  /-- Cycle at which each engine last received an operation that ran (R124). -/
  lastOp : Vector Nat 8
  /-- First cycle at which the core may select again, and the selections there could be before it (R124, R526). -/
  free : Nat
  freeSel : Nat
  copyQ : List Cmd
  matQ : List Cmd
  syncQ : List Cmd
  l1 : List L1Line
  tlb : List TlbEntry
  wc : List WcLine
  /-- Lines of the register cache, least recently used first: wave and line (R129, R207). -/
  lru : List (Nat × Nat)
  /-- Bytes of the shelf and its held sections (R320). -/
  shelf : Store
  sections : List ShelfSec
  /-- Cycles of scratchpad ports claimed by issued accesses and deliveries: bank and cycle (R218, R270, R468). -/
  ports : List (Nat × Nat)
  /-- Banks that a finished command held until this cycle: engine slot, bank and cycle (R218 rule 4). -/
  freed : List (Nat × Nat × Nat)
  /-- Conflict counters: requester × bank (R504, R505). -/
  conflicts : List (Nat × Nat × Nat)
  lostCyc : Nat
  fwd : Nat
  rmiss : Nat
  trace : CoreTrace
  /-- Issue cycles withheld by the power cap in each window (R526). -/
  withheld : Nat
  deriving DecidableEq, Repr

/-- A line of a die's L2 (R220, R246): bytes held, dirty bytes, poison. -/
structure L2Line where
  die : Nat
  line : Nat
  data : BitVec 1024
  valid : BitVec 128
  dirty : BitVec 128
  bad : BitVec 128
  deriving DecidableEq, Repr

/-- A decoded line of a format-window view held by the LLC (R228, R229). -/
structure ViewLine where
  line : Nat
  data : BitVec 1024
  bad : BitVec 128
  deriving DecidableEq, Repr

/-! Faults (R422 to R428). -/

/-- The fields of a fault record (R423) but for SEQ. -/
structure FaultRec where
  code : Byte
  kind : Nat
  slot : Nat
  sloti : Option Nat
  detail : Byte
  region : Dword
  ctx : Dword
  pc : Dword
  next : Dword
  lanes : Mask
  addr : Dword
  info : Dword
  /-- The wave stopped or parked, none when no wave applies. -/
  wave : Option Nat
  /-- PC that thread i takes on resume, none where it keeps its own (R421, R427). -/
  nexts : List (Option Dword)
  /-- The trapping group makes a rotation when its threads go on (R120, R427). -/
  rotate : Bool := false
  deriving DecidableEq, Repr

/-- An open record (R426): its index in the ring and what resume gives its threads. -/
structure OpenRec where
  idx : Nat
  r : FaultRec
  /-- Tick at which the control node's time ends (R428). -/
  expires : Option Nat
  handler : Option Nat
  deriving DecidableEq, Repr

/-- The fault ring's registers and the records that wait in the device (R422). -/
structure FaultRing where
  base : Dword
  ctl : Dword
  head : Dword
  tail : Dword
  waiting : List FaultRec
  opened : List OpenRec
  deriving DecidableEq, Repr

/-! The group in flight (R20 to R22). -/

/-- Who issues the group in flight. -/
inductive Owner where
  | wave (uid : Nat)
  | line (k : Nat)
  deriving DecidableEq, Repr

/-- One deferred register write (R22). -/
inductive RegWrite where
  | v (r : BitVec 7) (m : Mask) (x : Line) (bad : Mask)
  | p (r : BitVec 5) (m : Mask) (x : Mask)
  | s (r : BitVec 6) (x : Dword) (bad : BitVec 2)
  | b (r : BitVec 3) (x : Dword)
  | flags (x : BitVec 5)
  deriving DecidableEq, Repr

/-- A number for the register written: v0 to v127, p0 to p31, s0 to s63, b0 to b7, and the flags (q0 to q7 follow). -/
def RegWrite.code : RegWrite → Nat
  | .v r _ _ _ => r.toNat
  | .p r _ _ => 128 + r.toNat
  | .s r _ _ => 160 + r.toNat
  | .b r _ => 224 + r.toNat
  | .flags _ => 232

/-- A deferred write; `lat` is its stated latency, counted from the group's first bundle (R33, R34). -/
structure LatWrite where
  lat : Nat
  w : RegWrite
  deriving DecidableEq, Repr

/-- The control effect of a group's S slot (R90 to R95), with the threads in which it runs. -/
inductive Ctl where
  | none
  | loop (m : Mask) (start stop : Dword) (count : Word)
  | call (m : Mask) (target : Dword) (bt : BitVec 3)
  | exit (m : Mask) (addr : Dword)
  deriving DecidableEq, Repr

/-- A wait that threads begin after their group (R118, R200). -/
structure WaitReq where
  m : Mask
  kind : WKind
  pd : BitVec 5
  vform : BitVec 2
  votes : Mask
  cycles : Nat
  deriving DecidableEq, Repr

/-- A trap that takes effect after the group (R419, R430). -/
structure TrapReq where
  code : Byte
  m : Mask
  slot : Nat
  addr : Dword
  info : Dword
  deriving DecidableEq, Repr

/-- Where an access of the group performs, as its check found before any effect of the group (R235, R266): the
operation by bundle and slot, its lane and address, the physical address and the memory type; `zero` where a probe's walk
ended at an entry with V = 0 (R237). -/
structure AccPlace where
  at0 : Nat × Nat
  lane : Nat
  va : Dword
  pa : Nat
  mt : Nat
  zero : Bool := false
  deriving DecidableEq, Repr

/-- The group in flight: issued, with operations still to run (R20 to R22, R28, R61). -/
structure Flight where
  owner : Owner
  pc : Dword
  bundles : List FBundle
  lanes : Mask
  /-- Threads of outcome k, for k from 0 to 4 (R26, R28). -/
  outcomes : List Mask
  /-- Operations still to run: bundle and slot, in the order of R61. -/
  todo : List (Nat × Nat)
  /-- The operation that runs: bundle and slot. -/
  cur : Nat × Nat
  writes : List LatWrite
  /-- Flags raised, flags cleared by rdfl, and the mode set by setmode (R86, R87). -/
  raised : BitVec 5
  /-- Cycles after the group's first bundle by which its flags are raised (R87). -/
  flagsIn : Nat := 0
  cleared : BitVec 5
  mode : Option (BitVec 5)
  /-- Stochastic state after the draws so far (R145). -/
  stoch : Stoch
  ctl : Ctl
  waits : List WaitReq
  /-- Vector registers whose lines die by an honoured LU (R205). -/
  kills : List (BitVec 7)
  /-- Meeting registers set: threads and value per thread (R190). -/
  meets : List (Mask × List Dword)
  yielded : Bool
  trap : Option TrapReq
  /-- Token registers made pending (R289). -/
  pend : Dword
  /-- Stochastic words written by wrsr, applied after the draws (R146). -/
  stochW : List (Nat × Word)
  /-- Acquire fences executed for class c0, which empty the prepared targets (R247). -/
  refetch : Bool
  /-- Branch-target fills that start (R30). -/
  fills : List (BitVec 3 × Dword)
  /-- Where its accesses perform (R266). -/
  placed : List AccPlace := []
  /-- Steps of a system-register write of the group, which complete before its later operations (R263). -/
  sysw : List Offer := []
  /-- On a line core, the stochastic state after each operation that drew, with its latency (R146). -/
  draws : List (Nat × Stoch) := []
  deriving DecidableEq, Repr

end Sys2Proof.Machine
end

