-- ==== Sys2Proof/Machine/PartsDev.lean ====
section
/-! DEFINITION. The parts of the machine's state that belong to the device around the cores: tasks,
graphics units, line cores and heads, rings and sections, collectives, command queues, peers, switches,
debug and replay, and the device's life cycle. -/
namespace Sys2Proof.Machine
open Sys2Proof

/-! Continuations and drawers (R309 to R315). -/

/-- A record queued on a continuation queue, in order of its push (R311, R312). -/
structure ContRec where
  slot : Nat
  header : Dword
  rcd : Dword
  seq : Nat
  /-- Region of the pusher, for the refusal record. -/
  region : Dword
  deriving DecidableEq, Repr

/-- Consecutive records of a drawer that launch as one group (R315). -/
structure DrawerBatch where
  first : Nat
  count : Nat
  /-- Tick of the timer's expiry, none when disabled. -/
  due : Option Nat
  deriving DecidableEq, Repr

/-- A drawer of a home cluster (R313 to R315). -/
structure Drawer where
  uid : Nat
  slot : Nat
  header : Dword
  /-- Next record index, index at which the open batch starts, and records held in slots. -/
  next : Nat
  firstOpen : Nat
  held : Nat
  opened : Option DrawerBatch
  region : Dword
  /-- Batches closed and not launched yet, oldest first: a halt or a switch of their slot holds them (R447, R499). -/
  shut : List DrawerBatch := []
  deriving DecidableEq, Repr

/-! Graphics units (R351 to R363). -/

/-- A request that emit handed to a cull unit (R351). -/
structure CullReq where
  slot : Nat
  kind : Nat
  meshlet : Dword
  draw : Dword
  region : Dword
  priv : Bool
  gcore : Nat
  wave : Nat
  deriving DecidableEq, Repr

/-- A triangle binned to a tile (R354): screen vertices with depth, after the exchange of R358. -/
structure BinTri where
  tx : Nat
  ty : Nat
  ax : Int
  ay : Int
  az : Word
  bx : Int
  byy : Int
  bz : Word
  cx : Int
  cy : Int
  cz : Word
  prim : Word
  /-- Its meshlet came after the close of the draw, so that no tile's finality waits for it (R356). -/
  late : Bool := false
  deriving DecidableEq, Repr

/-- An open draw of a cull unit (R351, R356). -/
structure Draw where
  uid : Nat
  die : Nat
  slot : Nat
  addr : Dword
  region : Dword
  priv : Bool
  /-- Draw record words as read. -/
  words : List Dword
  tris : List BinTri
  closed : Bool
  /-- Shading grid, and tiles final in the order of their finality. -/
  grid : Option Nat
  finals : List (Nat × Nat)
  /-- Tiles whose shading indices have been written (R363). -/
  dsc : List (Nat × Nat)
  /-- With decoupled sampling, the least keys resolved so far: tile, sample of the tile, key (R363). -/
  keys : List (Nat × Nat × Nat) := []
  /-- Its grid has ended or was refused: it only holds triangles that have still to be resolved (R355). -/
  spent : Bool := false
  deriving DecidableEq, Repr

/-- The cull unit of a C-die (R351). -/
structure CullUnit where
  die : Nat
  queue : List CullReq
  /-- Draw records that are closed, by slot and address, until an emit opens them again (R356). -/
  closed : List (Nat × Dword) := []
  deriving DecidableEq, Repr

/-- A line of a map cache or texel cache of a core (R373). -/
structure MapLine where
  core : Nat
  slot : Nat
  vline : Nat
  /-- The physical line that it copies: a hit needs the line's present translation (R236). -/
  pline : Nat
  data : BitVec 1024
  bad : BitVec 128
  filled : Nat
  texel : Bool
  deriving DecidableEq, Repr

/-- A key of a core's survey filter (R375), oldest first in its list. -/
structure SurveyKey where
  core : Nat
  rid : Word
  level : Nat
  tx : Nat
  ty : Nat
  deriving DecidableEq, Repr

/-- Caches of the texture units of all cores. -/
structure TexState where
  lines : List MapLine
  survey : List SurveyKey
  deriving DecidableEq, Repr

/-! Line cores and heads (R383 to R413). -/

/-- What stalls a line core inside a group (R397, R404, R405, R411): an instant in display cycles that must
have passed, the end of its X commands, or room in their queue. -/
inductive LineWait where
  | past (t : Int) | lbar | xroom
  deriving DecidableEq, Repr

/-- The run of a line core (R384, R391). -/
structure Run where
  head : Nat
  /-- Entry of the program (R83, R384). -/
  entry : Dword
  frame : Nat
  first : Nat
  lines : Nat
  /-- The record received by dqpop, by its queue order number (R394). -/
  popped : Option Nat
  /-- The run ends with the group that it is in (R391). -/
  closing : Bool := false
  deriving DecidableEq, Repr

/-- A write that lands at a counted cycle (R34, R397). -/
structure Landing where
  cycle : Nat
  w : RegWrite
  deriving DecidableEq, Repr

/-- An X-slot command in a line core's queue (R409, R411). -/
structure XCmd where
  op : Instr
  addr : Nat
  deriving DecidableEq, Repr

/-- What a display matrix engine keeps for one core (R409). -/
structure DmeState where
  ifmt : Bool
  /-- Weight words: slot × 1024 elements, by 16-bit element. -/
  weights : List (Nat × BitVec 16)
  wbad : List Nat
  acc : List (Nat × Word)
  accBad : List Nat
  deriving DecidableEq, Repr

/-- A line core (R383). -/
structure LineCore where
  id : Nat
  wave : Option Wave
  run : Option Run
  /-- The line buffer: 393,216 bytes. -/
  buf : Store
  /-- Atlas entries that are not zero, by index (R400). -/
  atlas : List (Nat × Dword)
  /-- Address and head of the last atlas load, none after an atlset (R401). -/
  atlasFrom : Option (Dword × Nat)
  lastHead : Option Nat
  /-- Counted cycles of the run (R397). -/
  cnt : Nat
  pend : List Landing
  /-- The stochastic state as rdsr sees it, and those still to come, each with its counted cycle (R87, R146). -/
  stochSeen : Stoch := { x := 0, y := 0, z := 0, w := 0 }
  stochPend : List (Nat × Stoch) := []
  /-- Stores to the line buffer that take effect a cycle after issue (R399). -/
  bufPend : List (Nat × Nat × PByte)
  wait : Option LineWait
  /-- The group that a wait holds part-way. -/
  susp : Option Flight
  /-- Display cycle at which the first bundle of the group in flight issues, stalls counted (R397). -/
  base : Nat
  /-- The prepared-target buffer, in counted cycles (R30, R31, R397). -/
  pt : Vector PTEntry 8
  /-- Entries that atlset loaded, for the next group (R405). -/
  atlasNext : List (Nat × Dword)
  xq : List XCmd
  dme : DmeState
  /-- Tick at which the next group may issue. -/
  free : Nat
  deriving DecidableEq, Repr

/-- A record queued to a head (R392, R394). -/
structure PresRec where
  order : Nat
  words : List Dword
  /-- Tick of its token's completion. -/
  done : Nat
  removed : Bool
  used : Bool
  deriving DecidableEq, Repr

/-- A pose of a head's pose store (R396): its line as the head counts lines, and the slot's words. -/
structure Pose where
  line : Int
  words : List Dword
  deriving DecidableEq, Repr

/-- A band of a frame that a line core has started (R390, R391). -/
structure Band where
  frame : Nat
  first : Nat
  deriving DecidableEq, Repr

/-- A line in a head's FIFO (R403, R412): the segments accepted, or the line taken. -/
structure LineBuf where
  frame : Nat
  line : Nat
  segs : List Nat
  pixels : List (Nat × Word)
  taken : Bool
  deriving DecidableEq, Repr

/-- The timing that a physical head sends in its stream attributes (R527): sync, front porch and back porch, in pixels and in
lines. -/
structure StreamAttrs where
  hsync : Nat
  hfront : Nat
  hback : Nat
  vsync : Nat
  vfront : Nat
  vback : Nat
  deriving DecidableEq, Repr
/-- A head (R385). -/
structure HeadUnit where
  id : Nat
  reserve : Dword
  ctl : Dword
  /-- The link of a physical head is trained (R385, R388). -/
  link : Bool
  /-- Lanes times rate of the trained link in Mb/s (R388). -/
  rate : Nat
  err : Bool
  fbcount : Word
  frames : Nat
  /-- Enabled, its descriptor's eight words and its address, the ENTRY of its program and its copy of the atlas,
  those that wait for a promotion instant,
  and a stop that waits for one (R385, R393). -/
  en : Bool
  desc : List Dword
  entry : Dword
  atlas : List (Nat × Dword)
  nextDesc : Option (List Dword × Dword × List (Nat × Dword))
  stop : Bool
  /-- Display cycle at which line 0 of frame `baseFrame` begins (R387). -/
  f0 : Int
  baseFrame : Nat
  /-- Records not yet retired, in order, and records posted since reset (R381, R394). -/
  queue : List PresRec
  posted : Nat
  /-- Order of the record that is CUR (R393). -/
  cur : Option Nat
  poses : List Pose
  /-- Next frame to promote; next line to latch, counted over all lines from line 0 of `baseFrame`; next line to
  take and to scan out, counted over its active lines. -/
  nextPromote : Nat
  nextLatch : Int
  nextTake : Nat
  nextScan : Nat
  /-- Bands started and not yet closed (R391). -/
  bands : List Band
  lines : List LineBuf
  /-- The pixels of the line that a physical head sent last (R388). -/
  sent : List Word
  /-- The stream attributes sent with it (R527). -/
  attrs : Option StreamAttrs := none
  deriving DecidableEq, Repr

/-- The pose mailboxes (R395) and all heads and line cores. -/
structure Display where
  lines : List LineCore
  heads : List HeadUnit
  mailbox : Cells
  deriving DecidableEq, Repr

/-! Rings, sections and collectives (R461 to R479). -/

/-- Where a flit lies (R461): at its source, in a slot of a virtual channel of a stop, private or of the pool, in a
stop's escape FIFO, in its destination's delivery, or done with. -/
inductive FlitPlace where
  | source
  | slot (stop vc : Nat) (pool : Bool)
  | escape (stop : Nat)
  | delivery
  | done
  deriving DecidableEq, Repr
/-- A flit, and the compute cycle from which it lies there (R463). -/
structure Flit where
  place : FlitPlace
  since : Nat
  deriving DecidableEq, Repr
/-- A transfer on the link that leaves a stop (R462, R463): the channel at the next stop, the private slots reserved there,
the flits that have crossed, and whether they enter the escape lane. -/
structure LinkUse where
  stop : Nat
  vc : Nat
  priv : Nat
  sent : Nat
  esc : Bool
  deriving DecidableEq, Repr

/-- A routed packet (R466 to R468). -/
structure Packet where
  uid : Nat
  cluster : Nat
  src : Nat
  dst : Nat
  /-- Its flits, in order, and its transfers that go on. -/
  flits : List Flit
  links : List LinkUse
  vc : Nat
  n : Nat
  data : List PByte
  addr : Nat
  ch : Nat
  grid : Nat
  slot : Nat
  cmd : Nat
  group : Nat
  seq : Nat
  /-- Outcome decided when the first flit reached the destination (R468), and the group that takes the flits, with whether
  they are held for it. -/
  result : Option Dword
  taker : Option (Nat × Bool) := none
  deriving DecidableEq, Repr

/-- Counts of a ring stop (R465). -/
structure RingStop where
  gcore : Nat
  sdrop : Nat
  escin : Nat
  norcv : Nat
  /-- Private slots of either channel, pool slots and escape slots taken in the cycle before `useAt`, once the links have
  moved in it. -/
  use : Nat × Nat × Nat × Nat := (0, 0, 0, 0)
  useAt : Nat := 0
  deriving DecidableEq, Repr

/-- A scheduled command of a section (R474 to R476). -/
structure SecCmd where
  cmd : Nat
  gcore : Nat
  isel : Bool
  c : Nat
  k : Nat
  sel : Nat
  addr : Nat
  /-- Offsets lost to a collision. -/
  lost : List Nat
  group : Nat
  deriving DecidableEq, Repr

/-- A flit of a section on a link (R475): it is at the multiplexer of `stop` at section cycle `cycle`. -/
structure SecFlit where
  stop : Nat
  cycle : Nat
  data : List PByte
  deriving DecidableEq, Repr

/-- A cluster's section (R472, R473). -/
structure RingSection where
  cluster : Nat
  /-- Groups that wait to open, in order of arrival. -/
  opening : List Nat
  /-- Groups of the open section and the tick of T0. -/
  members : List Nat
  t0 : Option Nat
  closing : List Nat
  cmds : List SecCmd
  flits : List SecFlit
  /-- Compute cycle from which the ring's links may move again (R463). -/
  hopAt : Nat := 0
  deriving DecidableEq, Repr

/-- A participant of a collective (R478): a command of a core, or one of another device; `seq` is the order of issue or
of arrival. -/
structure CollPart where
  core : Nat
  cmd : Nat
  seq : Nat
  far : Option FarPart := none
  deriving DecidableEq, Repr

/-- A collective instance that gathers its participants (R478). -/
structure CollInst where
  uid : Nat
  slot : Nat
  tag : Nat
  sc : Nat
  die : Nat
  need : Nat
  parts : List CollPart
  deriving DecidableEq, Repr

/-- Everything between cores of a cluster and between dies. -/
structure Fabric where
  packets : List Packet
  stops : List RingStop
  sections : List RingSection
  colls : List CollInst
  deriving DecidableEq, Repr

/-! Command queues and peers (R480 to R484). -/

/-- What a command queue's front end is doing. -/
inductive CqState where
  | reading
  | armed (line : Nat)
  | waiting (line : Nat)
  deriving DecidableEq, Repr

/-- A command queue (R480). -/
structure CmdQueue where
  id : Nat
  base : Dword
  ctl : Dword
  cpl : Dword
  next : Nat
  stale : Nat
  state : CqState
  /-- Tick at which the stale timer expires (R482). -/
  timer : Option Nat
  kicked : Bool
  /-- Launches taken and not yet ended (R483). -/
  live : List Nat
  /-- Tick from which the next packet is read, after one that faulted. -/
  readAt : Nat := 0
  deriving DecidableEq, Repr

/-- A peer port (R481). -/
structure PeerPort where
  id : Nat
  en : Bool
  link : Bool
  coll : Bool
  win : Dword
  lim : Dword
  deriving DecidableEq, Repr

/-- The hub's front end and ports. -/
structure Hub where
  queues : List CmdQueue
  peers : List PeerPort
  devId : BitVec 5
  deriving DecidableEq, Repr

/-! Switches (R445 to R451). -/

/-- The phase of the running switch request. -/
inductive SwPhase where
  | idle | a | b | c
  deriving DecidableEq, Repr

/-- A saved group of a switched-out slot (R447, R451): its group and where its save area lies. -/
structure SavedGroup where
  group : Nat
  slot : Nat
  off : Nat
  size : Nat
  deriving DecidableEq, Repr

/-- The switch unit (R445). -/
structure Switch where
  /-- Physical addresses of queued requests, oldest first; a queue number with those of R483. -/
  queue : List (Dword × Option Nat)
  phase : SwPhase
  /-- Words of the running request and its slot. -/
  words : List Dword
  slot : Nat
  groups : List Nat
  bytes : Nat
  error : Option Dword
  /-- Slots switched out with their pools, and the groups saved in them. -/
  out : List (Nat × Dword)
  saved : List SavedGroup
  /-- A switch out that a cluster test runs, with what it does next (R520). -/
  service : Bool
  /-- Actions on records of switched-out waves, which wait for the switch in (R450). -/
  acts : List Offer := []
  deriving DecidableEq, Repr

/-! Debug and replay (R487 to R512). -/

/-- The debug unit (R487, R497 to R503). -/
structure Debug where
  table : Dword
  ctl : Dword
  cause : Nat
  core : Nat
  aslot : Nat
  widx : Nat
  halted : Bool
  extra : Nat
  pc : Dword
  watchAddr : Vector Dword 8
  watchCtl : Vector Dword 8
  deriving DecidableEq, Repr

/-- A log of the replay unit (R508): its table entry as last read and its position. -/
structure RLog where
  unit : Nat
  base : Dword
  log2 : Nat
  count : Nat
  limit : Nat
  /-- Tick since which an operation or a core waits on the current entry. -/
  since : Option Nat
  /-- Word 0 and word 1 of the RUN entry being formed in record mode, and runs used up in replay. -/
  runWave : Option Nat
  runLen : Nat
  deriving DecidableEq, Repr

/-- Recording and replay (R507). -/
structure Replay where
  table : Dword
  ctl : Dword
  state : Nat
  full : Bool
  err : Bool
  unit : Nat
  index : Nat
  logs : List RLog
  /-- Groups that have issued while an operation of theirs waits at a unit for its entry, oldest first (R510). -/
  waiting : List Flight := []
  deriving DecidableEq, Repr

/-! Start, repair, service, trust, power (R513 to R526). -/

/-- How far the device has come (R513, R515). -/
inductive LifeState where
  | off | starting (step : Nat) | ready | failed | tripped
  deriving DecidableEq, Repr

/-- An image held or being installed (R523, R524). -/
structure Image where
  kind : Nat
  version : Dword
  digest : BitVec 512
  deriving DecidableEq, Repr

/-- The life of the device (R513 to R526). -/
structure Life where
  state : LifeState
  /-- Non-volatile failure count F (R514). -/
  f : Nat
  cause : Byte
  fails : Nat
  min : Bool
  step : Nat
  /-- The last failed start's code and step, kept for the next start (R515). -/
  lastCode : Byte
  lastStep : Nat
  stopCode : Option Byte
  resetAt : Nat
  /-- Channels trained (R513), trained channels of M-die 3 in a minimal start (R514). -/
  channels : BitVec 48
  minChannels : List Nat
  /-- First address above device memory (R223, R514). -/
  memTop : Nat
  /-- Clusters that hold groups, by die × 12 + cluster; clusters in service (R517, R520). -/
  clusters : BitVec 96
  inTest : Option Nat
  /-- Spare units used and retired: kind, die, unit (R516, R517). -/
  spares : List UnitFault
  retired : List UnitFault
  /-- REPAIR_HEAD and the newest 64 entries (R518). -/
  repairHead : Nat
  repairLog : Vector Dword 64
  serviceQ : List Dword
  /-- The service request that runs, as it was read when it started (R519). -/
  running : Option (List Dword) := none
  /-- A peer port's retrain: the link before it, and the tick at which it ends (R521). -/
  retrain : Option (Bool × Nat) := none
  images : List Image
  pendingImages : List Image
  minVersion : Vector Dword 4
  pwrCap : Dword
  power : Nat
  held : Nat
  /-- Cycle from which `held` applies, and the selections that there could be before it (R124, R526). -/
  heldFrom : Nat := 0
  heldSel : Nat := 0
  tmax : Nat
  coolin : Nat
  flow : Nat
  deriving DecidableEq, Repr

end Sys2Proof.Machine
end

