-- ==== Sys2Proof/Machine/State.lean ====
section
/-! DEFINITION. The whole state of the device as plain data, the reasons a step may stop, and the state
right after a cold reset that reached ready (22_device_lifecycle.md R513). -/
namespace Sys2Proof.Machine
open Sys2Proof

/-- The reasons for which a step stops the machine. -/
inductive Fault where
  /-- Raised by the meaning of a slot operation when no group is in flight that could hold it. No run
  reaches it, since a step runs slot operations only from a group in flight. Safe: the hardware has no
  such situation. -/
  | noGroup
  deriving DecidableEq, Repr

/-- The reasons for which a step is refused. -/
inductive Refusal where
  /-- An instruction whose meaning has not been written. Safe: nothing is claimed of it. -/
  | notModelled (mnemonic : String)
  deriving DecidableEq, Repr

/-- Package registers that no unit below owns (R225, R227, R231, R439). -/
structure SysRegs where
  /-- SERR_COUNT (R439). -/
  serrCorr : Word
  serrUncorr : Word
  /-- CTX_TABLE (R231). -/
  ctxTable : Dword
  /-- FRAME_BASE, FRAME_SIZE, FRAME_WAYS (R225). -/
  frameBase : Dword
  frameSize : Dword
  frameWays : Dword
  /-- FWIN_VIEW, FWIN_SRC, FWIN_SCALE, FWIN_CTL of windows 0 to 15, by SRN − 0x100 (R227). -/
  fwin : Vector Dword 64
  deriving DecidableEq, Repr

/-- The whole device. -/
structure State where
  /-- Time since reset in units of 1/72 ns: 40 a compute cycle, 45 a display cycle (R4, R198). -/
  now : Nat
  /-- Names given to waves, groups, grids and commands so far (the model's own). -/
  nextUid : Nat
  /-- Acceptances so far: the age of launches, pushes and placements (R114, R124). -/
  seq : Nat
  /-- Free values taken so far (the model's own counter of Config's free values). -/
  freeCount : Nat
  /-- Operands of the running step (the model's own). -/
  arg : Arg
  /-- Steps that a step has caused and that run next, in order (the model's own). -/
  posted : List Offer
  /-- What the outside and the free scheduling choices offer, each with the earliest tick at which it comes, in
  order (the model's own). -/
  agenda : List (Nat × Offer)
  /-- The group in flight (R20). -/
  flight : Option Flight
  /-- Bytes of device memory at the LLC and GDDR 7, by physical address (R199, R223). -/
  mem : Cells
  /-- Poisoned bytes of it, rising (R230). -/
  memBad : List Nat
  /-- Lines held by the L2 of the C-dies (R221). -/
  l2 : List L2Line
  /-- Decoded view lines held by the LLC (R228). -/
  views : List ViewLine
  /-- Compute cores that differ from their reset state, by gcore (R83, R199). -/
  cores : List Core
  /-- Live waves and surveyors (R97, R316). -/
  waves : List Wave
  /-- Placed and switched-out groups (R97, R113, R450). -/
  groups : List Group
  /-- Launched grids with groups not yet ended (R97). -/
  grids : List Grid
  /-- The device's copies of region control blocks (R110). -/
  regions : List RegionCopy
  /-- Launches accepted in the current microsecond (R109). -/
  lrate : List LrateCount
  /-- Hub microsecond of those counts (R109). -/
  lrateAt : Nat
  /-- Launches that an LRATE budget holds, in the order in which they came (R109). -/
  lrateQ : List LrateWait
  /-- Writes of system registers that complete later (R426, R433). -/
  lateWr : List LateWr
  /-- The fault ring and open records (R422). -/
  fault : FaultRing
  sys : SysRegs
  /-- Records queued on continuation queues (R311). -/
  conts : List ContRec
  /-- Drawers with records or an open batch (R313). -/
  drawers : List Drawer
  /-- Cull units with requests, open draws, binned triangles (R351 to R363). -/
  culls : List CullUnit
  draws : List Draw
  tex : TexState
  disp : Display
  fab : Fabric
  hub : Hub
  sw : Switch
  dbg : Debug
  rep : Replay
  life : Life
  deriving DecidableEq, Repr

/-- A core after reset: every bank a scratchpad bank, Pointer 0, nothing held (R124, R215). -/
def coreReset (g : Nat) : Core :=
  { id := g, bankRole := 0, roleWait := [], pointer := 0, lastOp := Vector.replicate 8 0, free := 0,
    copyQ := [], matQ := [], syncQ := [], l1 := [], tlb := [], wc := [], lru := [], freeSel := 0, ports := [], freed := [], shelf := { cells := [], bad := [] }, sections := [],
    conflicts := [], lostCyc := 0, fwd := 0, rmiss := 0,
    trace := { entry := [], count := 0, lastEvent := 0, prtail := 0, nextSample := 0, samplePtr := 0,
               synced := [], dropped := 0 },
    withheld := 0 }

/-- A line core after reset: its buffer and its engine's state zero (R383, R409). -/
def lineCoreReset (k : Nat) : LineCore :=
  { id := k, wave := none, run := none, buf := { cells := [], bad := [] }, atlas := [], atlasFrom := none,
    lastHead := none, cnt := 0, pend := [], bufPend := [], wait := none, susp := none, base := 0,
    pt := Vector.replicate 8 PTEntry.blank,
    atlasNext := [], xq := [],
    dme := { ifmt := false, weights := [], wbad := [], acc := [], accBad := [] }, free := 0 }

/-- A head after reset: disabled, every register zero (R226, R385). -/
def headReset (h : Nat) : HeadUnit :=
  { id := h, reserve := 0, ctl := 0, link := false, rate := 0, err := false, fbcount := 0, frames := 0, en := false,
    desc := [], entry := 0, atlas := [], nextDesc := none, stop := false, f0 := 0, baseFrame := 0, queue := [],
    posted := 0, cur := none, poses := [], nextPromote := 0, nextLatch := 0, nextTake := 0, nextScan := 0,
    bands := [], lines := [], sent := [] }

/-- A command queue after reset: disabled (R480). -/
def queueReset (q : Nat) : CmdQueue :=
  { id := q, base := 0, ctl := 0, cpl := 0, next := 0, stale := 0, state := .reading, timer := none,
    kicked := false, live := [] }

/-- A peer port after reset: disabled, its link down (R481). -/
def peerReset (p : Nat) : PeerPort := { id := p, en := false, link := false, coll := false, win := 0, lim := 0 }

/-- A drawn-up clean life: a full cold start that reached step 7 with F = 0 (R513 to R515). -/
def lifeReset : Life :=
  { state := .ready, f := 0, cause := 0, fails := 0, min := false, step := 0, lastCode := 0, lastStep := 0,
    stopCode := none, resetAt := 0, channels := BitVec.allOnes 48, minChannels := [], memTop := 0x6000000000,
    clusters := BitVec.allOnes 96, inTest := none, spares := [], retired := [], repairHead := 0,
    repairLog := Vector.replicate 64 0, serviceQ := [], images := [], pendingImages := [],
    minVersion := Vector.replicate 4 0, pwrCap := 0, power := 0, held := 0, tmax := 0, coolin := 0, flow := 0 }

/-- The machine right after reset: every register of the package at its Reset value (R8, R513 step 5), no
wave, no group, no command, memory with nothing listed. -/
def State.reset : State :=
  { now := 0, nextUid := 0, seq := 0, freeCount := 0, arg := { a := 0, b := 0, c := 0, x := 0 }, posted := [],
    agenda := [], flight := none, mem := [], memBad := [], l2 := [], views := [], cores := [], waves := [],
    groups := [], grids := [], regions := [], lrate := [], lrateAt := 0, lrateQ := [], lateWr := [],
    fault := { base := 0, ctl := 0, head := 0, tail := 0, waiting := [], opened := [] },
    sys := { serrCorr := 0, serrUncorr := 0, ctxTable := 0, frameBase := 0, frameSize := 0, frameWays := 0,
             fwin := Vector.replicate 64 0 },
    conts := [], drawers := [], culls := [], draws := [], tex := { lines := [], survey := [] },
    disp := { lines := [], heads := [], mailbox := [] },
    fab := { packets := [], stops := [], sections := [], colls := [] },
    hub := { queues := [], peers := [], devId := 0 },
    sw := { queue := [], phase := .idle, words := [], slot := 0, groups := [], bytes := 0, error := none,
            out := [], saved := [], service := false },
    dbg := { table := 0, ctl := 0, cause := 0, core := 0, aslot := 0, widx := 0, halted := false, extra := 0,
             pc := 0, watchAddr := Vector.replicate 8 0, watchCtl := Vector.replicate 8 0 },
    rep := { table := 0, ctl := 0, state := 0, full := false, err := false, unit := 0, index := 0, logs := [] },
    life := lifeReset }

end Sys2Proof.Machine
end

