-- ==== Sys2Proof/Machine/Ops.lean ====
section
/-! DEFINITION. The named operations over the state: the parts of a device by number, byte stores in
canonical form, the levels of memory (07_storage_and_translation.md R199 to R236, 08_memory_model.md), and
what a slot operation reads and writes. -/
namespace Sys2Proof.Machine
open Sys2Proof

/-! Lists keyed by number. -/

/-- Replace the first entry that `p` selects, or append. -/
def upd {α : Type} (p : α → Bool) (x : α) : List α → List α
  | [] => [x]
  | y :: ys => if p y then x :: ys else y :: upd p x ys

/-- The entry of a list, or a default. -/
def getOr {α : Type} (p : α → Bool) (d : α) (l : List α) : α := (l.find? p).getD d

/-- Insertion before the first entry that may follow. -/
def insertBy {α : Type} (le : α → α → Bool) (x : α) : List α → List α
  | [] => [x]
  | y :: ys => if le x y then x :: y :: ys else y :: insertBy le x ys
/-- Entries in order; equal ones keep theirs. -/
def sortBy {α : Type} (le : α → α → Bool) (l : List α) : List α := l.foldr (insertBy le) []

/-! The parts of the device by number. -/

def State.core (s : State) (g : Nat) : Core := getOr (fun c => c.id == g) (coreReset g) s.cores
def State.setCore (s : State) (c : Core) : State := { s with cores := upd (fun d => d.id == c.id) c s.cores }
def State.modCore (s : State) (g : Nat) (f : Core → Core) : State := s.setCore (f (s.core g))

def State.wave? (s : State) (u : Nat) : Option Wave := s.waves.find? fun w => w.uid == u
def State.modWave (s : State) (u : Nat) (f : Wave → Wave) : State :=
  { s with waves := s.waves.map fun w => if w.uid == u then f w else w }
def State.group? (s : State) (u : Nat) : Option Group := s.groups.find? fun g => g.uid == u
def State.modGroup (s : State) (u : Nat) (f : Group → Group) : State :=
  { s with groups := s.groups.map fun g => if g.uid == u then f g else g }
def State.grid? (s : State) (u : Nat) : Option Grid := s.grids.find? fun g => g.uid == u
def State.modGrid (s : State) (u : Nat) (f : Grid → Grid) : State :=
  { s with grids := s.grids.map fun g => if g.uid == u then f g else g }
def State.wavesOf (s : State) (g : Nat) : List Wave := s.waves.filter fun w => w.group == g

def State.line (s : State) (k : Nat) : LineCore := getOr (fun l => l.id == k) (lineCoreReset k) s.disp.lines
def State.setLine (s : State) (l : LineCore) : State :=
  { s with disp := { s.disp with lines := upd (fun d => d.id == l.id) l s.disp.lines } }
def State.modLine (s : State) (k : Nat) (f : LineCore → LineCore) : State := s.setLine (f (s.line k))
def State.head (s : State) (h : Nat) : HeadUnit := getOr (fun x => x.id == h) (headReset h) s.disp.heads
def State.setHead (s : State) (x : HeadUnit) : State :=
  { s with disp := { s.disp with heads := upd (fun d => d.id == x.id) x s.disp.heads } }
def State.modHead (s : State) (h : Nat) (f : HeadUnit → HeadUnit) : State := s.setHead (f (s.head h))
def State.queue (s : State) (q : Nat) : CmdQueue := getOr (fun x => x.id == q) (queueReset q) s.hub.queues
def State.setQueue (s : State) (x : CmdQueue) : State :=
  { s with hub := { s.hub with queues := upd (fun d => d.id == x.id) x s.hub.queues } }
def State.peer (s : State) (p : Nat) : PeerPort := getOr (fun x => x.id == p) (peerReset p) s.hub.peers
def State.setPeer (s : State) (x : PeerPort) : State :=
  { s with hub := { s.hub with peers := upd (fun d => d.id == x.id) x s.hub.peers } }
def State.stop (s : State) (g : Nat) : RingStop :=
  getOr (fun x => x.gcore == g) { gcore := g, sdrop := 0, escin := 0, norcv := 0 } s.fab.stops
def State.setStop (s : State) (x : RingStop) : State :=
  { s with fab := { s.fab with stops := upd (fun d => d.gcore == x.gcore) x s.fab.stops } }
def State.section (s : State) (c : Nat) : RingSection :=
  getOr (fun x => x.cluster == c)
    { cluster := c, opening := [], members := [], t0 := none, closing := [], cmds := [], flits := [] } s.fab.sections
def State.setSection (s : State) (x : RingSection) : State :=
  { s with fab := { s.fab with sections := upd (fun d => d.cluster == x.cluster) x s.fab.sections } }

/-- A fresh name. -/
def State.fresh (s : State) : Nat × State := (s.nextUid, { s with nextUid := s.nextUid + 1 })
/-- A step that this step causes and that runs next. -/
def State.post (s : State) (i : Instr) (a : Nat := 0) (b : Nat := 0) (c : Nat := 0) (x : Dword := 0) : State :=
  { s with posted := s.posted ++ [{ instr := i, arg := { a, b, c, x } }] }
/-- A step that this step causes and that runs before every other posted one. -/
def State.postFirst (s : State) (i : Instr) (a : Nat := 0) (b : Nat := 0) (c : Nat := 0) (x : Dword := 0) : State :=
  { s with posted := { instr := i, arg := { a, b, c, x } } :: s.posted }
/-- The number of a fresh free value. -/
def State.free (s : State) : Nat × State := (s.freeCount, { s with freeCount := s.freeCount + 1 })

/-- The compute cycle (R198) and the display cycle. -/
def State.cycle (s : State) : Nat := s.now / 40
def State.dcycle (s : State) : Nat := s.now / 45
/-- The die of a core, its cluster in the package and its stop on the ring (R83). -/
def dieOf (g : Nat) : Nat := g / 96
def clusterOf (g : Nat) : Nat := g / 8
def stopOf (g : Nat) : Nat := g % 8

/-- The cycle's issue is withheld by the power cap (R526): `held` of 1,000 cycles are, spread evenly. -/
def Life.withholds (l : Life) (cycle : Nat) : Bool := cycle * l.held / 1000 != (cycle + 1) * l.held / 1000
/-- Selections that a core could make before a cycle: one in each cycle that is not withheld (R124). -/
def Life.selectionsBefore (l : Life) (cycle : Nat) : Nat :=
  l.heldSel + (cycle - l.heldFrom) - (cycle * l.held / 1000 - l.heldFrom * l.held / 1000)

/-! Byte stores in canonical form. -/

/-- The value at a key of a rising list, or the default. -/
def lookKey {α : Type} (d : α) (a : Nat) : List (Nat × α) → α
  | [] => d
  | (k, x) :: t => if k == a then x else if a < k then d else lookKey d a t

/-- Set a key of a rising list; writing the default removes the entry. -/
def putKey {α : Type} [DecidableEq α] (d : α) (a : Nat) (x : α) : List (Nat × α) → List (Nat × α)
  | [] => if x = d then [] else [(a, x)]
  | (k, y) :: t =>
    if a < k then (if x = d then (k, y) :: t else (a, x) :: (k, y) :: t)
    else if k = a then (if x = d then t else (a, x) :: t)
    else (k, y) :: putKey d a x t

/-- Membership in a rising list of numbers. -/
def inKeys (a : Nat) : List Nat → Bool
  | [] => false
  | k :: t => if k == a then true else if a < k then false else inKeys a t
/-- Set membership in a rising list of numbers. -/
def putKeySet (a : Nat) (b : Bool) : List Nat → List Nat
  | [] => if b then [a] else []
  | k :: t =>
    if a < k then (if b then a :: k :: t else k :: t)
    else if k = a then (if b then k :: t else t)
    else k :: putKeySet a b t

/-- A byte of device memory that nothing has written reads as zero (the model's choice). -/
def cell (m : Cells) (a : Nat) : Byte := lookKey 0 a m
def putCell (m : Cells) (a : Nat) (b : Byte) : Cells := putKey 0 a b m

/-- The canonical form of a byte store: addresses rise strictly and no byte is the default. -/
def Memory.wf : Cells → Bool
  | [] => true
  | [(_, b)] => b != 0
  | (a, b) :: (k, c) :: t => b != 0 && decide (a < k) && Memory.wf ((k, c) :: t)

def Store.get (st : Store) (a : Nat) : PByte := { v := cell st.cells a, bad := inKeys a st.bad }
def Store.put (st : Store) (a : Nat) (b : PByte) : Store :=
  { cells := putCell st.cells a b.v, bad := putKeySet a b.bad st.bad }
def Store.read (st : Store) (a n : Nat) : List PByte := (List.range n).map fun i => st.get (a + i)
/-- Write consecutive bytes. -/
def Store.write (st : Store) : Nat → List PByte → Store
  | _, [] => st
  | a, b :: bs => (st.put a b).write (a + 1) bs
def Store.empty : Store := { cells := [], bad := [] }

def WordStore.get (st : WordStore) (k : Nat) : Word × Bool := (lookKey 0 k st.cells, inKeys k st.bad)
def WordStore.put (st : WordStore) (k : Nat) (x : Word) (bad : Bool) : WordStore :=
  { cells := putKey 0 k x st.cells, bad := putKeySet k bad st.bad }

/-- A byte without poison. -/
def clean (b : Byte) : PByte := { v := b, bad := false }
/-- The bytes of a number without poison, least significant first. -/
def cleanBytes (n x : Nat) : List PByte := (bytesOfNat n x).map clean
/-- The value of bytes read, and whether one is poisoned. -/
def natOf (bs : List PByte) : Nat := natOfBytes (bs.map fun b => b.v)
def anyBad (bs : List PByte) : Bool := bs.any fun b => b.bad
/-- A 64-bit word of a list of words, zero past its end. -/
def wd (ws : List Dword) (k : Nat) : Dword := ws.getD k 0
/-- Consecutive 64-bit words of bytes. -/
def wordsOf (n : Nat) (bs : List PByte) : List Dword :=
  (List.range n).map fun k => BitVec.ofNat 64 (natOf ((bs.drop (8 * k)).take 8))

/-! 128-byte lines as bit vectors. -/

def lineByte (x : BitVec 1024) (i : Nat) : Byte := x.extractLsb' (8 * i) 8
def setLineByte (x : BitVec 1024) (i : Nat) (b : Byte) : BitVec 1024 :=
  (x &&& ~~~((255#1024) <<< (8 * i))) ||| ((b.zeroExtend 1024) <<< (8 * i))
/-- A line built from its 128 bytes. -/
def buildLine (f : Nat → PByte) : BitVec 1024 × BitVec 128 :=
  (List.range 128).foldl (fun (acc : BitVec 1024 × BitVec 128) i =>
    let b := f i
    (acc.1 ||| ((b.v.zeroExtend 1024) <<< (8 * i)), if b.bad then acc.2 ||| (1#128 <<< i) else acc.2)) (0, 0)

/-! Physical addresses (R223, R458). -/

/-- The ranges of physical addresses. -/
inductive Range where
  | mem | mailbox | hub | control | peer (p : Nat) | none
  deriving DecidableEq, Repr

/-- The range that holds a physical address (R458, R514). -/
def State.range (s : State) (pa : Nat) : Range :=
  if pa < s.life.memTop then .mem
  else if 0x7000000000 ≤ pa && pa < 0x7000008200 then .mailbox
  else if 0x7100000000 ≤ pa && pa < 0x7100300008 then .hub
  else if 0x8000000000 ≤ pa && pa < 0x10000000000 then .control
  else if 0x10000000000 ≤ pa && pa < 0x90000000000 && !s.life.min then .peer ((pa - 0x10000000000) / 0x8000000000)
  else .none

/-- Every byte of an access lies in device memory. -/
def State.inMem (s : State) (pa n : Nat) : Bool := pa + n ≤ s.life.memTop

/-- The channel of a device-memory address (R223, R514). -/
def State.channel (s : State) (pa : Nat) : Nat :=
  if s.life.min then s.life.minChannels.getD ((pa / 4096) % max 1 s.life.minChannels.length) 0 else (pa / 4096) % 48

/-- The channel of an address is retired: reads are poisoned and writes lost (R517). -/
def State.channelDead (s : State) (pa : Nat) : Bool := !s.life.channels.getLsbD (s.channel pa)

/-- The L2 slice of a physical address (R221). -/
def sliceOf (pa : Nat) : Nat :=
  let g := pa / 512
  let f := ((g % 4096) ^^^ (g / 4096 % 4096)) ^^^ ((g / 16777216 % 4096) ^^^ (g / 68719476736 % 128))
  16 * ((f / 16) % 12) + f % 16

/-! Format windows (R227 to R229). -/

/-- Register r of window w. -/
def State.fwin (s : State) (w r : Nat) : Dword := (s.sys.fwin[4 * w + r]?).getD 0

/-- A window's settings: enabled, depth, planes read, scale group, format, pages. -/
structure Fwin where
  view : Nat
  src : Nat
  scale : Nat
  depth : Nat
  readk : Nat
  sgrp : Nat
  vfmt : Nat
  pages : Nat
  deriving DecidableEq, Repr

/-- The settings of an enabled window; a DEPTH or READK outside its limits disables it (R227). -/
def State.window (s : State) (w : Nat) : Option Fwin :=
  let c := s.fwin w 3
  if !bit c 0 then none
  else
    let f : Fwin :=
      { view := (s.fwin w 0).toNat, src := (s.fwin w 1).toNat, scale := (s.fwin w 2).toNat, depth := bits c 4 1,
        readk := bits c 8 5, sgrp := bits c 10 9, vfmt := bits c 12 11, pages := bits c 39 16 }
    if 2 ≤ f.depth && f.depth ≤ 8 && 1 ≤ f.readk && f.readk ≤ f.depth then some f else none

/-- The lowest-numbered enabled window whose view holds an address (R229). -/
def State.viewAt (s : State) (pa : Nat) : Option Fwin :=
  (List.range 16).findSome? fun w =>
    (s.window w).bind fun f => if f.view ≤ pa && pa < f.view + 4096 * f.pages then some f else none

/-- A byte of GDDR 7 and its poison. -/
def State.rawByte (s : State) (pa : Nat) : PByte :=
  { v := cell s.mem pa, bad := inKeys pa s.memBad || s.channelDead pa }

/-- The signed element i of a bit-plane block read from planes 1 to k, plane 1 the most significant
(R138, R139): planes are 32-bit words at `base`. -/
def planeElem (s : State) (base k i : Nat) : Int × Bool :=
  let r := (List.range k).foldl (fun (acc : Nat × Bool) q =>
    let b := s.rawByte (base + 4 * q + i / 8)
    (2 * acc.1 + (if b.v.getLsbD (i % 8) then 1 else 0), acc.2 || b.bad)) (0, false)
  (if r.1 < 2 ^ (k - 1) then (r.1 : Int) else (r.1 : Int) - 2 ^ k, r.2)

/-- The bits of a number m · 2^e, m small, rounded to nearest even with subnormals kept, in a format of
`ew` exponent and `mw` fraction bits (R140); e is bounded so that no overflow but to infinity arises. -/
def roundSmall (ew mw : Nat) (m : Int) (e : Int) : Nat :=
  let a := m.natAbs
  let sign := if m < 0 then 2 ^ (ew + mw) else 0
  if a == 0 then 0
  else
    let bias : Int := 2 ^ (ew - 1) - 1
    let top : Int := (a.log2 : Int) + e
    let emin : Int := 1 - bias
    let q : Int := (if top < emin then emin else top) - mw
    let sh := e - q
    let r := if 0 ≤ sh then a * 2 ^ sh.toNat
             else
               let d := 2 ^ (-sh).toNat
               let lo := a / d
               let rem := a % d
               if d < 2 * rem || (d == 2 * rem && lo % 2 == 1) then lo + 1 else lo
    let be : Int := q + mw + bias
    let x := if r < 2 ^ mw then r else (be - 1).toNat * 2 ^ mw + r
    let inf := (2 ^ ew - 1) * 2 ^ mw
    sign + (if inf ≤ x then inf else x)

/-- The decoded bytes of view element n (R228). -/
def State.viewElem (s : State) (f : Fwin) (n : Nat) : Nat × Bool :=
  let j := n / 32
  let e := s.rawByte (f.scale + j / 2 ^ f.sgrp)
  let m := planeElem s (f.src + 4 * f.depth * j) f.readk (n % 32)
  let ev := e.v.toNat
  let ex : Int := (ev : Int) - 127 - ((f.readk : Int) - 1)
  let v :=
    if f.vfmt == 3 then (if ev == 255 then 0 else (m.1 % 256).toNat)
    else if ev == 255 then (if f.vfmt == 0 then 0x7FC00000 else if f.vfmt == 1 then 0x7FC0 else 0x7E00)
    else if f.vfmt == 0 then roundSmall 8 23 m.1 ex
    else if f.vfmt == 1 then roundSmall 8 7 m.1 ex
    else roundSmall 5 10 m.1 ex
  (v, e.bad || m.2)

/-- A byte of a view, decoded now (R228). -/
def State.viewByte (s : State) (f : Fwin) (pa : Nat) : PByte :=
  let size := if f.vfmt == 0 then 4 else if f.vfmt == 3 then 1 else 2
  let e := s.viewElem f ((pa - f.view) / size)
  { v := BitVec.ofNat 8 (e.1 / 256 ^ ((pa - f.view) % size)), bad := e.2 }

/-- A byte of device memory as the LLC gives it: a view line once held stays as it was decoded (R228, R229). -/
def State.llcByte (s : State) (pa : Nat) : PByte :=
  match s.viewAt pa with
  | none => s.rawByte pa
  | some f =>
    let b : PByte := match s.views.find? fun l => l.line == pa / 128 with
      | some l => { v := lineByte l.data (pa % 128), bad := l.bad.getLsbD (pa % 128) }
      | none => s.viewByte f pa
    { b with bad := b.bad || s.channelDead pa }
def State.llcBytes (s : State) (pa n : Nat) : List PByte := (List.range n).map fun i => s.llcByte (pa + i)
def State.llcWord (s : State) (pa : Nat) : Dword := BitVec.ofNat 64 (natOf (s.llcBytes pa 8))
def State.llcWords (s : State) (pa n : Nat) : List Dword := wordsOf n (s.llcBytes pa (8 * n))

/-- The LLC holds a view line from its first read on. -/
def State.touchView (s : State) (line : Nat) : State :=
  match s.viewAt (128 * line) with
  | none => s
  | some f =>
    if s.views.any fun l => l.line == line then s
    else
      let d := buildLine fun i => s.viewByte f (128 * line + i)
      { s with views := { line, data := d.1, bad := d.2 } :: s.views }

/-! Monitors and marks on lines (R235, R261, R262, R275). -/

/-- The lines on which something waits for a write. -/
def State.watchedLines (s : State) : List Nat :=
  (s.waves.flatMap fun w => w.c.mon.toList ++ w.c.parkLines ++ w.c.pinAt.map fun e => e.2)
    ++ s.grids.filterMap (fun g => g.doneWait)
    ++ s.hub.queues.filterMap fun q => match q.state with
      | .armed l | .waiting l => some l
      | _ => none
/-- Something waits for a write to a line. -/
def State.watched (s : State) (line : Nat) : Bool := s.watchedLines.any fun l => l == line

/-- The core of a wave's group. -/
def State.coreOf (s : State) (w : Wave) : Nat := ((s.group? w.group).map fun g => g.core).getD 0
/-- The map cache and the texel cache of a core let go of a line: what a thread reads through them is no older than what it
wrote or read otherwise (R251, R373). -/
def State.texDrop (s : State) (g line : Nat) : State :=
  { s with tex := { s.tex with lines := s.tex.lines.filter fun l => !(l.core == g && l.pline == line) } }
/-- The L1 of a core lets go of a line. -/
def State.l1Only (s : State) (g line : Nat) : State :=
  s.modCore g fun c => { c with l1 := c.l1.filter fun l => l.line != line }
def State.l1Drop (s : State) (g line : Nat) : State := (s.texDrop g line).l1Only g line
/-- A write to a line performs at pkg scope, or its LLC line is invalidated: armed monitors trigger (R262). The cores of
their waves let go of their copies, so that a read after the wait returns the triggering write or a later one (R261). -/
def State.trigger (s : State) (line : Nat) : State :=
  if s.watched line then
    let s := (s.waves.filter fun w => w.c.mon == some line).foldl (fun s w => s.l1Drop (s.coreOf w) line) s
    let s := { s with waves := s.waves.map fun (w : Wave) =>
        if w.c.mon == some line then { w with c := { w.c with monTrig := true } } else w }
    s.post .monitorTrigger line 0 0 1
  else s

/-- Lines of a range are invalidated at the LLC: the monitors on them trigger (R262). -/
def State.triggerRange (s : State) (lo n : Nat) : State :=
  (s.watchedLines.filter fun l => decide (lo < 128 * l + 128) && decide (128 * l < lo + n)).eraseDups.foldl (fun s l => s.trigger l) s
/-- Marks on a line break in the waves whose die satisfies `p` (R275). -/
def State.breakMarks (s : State) (line : Nat) (p : Nat → Bool) : State :=
  { s with waves := s.waves.map fun w =>
      if w.c.marks.any (fun m => m.line == line && !m.broken) && p (dieOf (s.coreOf w)) then
        { w with c := { w.c with marks := w.c.marks.map fun m => if m.line == line then { m with broken := true } else m } }
      else w }

/-- The bytes of a line that the LLC lacks: dirty ones among those that the line holds. -/
def L2Line.owed (l : L2Line) : BitVec 128 := l.valid &&& l.dirty
/-- A write to a line has reached the LLC from die `d`, or from a hub agent: the clean bytes of the copies
in other dies drop, their marks break, monitors trigger (R246, R262, R275). -/
def State.atLlc (s : State) (d : Option Nat) (line : Nat) : State :=
  let l2 := s.l2.filterMap fun l =>
    if l.line == line && d != some l.die then
      if l.owed == 0 then none else some { l with valid := l.owed }
    else some l
  (({ s with l2 := l2 }).breakMarks line fun k => d != some k).trigger line

/-- Lines that bytes [pa, pa + n) touch. -/
def linesOf (pa n : Nat) : List Nat :=
  if n == 0 then [] else (List.range ((pa + n - 1) / 128 - pa / 128 + 1)).map fun i => pa / 128 + i

/-- Bytes of device memory set; a view and a retired channel discard them (R229, R517). -/
def State.setMem (s : State) : Nat → List PByte → State
  | _, [] => s
  | pa, b :: bs =>
    let s' :=
      if (s.viewAt pa).isSome || s.channelDead pa then s
      else { s with mem := putCell s.mem pa b.v, memBad := putKeySet pa b.bad s.memBad }
    s'.setMem (pa + 1) bs

/-- A write of device memory that performs at the LLC, by die `d` or a hub agent. -/
def State.llcWrite (s : State) (d : Option Nat) (pa : Nat) (bs : List PByte) : State :=
  (linesOf pa bs.length).foldl (fun s l => s.atLlc d l) (s.setMem pa bs)

/-- A hub agent writes a 64-bit word at the LLC. -/
def State.llcPutWord (s : State) (pa : Nat) (x : Dword) : State := s.llcWrite none pa (cleanBytes 8 x.toNat)

/-! L2 of a die (R220, R221, R246). -/

def State.l2Find (s : State) (die line : Nat) : Option L2Line := s.l2.find? fun l => l.die == die && l.line == line
def State.l2Set (s : State) (l : L2Line) : State :=
  { s with l2 := if l.valid == 0 then s.l2.filter (fun k => !(k.die == l.die && k.line == l.line))
                 else upd (fun k => k.die == l.die && k.line == l.line) l s.l2 }
/-- The slice of a die lets go of a line: marks of the die on it break (R275). -/
def State.l2Drop (s : State) (die line : Nat) : State :=
  if (s.l2Find die line).isSome then
    ({ s with l2 := s.l2.filter fun k => !(k.die == die && k.line == line) }).breakMarks line fun k => k == die
  else s

/-- A byte as the die reads it: the bytes its L2 holds, else the LLC's. -/
def State.dieByte (s : State) (die pa : Nat) : PByte :=
  match s.l2Find die (pa / 128) with
  | some l => if l.valid.getLsbD (pa % 128) then { v := lineByte l.data (pa % 128), bad := l.bad.getLsbD (pa % 128) }
              else s.llcByte pa
  | none => s.llcByte pa
def State.dieBytes (s : State) (die pa n : Nat) : List PByte := (List.range n).map fun i => s.dieByte die (pa + i)

/-- The slice of a line on a die is bypassed: its accesses perform at the LLC (R517). -/
def State.sliceDead (s : State) (die line : Nat) : Bool :=
  s.life.retired.any fun u => u.kind == .slice && u.die == die && u.unit == sliceOf (128 * line)

/-- A read brings the whole line into the die's L2 (R220). -/
def State.l2Fill (s : State) (die line : Nat) : State :=
  let s := s.touchView line
  if s.sliceDead die line then s
  else
    let old := (s.l2Find die line).map fun l => l.dirty
    let d := buildLine fun i => s.dieByte die (128 * line + i)
    s.l2Set { die, line, data := d.1, valid := BitVec.allOnes 128, dirty := old.getD 0, bad := d.2 }

/-- The dirty bytes of a line of a die reach the LLC; the line stays clean (R246, R300). -/
def State.writeBack (s : State) (die line : Nat) : State :=
  match s.l2Find die line with
  | none => s
  | some l =>
    if l.dirty == 0 then s
    else
      let s := (List.range 128).foldl (fun s i =>
        if l.owed.getLsbD i then
          s.setMem (128 * line + i) [{ v := lineByte l.data i, bad := l.bad.getLsbD i }]
        else s) s
      (s.l2Set { l with dirty := 0 }).atLlc (some die) line

/-- Write back every dirty line of a die (R246 pkg). -/
def State.writeBackDie (s : State) (die : Nat) : State :=
  (s.l2.filter fun l => l.die == die && l.dirty != 0).foldl (fun s l => s.writeBack die l.line) s

/-- Every L2 that holds a line writes it back and drops it (R222). -/
def State.purgeLine (s : State) (line : Nat) : State :=
  (s.l2.filter fun l => l.line == line).foldl (fun s l => (s.writeBack l.die line).l2Drop l.die line) s
/-- A device agent writes a 64-bit word that L2s may hold: each first writes its line back and drops it (R222). -/
def State.purgePutWord (s : State) (pa : Nat) (x : Dword) : State := (s.purgeLine (pa / 128)).llcPutWord pa x

/-- A write of one line's bytes at the L2 of a die: the line becomes dirty there, marks of the die on it
break (R220, R275). -/
def State.l2Write (s : State) (die pa : Nat) (bs : List PByte) : State :=
  (linesOf pa bs.length).foldl (fun s line =>
    if (s.viewAt (128 * line)).isSome || s.channelDead (128 * line) then s
    else if s.sliceDead die line then
      let part := (List.range bs.length).filterMap fun i =>
        if (pa + i) / 128 == line then (bs[i]?).map fun b => (pa + i, b) else none
      part.foldl (fun s (p : Nat × PByte) => s.llcWrite (some die) p.1 [p.2]) (s.breakMarks line fun k => k == die)
    else
      let l := (s.l2Find die line).getD { die, line, data := 0, valid := 0, dirty := 0, bad := 0 }
      let l := (List.range bs.length).foldl (fun (l : L2Line) i =>
        if (pa + i) / 128 == line then
          let b := bs.getD i (clean 0)
          let o := (pa + i) % 128
          { l with data := setLineByte l.data o b.v, valid := l.valid ||| (1#128 <<< o),
                   dirty := l.dirty ||| (1#128 <<< o),
                   bad := if b.bad then l.bad ||| (1#128 <<< o) else l.bad &&& ~~~(1#128 <<< o) }
        else l) l
      (s.l2Set l).breakMarks line fun k => k == die) s

/-! L1 of a core (R220). -/

def Core.l1Find (c : Core) (line : Nat) : Option L1Line := c.l1.find? fun l => l.line == line
def State.l1Clear (s : State) (g : Nat) : State := s.modCore g fun c => { c with l1 := [] }
/-- A store updates a line that L1 holds and allocates none (R220). -/
def State.l1Update (s : State) (g pa : Nat) (bs : List PByte) : State :=
  let put (l : L1Line) (i : Nat) : L1Line :=
    if (pa + i) / 128 == l.line then
      let b := bs.getD i (clean 0)
      let o := (pa + i) % 128
      { l with data := setLineByte l.data o b.v,
               bad := if b.bad then l.bad ||| (1#128 <<< o) else l.bad &&& ~~~(1#128 <<< o) }
    else l
  let s := (linesOf pa bs.length).foldl (fun s l => s.texDrop g l) s
  s.modCore g fun c => { c with l1 := c.l1.map fun l => (List.range bs.length).foldl put l }
/-- The line of an address in a core's L1, filled from L2 when missing (R199, R220). -/
def State.l1Fill (s : State) (g line : Nat) : State :=
  if ((s.core g).l1Find line).isSome then s
  else
    let s := (s.texDrop g line).l2Fill (dieOf g) line
    let d := buildLine fun i => s.dieByte (dieOf g) (128 * line + i)
    s.modCore g fun c => { c with l1 := c.l1 ++ [{ line, data := d.1, bad := d.2 }] }
/-- A byte that L1 holds, else the die's. -/
def State.l1Byte (s : State) (g pa : Nat) : PByte :=
  match (s.core g).l1Find (pa / 128) with
  | some l => { v := lineByte l.data (pa % 128), bad := l.bad.getLsbD (pa % 128) }
  | none => s.dieByte (dieOf g) pa
/-- A read of n bytes through L1, lines filled on the way. -/
def State.l1Read (s : State) (g pa n : Nat) : State × List PByte :=
  let s := (linesOf pa n).foldl (fun s l => s.l1Fill g l) s
  (s, (List.range n).map fun i => s.l1Byte g (pa + i))

/-- Claim ports of a core's banks (R218); claims of cycles gone by are forgotten. -/
def State.claim (s : State) (g : Nat) (l : List (Nat × Nat)) : State :=
  s.modCore g fun c => { c with ports := (c.ports.filter fun e => s.cycle ≤ e.2) ++ l }

/-! The write buffer of a core (R269). -/

/-- The merged stores of a buffered line go to the LLC. -/
def State.wcFlushLine (s : State) (g line : Nat) : State :=
  match (s.core g).wc.find? fun l => l.line == line with
  | none => s
  | some l =>
    let s := s.modCore g fun c => { c with wc := c.wc.filter fun k => k.line != line }
    let s := s.writeBack (dieOf g) line
    let s := (s.l2Drop (dieOf g) line).l1Drop g line
    let s := (List.range 128).foldl (fun s i =>
      if l.mask.getLsbD i then s.setMem (128 * line + i) [{ v := lineByte l.data i, bad := l.bad.getLsbD i }] else s) s
    (s.breakMarks line fun k => k == dieOf g).atLlc (some (dieOf g)) line
/-- Flush the buffered lines whose classes meet a mask. -/
def State.wcFlush (s : State) (g : Nat) (classes : BitVec 16) : State :=
  ((s.core g).wc.filter fun l => l.classes &&& classes != 0).foldl (fun s l => s.wcFlushLine g l.line) s

/-! Accesses by kind of page (R269, R459). -/

/-- An uncached access first makes the issuing die and core let go of the line (R269). -/
def State.release1 (s : State) (g line : Nat) : State :=
  let s := s.wcFlushLine g line
  ((s.writeBack (dieOf g) line).l2Drop (dieOf g) line).l1Drop g line

/-- Bytes that another device gives (R459): drawn afresh for every read. -/
def State.outsideBytes (s : State) (pa n : Nat) : State × List PByte :=
  let k := s.free
  (k.2, (List.range n).map fun i => clean (if pa < 0x10000000000 then Config.hostByte k.1 (pa + i) else Config.peerByte k.1 (pa + i)))

/-! Taking a trap and returning from one (17_traps_faults_and_preemption.md R420 to R427). -/

/-- Records that fit the ring: 2^LOG2 (R422). -/
def FaultRing.cap (f : FaultRing) : Nat := 2 ^ bits f.ctl 4 0
/-- The ring is enabled, its LOG2 and its place legal (R422). -/
def State.ringUp (s : State) : Bool :=
  let l := bits s.fault.ctl 4 0
  bit s.fault.ctl 5 && 4 ≤ l && l ≤ 16 && s.inMem s.fault.base.toNat (64 * 2 ^ l)
/-- The ring has a free place: TAIL − HEAD below its capacity (R422). -/
def State.ringRoom (s : State) : Bool := s.ringUp && (s.fault.tail - s.fault.head).toNat != s.fault.cap

/-- Words 1 to 7 of record j, then word 0 (R423). -/
def FaultRec.words (r : FaultRec) : List Dword :=
  [r.region, r.ctx, r.pc, r.next, r.lanes.zeroExtend 64, r.addr, r.info]
def FaultRec.word0 (r : FaultRec) (j : Nat) : Dword :=
  BitVec.ofNat 64 (r.code.toNat + 2 ^ 8 * (r.kind % 16) + 2 ^ 16 * (r.slot % 4096)
    + (match r.sloti with | some k => 2 ^ 32 * (k % 8) + 2 ^ 35 | none => 0)
    + 2 ^ 40 * r.detail.toNat + 2 ^ 48 * ((j + 1) % 65536))

/-- Record j enters the ring: bytes 0x08 to 0x3F, then word 0, at the LLC (R424). It is open when its kind
takes actions and its wave has not been killed meanwhile, and its delivery follows (R425, R426, R427). -/
def State.writeRecord (s : State) (r : FaultRec) : State :=
  let j := s.fault.tail.toNat
  let at0 := s.fault.base.toNat + 64 * (j % s.fault.cap)
  let s := s.llcWrite none (at0 + 8) (r.words.flatMap fun w => cleanBytes 8 w.toNat)
  let s := s.llcPutWord at0 (r.word0 j)
  let s := { s with fault := { s.fault with tail := s.fault.tail + 1 } }
  if r.kind ≤ 1 && r.wave.isSome then
    let o : OpenRec := { idx := j, r, expires := none, handler := none }
    let s := { s with fault := { s.fault with opened := s.fault.opened ++ [o] } }
    let s := match r.wave with
      | some u => if r.kind == 0 then s.modWave u fun (w : Wave) => { w with c := { w.c with traprec := j } } else s
      | none => s
    s.post (.launchAccept (.handler j))
  else s

/-- Records that waited in the device enter the ring in the order in which they arose (R422). -/
def State.drainN (s : State) : Nat → State
  | 0 => s
  | n + 1 =>
    match s.fault.waiting with
    | [] => s
    | r :: t =>
      if s.ringRoom then
        (({ s with fault := { s.fault with waiting := t } }).writeRecord r).drainN n
      else s
def State.drainFaults (s : State) : State := s.drainN s.fault.waiting.length

/-- A record arises: it waits its turn for the ring. -/
def State.report (s : State) (r : FaultRec) : State :=
  ({ s with fault := { s.fault with waiting := s.fault.waiting ++ [r] } }).drainFaults

/-- A wave stops: every thread keeps its state and its PC, its surveyor stops with it (R420). -/
def State.stopWave (s : State) (u : Nat) : State :=
  let pair := (s.wave? u).bind fun w => if w.surveyor then none else w.pair
  { s with waves := s.waves.map fun (w : Wave) =>
      if w.uid == u || pair == some w.uid then { w with c := { w.c with stopped := true } } else w }

/-- Taking a trap: the wave stops and the record of the trap is handed on (R420, R421, R422). A stopped wave
raises no further trap. -/
def State.takeTrap (s : State) (r : FaultRec) : State :=
  match r.wave with
  | none => s.report r
  | some u =>
    if (s.wave? u).any fun w => !w.c.stopped then (s.stopWave u).report r else s

/-- Record j is closed; a write of FAULT_ACT that waited for it has nothing left to apply (R426). -/
def State.closeRec (s : State) (j : Nat) : State :=
  { s with fault := { s.fault with opened := s.fault.opened.filter fun o => o.idx != j },
           lateWr := s.lateWr.filter fun e => !(e.srn == 0x014 && bits e.value 63 8 == j) }

/-! Requests that a full queue holds back (R445, R519). -/

/-- The queue of SWITCH_REQ or SERVICE_REQ takes no further request. -/
def State.reqFull (s : State) (srn : Nat) : Bool :=
  if srn == 0x070 then 16 ≤ s.sw.queue.length else 4 ≤ s.life.serviceQ.length
/-- A request enters its queue. -/
def State.reqPut (s : State) (srn : Nat) (x : Dword) : State :=
  let a := x &&& 0x000FFFFFFFFFFFC0#64
  if srn == 0x070 then { s with sw := { s.sw with queue := s.sw.queue ++ [(a, none)] } }
  else { s with life := { s.life with serviceQ := s.life.serviceQ ++ [a] } }
/-- A write of SWITCH_REQ or SERVICE_REQ by a wave, or by the control node: it completes when a place is free. -/
def State.reqWrite (s : State) (wave : Option Nat) (srn : Nat) (x : Dword) : State :=
  if s.reqFull srn then { s with lateWr := s.lateWr ++ [{ wave, srn, value := x }] } else s.reqPut srn x
/-- Places have become free: the writes that waited complete in their order. -/
def State.drainReqs (s : State) : State :=
  s.lateWr.foldl (fun s e =>
    if e.srn == 0x014 || s.reqFull e.srn then { s with lateWr := s.lateWr ++ [e] } else s.reqPut e.srn e.value)
    { s with lateWr := [] }

/-- The record of a trap belongs to a wave. -/
def State.hasOwnTrap (s : State) (u : Nat) : Bool :=
  s.fault.opened.any (fun o => o.r.kind == 0 && o.r.wave == some u)
    || s.fault.waiting.any (fun r => r.kind == 0 && r.wave == some u)

/-- The waves of a wave's group that stand still without a trap of their own or of their pair go on: its surveyor, which
stopped with it (R420), and the waves that a switch out stopped because this one's writeback failed (R446). -/
def State.fellowsGoOn (s : State) (u : Nat) : State :=
  match s.wave? u with
  | none => s
  | some w =>
    let own (v : Wave) : Bool := s.hasOwnTrap v.uid || v.pair.any fun p => s.hasOwnTrap p
    { s with waves := s.waves.map fun (v : Wave) =>
        if v.group == w.group && v.c.stopped && !own v then { v with c := { v.c with stopped := false } } else v }
/-- Returning from a trap: the wave issues again, its watchdog count cleared; `f` gives each thread the PC it
goes on from (R427). -/
def State.resumeWave (s : State) (u : Nat) (f : Fin 32 → Dword → Dword) : State :=
  let s := s.modWave u fun (w : Wave) =>
    { w with threads := Vector.ofFn fun i => { w.threads.get i with pc := f i (w.threads.get i).pc },
             c := { w.c with stopped := false, traprec := 0, wdog := 0, abandoned := false } }
  s.fellowsGoOn u

end Sys2Proof.Machine
end

