-- ==== Sys2Proof/Machine/Flags.lean ====
section
/-! DEFINITION. Number formats, the sticky flags, rounding and the stochastic generator
(05_number_formats.md R132 to R153): every floating-point result of the machine goes through `roundTo`. -/
namespace Sys2Proof.Machine
open Sys2Proof

/-! Formats (R133). -/

/-- A binary floating-point format: exponent and fraction widths, bias, the encoding of its largest finite
magnitude, and whether it has infinities. -/
structure Fm where
  ew : Nat
  fw : Nat
  bias : Nat
  top : Nat
  infs : Bool
  deriving DecidableEq, Repr

def fmF32 : Fm := { ew := 8, fw := 23, bias := 127, top := 0x7F7FFFFF, infs := true }
def fmF16 : Fm := { ew := 5, fw := 10, bias := 15, top := 0x7BFF, infs := true }
def fmBf16 : Fm := { ew := 8, fw := 7, bias := 127, top := 0x7F7F, infs := true }
def fmE4m3 : Fm := { ew := 4, fw := 3, bias := 7, top := 0x7E, infs := false }
def fmE5m2 : Fm := { ew := 5, fw := 2, bias := 15, top := 0x7B, infs := true }

/-- The floating-point format of a type (R50, R133). -/
def fmOf : Ty → Option Fm
  | .f16 => some fmF16 | .bf16 => some fmBf16 | .f32 => some fmF32 | .e4m3 => some fmE4m3 | .e5m2 => some fmE5m2
  | _ => none

def Fm.width (f : Fm) : Nat := 1 + f.ew + f.fw
def Fm.emin (f : Fm) : Int := 1 - (f.bias : Int)
/-- The magnitude bits of an infinity, or of the canonical NaN where a format has none (R135). -/
def Fm.infBits (f : Fm) : Nat := (2 ^ f.ew - 1) * 2 ^ f.fw
/-- The canonical NaN (R135). -/
def Fm.nan (f : Fm) : Nat := if f.infs then f.infBits + 2 ^ (f.fw - 1) else 0x7F
def Fm.signBit (f : Fm) (neg : Bool) : Nat := if neg then 2 ^ (f.ew + f.fw) else 0

/-! Values (R134, R136). -/

/-- What an encoding stands for: a number keeps its sign bit beside its value, which decides zeros. -/
inductive FVal where
  | nan
  | inf (neg : Bool)
  | num (neg : Bool) (x : Rat)
  deriving DecidableEq, Repr

/-- 2^e for an integer e. -/
def pow2 (e : Int) : Rat := if 0 ≤ e then ((2 ^ e.toNat : Nat) : Rat) else mkRat 1 (2 ^ (-e).toNat)

/-- The meaning of an encoding (R134); `fz` reads a subnormal as a zero of its sign (R147). -/
def Fm.read (f : Fm) (fz : Bool) (b : Nat) : FVal :=
  let neg := b / 2 ^ (f.ew + f.fw) % 2 == 1
  let e := b / 2 ^ f.fw % 2 ^ f.ew
  let m := b % 2 ^ f.fw
  if e == 2 ^ f.ew - 1 && (f.infs || m == 2 ^ f.fw - 1) then
    if m == 0 then .inf neg else .nan
  else
    let mag : Rat :=
      if e == 0 then (if fz then 0 else ((m : Nat) : Rat) * pow2 (f.emin - f.fw))
      else ((2 ^ f.fw + m : Nat) : Rat) * pow2 ((e : Int) - f.bias - f.fw)
    .num neg (if neg then -mag else mag)

/-! The stochastic generator and the numeric context (R143, R148). -/

/-- `Draw()` (R143). -/
def Stoch.draw (st : Stoch) : Word × Stoch :=
  let w := if st.x == 0 && st.y == 0 && st.z == 0 && st.w == 0 then 0x6A09E667#32 else st.w
  let t := st.x ^^^ (st.x <<< 11)
  let n := w ^^^ (w >>> 19) ^^^ t ^^^ (t >>> 8)
  (n, { x := st.y, y := st.z, z := w, w := n })

/-- What a numeric operation carries along: the flags it raised and the generator. -/
structure NumCtx where
  flags : BitVec 5
  st : Stoch
  deriving DecidableEq, Repr

def fNV : BitVec 5 := 1
def fDZ : BitVec 5 := 2
def fOF : BitVec 5 := 4
def fUF : BitVec 5 := 8
def fNX : BitVec 5 := 16
def NumCtx.raise (c : NumCtx) (f : BitVec 5) : NumCtx := { c with flags := c.flags ||| f }

/-- Rounding modes (R84, R140). -/
inductive Rm where
  | rne | rtz | rdn | rup | rst
  deriving DecidableEq, Repr

/-- The mode of a MODE.RM value; 5 to 7 are never held (R84). -/
def rmOf : Nat → Rm
  | 1 => .rtz | 2 => .rdn | 3 => .rup | 4 => .rst | _ => .rne

/-- One draw when the mode is stochastic, else a word that is not used (R140, R144). -/
def NumCtx.drawIf (c : NumCtx) (md : Rm) : Word × NumCtx :=
  if md == .rst then let d := c.st.draw; (d.1, { c with st := d.2 }) else (0, c)

/-- Floor(Log2(a)) of a positive rational. -/
def floorLog2 (a : Rat) : Int :=
  let k : Int := (a.num.natAbs.log2 : Int) - (a.den.log2 : Int)
  if a < pow2 k then k - 1 else k

/-- The choice between a multiple of the spacing and the next (R140): `n` is the floor of a/q, `frac` the
rest, below 1. -/
def roundUp (md : Rm) (neg : Bool) (r : Word) (n : Nat) (frac : Rat) : Bool :=
  if frac == 0 then false
  else match md with
    | .rne => decide (1 < 2 * frac) || (decide (2 * frac = 1) && n % 2 == 1)
    | .rtz => false
    | .rdn => neg
    | .rup => !neg
    | .rst => decide ((r.toNat : Int) < (frac * 4294967296).floor)

/-- RoundTo without its draw: the encoding and the flags raised for a nonzero real (R140, R141). -/
def Fm.round (f : Fm) (md : Rm) (fz : Bool) (r : Word) (x : Rat) : Nat × BitVec 5 :=
  let neg := decide (x < 0)
  let a := if neg then -x else x
  if a == 0 then (0, 0)
  else if fz && decide (a < pow2 f.emin) then (f.signBit neg, fUF ||| fNX)
  else
    let e := max (floorLog2 a) f.emin
    let u := a * pow2 ((f.fw : Int) - e)
    let n := u.floor.toNat
    let frac := u - u.floor
    let k := if roundUp md neg r n frac then n + 1 else n
    let tiny := decide (a < pow2 f.emin)
    let inexact := frac != 0
    let fl := (if inexact then fNX else 0) ||| (if inexact && tiny then fUF else 0)
    let bits := if k < 2 ^ f.fw then k else (e + f.bias - 1).toNat * 2 ^ f.fw + k
    if f.top < bits then
      let toInf := match md with | .rne | .rst => true | .rtz => false | .rdn => neg | .rup => !neg
      (f.signBit neg + (if f.infs && toInf then f.infBits else f.top), fOF ||| fNX)
    else (f.signBit neg + bits, fl)

/-- RoundTo (R140): one draw per call under rst; a zero takes the sign given (R142). -/
def NumCtx.roundTo (c : NumCtx) (f : Fm) (md : Rm) (fz : Bool) (zneg : Bool) (x : Rat) : NumCtx × Nat :=
  let d := c.drawIf md
  if x == 0 then (d.2, f.signBit zneg)
  else
    let r := f.round md fz d.1 x
    (d.2.raise r.2, r.1)

/-- The draw that is made where a special value decides (R144). -/
def NumCtx.skip (c : NumCtx) (md : Rm) : NumCtx := (c.drawIf md).2

/-- The canonical NaN, its rounding's draw made. -/
def NumCtx.putNan (c : NumCtx) (f : Fm) (md : Rm) (fl : BitVec 5) : NumCtx × Nat := ((c.skip md).raise fl, f.nan)
/-- An infinite result: e4m3 has none and gives NaN with NV (R141). -/
def NumCtx.putInf (c : NumCtx) (f : Fm) (md : Rm) (neg : Bool) (fl : BitVec 5) : NumCtx × Nat :=
  if f.infs then ((c.skip md).raise fl, f.signBit neg + f.infBits) else ((c.skip md).raise (fl ||| fNV), f.nan)

/-- The sign of a zero that an exact sum of two terms leaves (R142). -/
def zeroSum (md : Rm) (n1 n2 : Bool) (z1 z2 : Bool) : Bool :=
  if z1 && z2 && n1 == n2 then n1 else md == .rdn

/-- The sum of exact terms (R152, R153): each term is a value; a product term that was 0 × ∞ stands as
`none`. The sign of an exact zero comes from all terms being zeros of one sign, else from R142. -/
def NumCtx.sumTo (c : NumCtx) (f : Fm) (md : Rm) (fz : Bool) (nanIn : Bool) (ts : List (Option FVal)) :
    NumCtx × Nat :=
  if nanIn || ts.any (fun t => t == some .nan) then c.putNan f md 0
  else if ts.any (fun t => t == none) then c.putNan f md fNV
  else
    let pos := ts.any fun t => t == some (.inf false)
    let ngt := ts.any fun t => t == some (.inf true)
    if pos && ngt then c.putNan f md fNV
    else if pos || ngt then c.putInf f md ngt 0
    else
      let nums := ts.filterMap fun t => match t with | some (.num n x) => some (n, x) | _ => none
      let x := nums.foldl (fun a (t : Bool × Rat) => a + t.2) (0 : Rat)
      let zn :=
        if nums.all (fun t => t.2 == 0 && t.1) then true
        else if nums.all (fun t => t.2 == 0 && !t.1) then false
        else md == .rdn
      c.roundTo f md fz zn x

/-- An exact product: none for 0 × ∞ (R152). -/
def fmul (a b : FVal) : Option FVal :=
  match a, b with
  | .nan, _ | _, .nan => some .nan
  | .inf m, .inf n => some (.inf (m != n))
  | .inf m, .num n x => if x == 0 then none else some (.inf (m != n))
  | .num n x, .inf m => if x == 0 then none else some (.inf (m != n))
  | .num m x, .num n y => some (.num (m != n) (x * y))

/-- A sign change. -/
def FVal.negate : FVal → FVal
  | .nan => .nan
  | .inf n => .inf (!n)
  | .num n x => .num (!n) (-x)

/-- The value is NaN. -/
def FVal.isNan : FVal → Bool
  | .nan => true
  | _ => false

/-! Integers from numbers (R150, R151). -/

/-- RoundInt (R150): spacing 1, no flush and no overflow. -/
def roundInt (x : Rat) (md : Rm) (r : Word) : Int :=
  let neg := decide (x < 0)
  let a := if neg then -x else x
  let n := a.floor.toNat
  let k := if roundUp md neg r n (a - a.floor) then n + 1 else n
  if neg then -(k : Int) else (k : Int)

/-- Range of an N-bit integer. -/
def intLo (n : Nat) (sg : Bool) : Int := if sg then -(2 ^ (n - 1) : Int) else 0
def intHi (n : Nat) (sg : Bool) : Int := if sg then 2 ^ (n - 1) - 1 else 2 ^ n - 1

/-- ConvertToInt (R150). -/
def NumCtx.toInt (c : NumCtx) (x : FVal) (n : Nat) (sg : Bool) (md : Rm) : NumCtx × Int :=
  let d := c.drawIf md
  let lo := intLo n sg
  let hi := intHi n sg
  match x with
  | .nan => (d.2.raise fNV, 0)
  | .inf neg => (d.2.raise fNV, if neg then lo else hi)
  | .num _ v =>
    let m := roundInt v md d.1
    if m < lo || hi < m then (d.2.raise fNV, saturate m lo hi)
    else (if (m : Rat) == v then d.2 else d.2.raise fNX, m)

/-- Quantise (R151): to depth b under scale byte E. -/
def NumCtx.quantise (c : NumCtx) (x : FVal) (b : Nat) (e : Nat) (md : Rm) : NumCtx × Int :=
  let d := c.drawIf md
  let lo := intLo b true
  let hi := intHi b true
  if e == 255 || x.isNan then (d.2.raise fNV, 0)
  else match x with
    | .nan => (d.2.raise fNV, 0)
    | .inf neg => (d.2.raise fNV, if neg then lo else hi)
    | .num _ v =>
      let u := v * pow2 (127 - (e : Int) + (b - 1 : Nat))
      let m := roundInt u md d.1
      if m < lo || hi < m then (d.2.raise (fOF ||| fNX), saturate m lo hi)
      else (if (m : Rat) == u then d.2 else d.2.raise fNX, m)

/-- The conversion of a value to a floating-point format (R149). -/
def NumCtx.convTo (c : NumCtx) (f : Fm) (md : Rm) (fz : Bool) (x : FVal) : NumCtx × Nat :=
  match x with
  | .nan => c.putNan f md 0
  | .inf n => c.putInf f md n 0
  | .num n v => c.roundTo f md fz n v

/-- Signed value of the low n bits of x. -/
def sInt (n x : Nat) : Int := let y := x % 2 ^ n; if y < 2 ^ (n - 1) then (y : Int) else (y : Int) - 2 ^ n
/-- Trunc (R12): the low n bits of an integer. -/
def truncN (n : Nat) (x : Int) : Nat := (x % (2 ^ n : Int)).toNat
/-- `IV` of an element (R158). -/
def iv (t : Ty) (x : Nat) : Int := if t.signed then sInt t.width x else ((x % 2 ^ t.width : Nat) : Int)

/-- FZ of a format: FZ32 governs f32 and bf16, FZ16 governs f16, the 8-bit formats are never flushed (R147). -/
def fzOf (mode : BitVec 5) (t : Ty) : Bool :=
  match t with
  | .f32 | .bf16 => bit mode 3
  | .f16 => bit mode 4
  | _ => false
/-- The mode that MOD selects (R51, R84). -/
def modeOf (mode : BitVec 5) (md : Mod) : Rm := if md == 0 then rmOf (bits mode 2 0) else rmOf (md.toNat - 1)

end Sys2Proof.Machine
end

