-- ==== Sys2Proof/Machine/Funcs.lean ====
section
/-! DEFINITION. Correctly rounded functions (06_vector_and_wave_instructions.md R179): each irrational value
is enclosed between two rationals whose roundings agree, with more bits until they do. -/
namespace Sys2Proof.Machine
open Sys2Proof

/-- An enclosure of a real. -/
structure Encl where
  lo : Rat
  hi : Rat
  deriving DecidableEq, Repr

/-- Integer square root of n, given that it lies below 2^k: one bit at a time. -/
def isqrtBits (n : Nat) : Nat → Nat → Nat
  | 0, r => r
  | k + 1, r => let t := r + 2 ^ k; isqrtBits n k (if t * t ≤ n then t else r)
def isqrt (n : Nat) : Nat := isqrtBits n (n.log2 / 2 + 1) 0

/-- A scaled integer as a rational: x · 2^−p. -/
def scaled (p : Nat) (x : Int) : Rat := mkRat x (2 ^ p)

/-- Σ z^(2k+1)/(2k+1) for z = num/den at most 1/3, scaled by 2^p and low by at most 3n + 3; `alt` alternates
the signs, so the error is then either way. -/
def oddSeries (p num den : Nat) (alt : Bool) : Nat → Nat → Nat → Int → Int
  | 0, _, _, acc => acc
  | n + 1, k, t, acc =>
    let u : Int := ((t / (2 * k + 1) : Nat) : Int)
    oddSeries p num den alt n (k + 1) (t * num * num / (den * den)) (if alt && k % 2 == 1 then acc - u else acc + u)

/-- atanh or atan of a small fraction, scaled, with its error bound. -/
def oddFun (p num den : Nat) (alt : Bool) : Int × Nat :=
  let n := p / 3 + 4
  (oddSeries p num den alt n 0 (2 ^ p * num / den) 0, 3 * n + 3)

/-- ln 2 scaled: an integer interval. -/
def ln2Fix (p : Nat) : Int × Int := let a := oddFun p 1 3 false; (2 * a.1, 2 * (a.1 + a.2))
/-- π scaled: an integer interval. -/
def piFix (p : Nat) : Int × Int :=
  let a := oddFun p 1 5 true
  let b := oddFun p 1 239 true
  (16 * (a.1 - a.2) - 4 * (b.1 + b.2), 16 * (a.1 + a.2) - 4 * (b.1 - b.2))

/-- Σ y^k/k! scaled, for a scaled y. -/
def expSeries (p : Nat) (y : Int) : Nat → Nat → Int → Int → Int
  | 0, _, _, acc => acc
  | n + 1, k, t, acc => expSeries p y n (k + 1) (t * y / (2 ^ p * ((k : Int) + 1))) (acc + t)
/-- e^y for a scaled interval inside [0, 1]. -/
def expFix (p : Nat) (y : Int × Int) : Int × Int :=
  let n := p / 2 + 8
  let s := expSeries p y.1 n 0 (2 ^ p) 0
  (s - 3, s + 3 * n + 6 * (y.2 - y.1) + 6)

/-- Σ (−1)^k y^(2k+1)/(2k+1)! scaled. -/
def sinSeries (p : Nat) (y : Int) : Nat → Nat → Int → Int → Int
  | 0, _, _, acc => acc
  | n + 1, k, t, acc =>
    sinSeries p y n (k + 1) (-(t * y / 2 ^ p * y / (2 ^ p * ((2 * (k : Int) + 2) * (2 * k + 3))))) (acc + t)

/-- √x, exact when rational. -/
def sqrtEncl (p : Nat) (x : Rat) : Encl :=
  let a := isqrt x.num.natAbs
  let b := isqrt x.den
  if a * a == x.num.natAbs && b * b == x.den then { lo := mkRat a b, hi := mkRat a b }
  else
    let r := isqrt (x.num.natAbs * 4 ^ p / x.den)
    { lo := scaled p r, hi := scaled p (r + 1) }

/-- A scaled enclosure of c · x for a scaled interval c and a rational x that is not negative. -/
def scaleBy (c : Int × Int) (x : Rat) : Int × Int :=
  ((mkRat c.1 1 * x).floor, (mkRat c.2 1 * x).floor + 1)

/-- 2^x; arguments past ±300 stand for any beyond every format's range. -/
def exp2Encl (p : Nat) (x : Rat) : Encl :=
  let x := if 300 < x then 300 + mkRat 1 3 else if x < -300 then -300 - mkRat 1 3 else x
  let n := x.floor
  let f := x - n
  if f == 0 then { lo := pow2 n, hi := pow2 n }
  else
    let e := expFix p (scaleBy (ln2Fix p) f)
    { lo := scaled p e.1 * pow2 n, hi := scaled p e.2 * pow2 n }

/-- log₂ x for a positive x. -/
def log2Encl (p : Nat) (x : Rat) : Encl :=
  let k := floorLog2 x
  let m := x * pow2 (-k)
  if m == 1 then { lo := k, hi := k }
  else
    let z := (m - 1) / (m + 1)
    let a := oddFun p z.num.natAbs z.den false
    let l := ln2Fix p
    { lo := k + mkRat (2 * a.1) 1 / mkRat l.2 1, hi := k + mkRat (2 * (a.1 + a.2)) 1 / mkRat l.1 1 }

/-- sin(π·x), exact where 2x is integral. -/
def sinPiEncl (p : Nat) (x : Rat) : Encl :=
  let r := x - 2 * ((x / 2).floor : Rat)
  let neg := decide (1 ≤ r)
  let r := if neg then r - 1 else r
  let r := if 1 - r < r then 1 - r else r
  if r == 0 then { lo := 0, hi := 0 }
  else if r == mkRat 1 2 then (if neg then { lo := -1, hi := -1 } else { lo := 1, hi := 1 })
  else
    let y := scaleBy (piFix p) r
    let n := p / 2 + 8
    let s := sinSeries p y.1 n 0 y.1 0
    let e : Int := 4 * n + (y.2 - y.1) + 4
    if neg then { lo := scaled p (-(s + e)), hi := scaled p (-(s - e)) } else { lo := scaled p (s - e), hi := scaled p (s + e) }

/-- tanh x; past ±300 the value lies within 2^−800 of ±1. -/
def tanhEncl (p : Nat) (x : Rat) : Encl :=
  let neg := decide (x < 0)
  let a := if neg then -x else x
  let a := if 300 < a then 300 else a
  let y := 2 * a
  let l := ln2Fix p
  let n := (mkRat (2 ^ p : Int) 1 * y / mkRat l.2 1).floor.toNat
  let lo0 : Int := (mkRat (2 ^ p : Int) 1 * y).floor - l.2 * n
  let hi0 : Int := (mkRat (2 ^ p : Int) 1 * y).floor + 1 - l.1 * n
  let e := expFix p (if lo0 < 0 then 0 else lo0, hi0)
  let el := scaled p e.1 * pow2 n
  let eh := scaled p e.2 * pow2 n
  let tl := 1 - 2 / (el + 1)
  let th := 1 - 2 / (eh + 1)
  if neg then { lo := -th, hi := -tl } else { lo := tl, hi := th }

/-- Precisions tried, in bits. -/
def precisions : List Nat := [192, 512, 1280, 3000]

/-- The rounding of an enclosed real: the first precision at which both ends round alike. -/
def roundEncl (f : Fm) (md : Rm) (fz : Bool) (r : Word) (g : Nat → Encl) : List Nat → Nat × BitVec 5
  | [] => (f.nan, 0)
  | [p] => f.round md fz r (g p).lo
  | p :: ps =>
    let e := g p
    let a := f.round md fz r e.lo
    if e.lo == e.hi || (decide (e.lo * e.hi > 0) && a == f.round md fz r e.hi) then a else roundEncl f md fz r g ps

/-- A function value rounded once, with its draw (R179); an exact zero takes the sign given. -/
def NumCtx.fnTo (c : NumCtx) (f : Fm) (md : Rm) (fz : Bool) (zneg : Bool) (g : Nat → Encl) : NumCtx × Nat :=
  let d := c.drawIf md
  let e := g 192
  if e.lo == 0 && e.hi == 0 then (d.2, f.signBit zneg)
  else
    let r := roundEncl f md fz d.1 g precisions
    (d.2.raise r.2, r.1)

/-- The functions of the V1 slot (R179). -/
inductive Fn where
  | rcp | rsq | sqrt | exp2 | log2 | sin | cos | tanh
  deriving DecidableEq, Repr

/-- The special values of R179, then the rounded function. -/
def NumCtx.fn (c : NumCtx) (k : Fn) (f : Fm) (md : Rm) (fz : Bool) (x : FVal) : NumCtx × Nat :=
  match x with
  | .nan => c.putNan f md 0
  | .inf n =>
    match k with
    | .rcp => (c.skip md, f.signBit n)
    | .rsq => if n then c.putNan f md fNV else (c.skip md, 0)
    | .sqrt | .log2 => if n then c.putNan f md fNV else c.putInf f md false 0
    | .exp2 => if n then (c.skip md, 0) else c.putInf f md false 0
    | .sin | .cos => c.putNan f md fNV
    | .tanh => c.roundTo f md fz n (if n then -1 else 1)
  | .num n v =>
    match k with
    | .rcp => if v == 0 then c.putInf f md n fDZ else c.roundTo f md fz n (1 / v)
    | .rsq =>
      if v == 0 then c.putInf f md n fDZ else if n then c.putNan f md fNV
      else c.fnTo f md fz false fun p => sqrtEncl p (1 / v)
    | .sqrt =>
      if v == 0 then (c.skip md, f.signBit n) else if n then c.putNan f md fNV
      else c.fnTo f md fz false fun p => sqrtEncl p v
    | .exp2 => c.fnTo f md fz false fun p => exp2Encl p v
    | .log2 =>
      if v == 0 then c.putInf f md true fDZ else if n then c.putNan f md fNV
      else c.fnTo f md fz false fun p => log2Encl p v
    | .sin => if v == 0 then (c.skip md, f.signBit n) else c.fnTo f md fz n fun p => sinPiEncl p v
    | .cos => c.fnTo f md fz false fun p => sinPiEncl p (v + mkRat 1 2)
    | .tanh => if v == 0 then (c.skip md, f.signBit n) else c.fnTo f md fz n fun p => tanhEncl p v

end Sys2Proof.Machine
end

