-- ==== Sys2Proof/Machine/Access.lean ====
section
/-! DEFINITION. Translation of virtual addresses (07_storage_and_translation.md R231 to R237), the hub
window (19_package_fabric_and_collectives.md R460), and the accesses that threads, engines and hub agents
make at a physical address (09_memory_instructions.md R269, 19 R459). -/
namespace Sys2Proof.Machine
open Sys2Proof

/-! Walks (R231 to R236). -/

/-- How a walk ends. -/
inductive Tr where
  | ok (e : TlbEntry)
  | malformed
  | unmapped
  | absent (line : Nat)
  deriving DecidableEq, Repr

/-- A 64-bit table word as a walker of a die, or of the hub, reads it, and whether it may be used. -/
def State.walkWord (s : State) (die : Option Nat) (pa : Nat) : Dword × Bool :=
  let bs := match die with
    | some d => s.dieBytes d pa 8
    | none => s.llcBytes pa 8
  (BitVec.ofNat 64 (natOf bs), s.inMem pa 8 && !anyBad bs)

/-- A valid entry is malformed (R233). -/
def pteMalformed (level : Nat) (e : Dword) : Bool :=
  let leaf := bit e 1
  let pa := bits e 51 12
  (leaf && level == 4) || (!leaf && level == 1) || bit e 8 || bits e 11 10 != 0 || bits e 55 52 != 0
    || bits e 7 6 == 3 || (bit e 5 && level != 1)
    || (leaf && ((level == 3 && pa % 262144 != 0) || (level == 2 && pa % 512 != 0)))

/-- Pages below a leaf of a level, in units of 4 KiB. -/
def leafPages (level : Nat) : Nat := if level == 3 then 262144 else if level == 2 then 512 else 1

/-- The sixteen entries of a 64 KiB group agree (R233). -/
def State.c64Ok (s : State) (die : Option Nat) (base : Nat) : Bool :=
  let e0 := (s.walkWord die base).1
  bits e0 51 12 % 16 == 0 && (List.range 16).all fun k =>
    let e := s.walkWord die (base + 8 * k)
    e.2 && bit e.1 0 && bit e.1 1 && bit e.1 5 && !pteMalformed 1 e.1
      && bits e.1 7 0 == bits e0 7 0 && bits e.1 51 12 == bits e0 51 12 + k

/-- The translation that a leaf gives to a page. -/
def leafEntry (slot vpage pa pages : Nat) (e : Dword) : TlbEntry :=
  { slot, vpage, pa, w := bit e 2, x := bit e 3, u := bit e 4, mt := bits e 7 6, pages }

/-- A level-1 group of which some entry has C64 set and which does not form a 64 KiB page (R233). -/
def State.c64Broken (s : State) (die : Option Nat) (base : Nat) : Bool :=
  !s.c64Ok die base && (List.range 16).any fun k =>
    let e := s.walkWord die (base + 8 * k)
    e.2 && bit e.1 0 && bit e.1 1 && bit e.1 5
/-- The first entry of a broken group read as a 64 KiB page, for page k of it; none where it is not valid. It is malformed
as any entry is, and is not asked for C64 or for an aligned base (R233, log entry 104). -/
def State.firstEntry (s : State) (die : Option Nat) (slot vpage base k : Nat) : Option Tr :=
  let e := s.walkWord die base
  if !e.2 then some .malformed
  else if !bit e.1 0 then none
  else if pteMalformed 1 e.1 then some .malformed
  else some (.ok (leafEntry slot vpage (4096 * (bits e.1 51 12 + k)) 16 e.1))
/-- The walk below a table (R233); `first` is the device's choice for each page of a broken 64 KiB group. -/
def State.walkFrom (s : State) (die : Option Nat) (slot vpage : Nat) (first : Bool) : Nat → Nat → Tr
  | 0, _ => .malformed
  | level + 1, table =>
    let l := level + 1
    let idx := if l == 4 then vpage / 134217728 % 131072 else vpage / 512 ^ level % 512
    let ea := table + 8 * idx
    let e := s.walkWord die ea
    let group := table + 8 * (idx / 16 * 16)
    let byFirst := if l == 1 && first && s.c64Broken die group then s.firstEntry die slot vpage group (idx % 16) else none
    if byFirst.isSome then byFirst.getD .unmapped
    else if !e.2 then .malformed
    else if !bit e.1 0 then (if bit e.1 9 then .absent (ea / 128) else .unmapped)
    else if pteMalformed l e.1 then .malformed
    else if bit e.1 1 then
      .ok (leafEntry slot vpage (4096 * (bits e.1 51 12 + vpage % leafPages l))
        (if bit e.1 5 && s.c64Ok die group then 16 else leafPages l) e.1)
    else s.walkFrom die slot vpage first level (4096 * bits e.1 51 12)

/-- The walk of a context slot (R231, R233). A disabled slot and a bad slot entry end malformed. -/
def State.walk (s : State) (die : Option Nat) (slot : Nat) (vpage : Nat) (first : Bool) : Tr :=
  let ea := s.sys.ctxTable.toNat + 16 * slot
  let e := s.walkWord die ea
  let f := s.walkWord die (ea + 8)
  if !e.2 || !f.2 || f.1 != 0 || bits e.1 11 1 != 0 || bits e.1 63 52 != 0 || !bit e.1 0
      || !s.inMem (4096 * bits e.1 51 12) 1 then .malformed
  else s.walkFrom die slot vpage first 4 (4096 * bits e.1 51 12)

/-- The walk as the device makes it: where a broken 64 KiB group leaves two outcomes, a free one (R233). -/
def State.walkAny (s : State) (die : Option Nat) (slot vp : Nat) : State × Tr :=
  let a := s.walk die slot vp false
  let b := s.walk die slot vp true
  if a == b then (s, a) else (s.free.2, if Config.c64First s.free.1 then b else a)

/-- A translation by a core, kept in its translation cache when valid; a hub agent keeps none. Where the
tables no longer give what the cache holds, each access uses the one or the other freely (R236). -/
def State.translate (s : State) (g : Option Nat) (slot : Nat) (va : Nat) : State × Tr :=
  let vp := va / 4096
  let w := s.walkAny (g.map dieOf) slot vp
  match g with
  | none => w
  | some g =>
    match (s.core g).tlb.find? fun e => e.slot == slot && e.vpage == vp with
    | some e =>
      if w.2 == .ok e then w
      else (w.1.free.2, if Config.newTable w.1.free.1 then w.2 else .ok e)
    | none =>
      match w.2 with
      | .ok e => (w.1.modCore g fun c => { c with tlb := c.tlb ++ [e] }, w.2)
      | _ => w

/-! The hub window (R460, R465, R480, R481). -/

/-- Slots of a stop that flits take: private slots of either channel, pool slots, escape slots (R461). -/
def State.ringUse (s : State) (g : Nat) : Nat × Nat × Nat × Nat :=
  ((s.fab.packets.filter fun p => p.cluster == clusterOf g).flatMap fun p => p.flits).foldl
    (fun (u : Nat × Nat × Nat × Nat) f =>
      match f.place with
      | .slot st vc pool =>
        if st != stopOf g then u
        else if pool then (u.1, u.2.1, u.2.2.1 + 1, u.2.2.2)
        else if vc == 0 then (u.1 + 1, u.2) else (u.1, u.2.1 + 1, u.2.2)
      | .escape st => if st == stopOf g then (u.1, u.2.1, u.2.2.1, u.2.2.2 + 1) else u
      | _ => u) (0, 0, 0, 0)

/-- RING_STAT of a stop (R465). -/
def State.ringStat (s : State) (g : Nat) : Dword :=
  let st := s.stop g
  let u := if st.useAt == s.cycle + 1 then st.use else s.ringUse g
  let sched := (s.section (clusterOf g)).t0.isSome
  BitVec.ofNat 64 ((16 - u.2.2.1) + 2 ^ 5 * (4 - u.1) + 2 ^ 8 * (4 - u.2.1) + 2 ^ 11 * (2 - u.2.2.2)
    + 2 ^ 13 * (if sched then 1 else 0) + 2 ^ 16 * min st.sdrop 65535 + 2 ^ 32 * (st.escin % 65536)
    + 2 ^ 48 * (st.norcv % 65536))

/-- A register of the hub window at a byte offset from its base; zero where none lies (R460). -/
def State.hubRead (s : State) (o : Nat) : Dword :=
  if o % 8 != 0 then 0
  else if o < 8 * 768 then s.ringStat (o / 8)
  else if 0x100000 ≤ o && o < 0x101000 then
    let q := s.queue ((o - 0x100000) / 64)
    match (o % 64) / 8 with
    | 0 => q.base
    | 1 => q.ctl
    | 2 => q.cpl
    | 3 => BitVec.ofNat 64 (q.next % 2 ^ 32 + 2 ^ 32 * min q.stale 65535)
    | _ => 0
  else if 0x200000 ≤ o && o < 0x200400 then
    let p := s.peer ((o - 0x200000) / 64)
    match (o % 64) / 8 with
    | 0 => BitVec.ofNat 64 ((if p.en then 1 else 0) + (if p.link then 2 else 0) + (if p.coll then 4 else 0))
    | 1 => p.win
    | 2 => p.lim
    | _ => 0
  else if o == 0x300000 then s.hub.devId.zeroExtend 64
  else 0

/-- Bits [51:12] of a value: a page address (R481). -/
def pageBits (x : Dword) : Dword := x &&& 0x000FFFFFFFFFF000#64

/-- Bits of a value kept by a register. -/
def keepBits (x : Dword) (hi lo : Nat) : Dword := BitVec.ofNat 64 (bits x hi lo * 2 ^ lo)

/-- A write of CQ_BASE, CQ_CTL or CQ_CPL, numbered 0 to 2 (R480). A disabled queue that is written with EN = 1 and a LOG2 outside
its limits keeps EN at 0 and its NEXT (DESIGN CHOICE, log entry 115). -/
def State.cqWrite (s : State) (q r : Nat) (x : Dword) : State :=
  let q := s.queue q
  let en := bit q.ctl 0
  match r with
  | 0 => if en then s else s.setQueue { q with base := keepBits x 51 12 }
  | 1 =>
    if en then s.setQueue { q with ctl := if bit x 0 then q.ctl else q.ctl &&& ~~~(1#64) }
    else
      let l := bits x 5 1
      let up := bit x 0 && 4 ≤ l && l ≤ 16
      let c : Dword := BitVec.ofNat 64 ((if up then 1 else 0) + 2 * l)
      if up then s.setQueue { q with ctl := c, next := 0, state := .reading, timer := none, kicked := false }
      else s.setQueue { q with ctl := c }
  | _ => if en then s else s.setQueue { q with cpl := keepBits x 51 4 }
/-- A write to the hub window: registers take their values at once (R6, R480, R460), KICK acts by its own step (R482). -/
def State.hubWrite (s : State) (o : Nat) (x : Dword) : State :=
  if o % 8 != 0 then s
  else if 0x100000 ≤ o && o < 0x101000 then
    let q := (o - 0x100000) / 64
    let r := (o % 64) / 8
    if r < 3 then s.cqWrite q r x else if r == 4 then s.post .kick q else s
  else if 0x200000 ≤ o && o < 0x200400 then
    let p := s.peer ((o - 0x200000) / 64)
    match (o % 64) / 8 with
    | 0 => s.setPeer { p with en := bit x 0 && !s.life.min, coll := bit x 2 }
    | 1 => s.setPeer { p with win := pageBits x }
    | 2 => s.setPeer { p with lim := pageBits x }
    | _ => s
  else if o == 0x300000 then { s with hub := { s.hub with devId := x.setWidth 5 } }
  else s

/-- A byte of the pose mailboxes (R395). -/
def State.mailboxByte (s : State) (pa : Nat) : PByte := clean (cell s.disp.mailbox (pa - 0x7000000000))

/-! Accesses at a physical address. -/

/-- A peer aperture takes the access: the port is enabled, its link up, the peer agrees (R484). -/
def State.peerOpen (s : State) (p pa : Nat) : Bool :=
  (s.peer p).en && (s.peer p).link && Config.peerAccepts p ((pa - 0x10000000000) % 0x8000000000)

/-- The memory type that governs an address: the apertures and the hub window are uncached (R459, R460). -/
def State.mtOf (s : State) (mt pa : Nat) : Nat := if s.range pa == .mem then mt else 1

/-- A load of n bytes by a core. A load that passes the core's L1 by lets go of its copy there, so that no later load
of the thread returns an older value (R251). -/
def State.loadPa (s : State) (g mt : Nat) (mark : Bool) (pa n : Nat) : State × List PByte :=
  match s.range pa with
  | .mem =>
    if mt == 0 then
      let s := (linesOf pa n).foldl (fun s l => s.wcFlushLine g l) s
      if mark then
        let s := (linesOf pa n).foldl (fun s l => (s.l1Drop g l).l2Fill (dieOf g) l) s
        (s, s.dieBytes (dieOf g) pa n)
      else s.l1Read g pa n
    else
      let s := (linesOf pa n).foldl (fun s l => (s.release1 g l).touchView l) s
      (s, s.llcBytes pa n)
  | .mailbox => (s, (List.range n).map fun i => s.mailboxByte (pa + i))
  | .hub => (s, (cleanBytes 8 (s.hubRead (pa - 0x7100000000)).toNat).take n)
  | .control | .peer _ => s.outsideBytes pa n
  | .none => (s, List.replicate n (clean 0))

/-- A store by a core (R220, R269); a view and a retired channel discard it at every level (R229, R517). -/
def State.storePa (s : State) (g mt : Nat) (cls : BitVec 4) (pa : Nat) (bs : List PByte) : State :=
  match s.range pa with
  | .mem =>
    if mt == 0 then
      let s := (linesOf pa bs.length).foldl (fun s l => s.wcFlushLine g l) s
      if (s.viewAt pa).isSome || s.channelDead pa then s else (s.l1Update g pa bs).l2Write (dieOf g) pa bs
    else if mt == 1 then
      let s := (linesOf pa bs.length).foldl (fun s l => (s.release1 g l).breakMarks l fun k => k == dieOf g) s
      s.llcWrite (some (dieOf g)) pa bs
    else
      let line := pa / 128
      s.modCore g fun c =>
        let l := getOr (fun l => l.line == line)
          { line, data := 0, bad := 0, mask := 0, classes := 0, since := s.cycle } c.wc
        let l := (List.range bs.length).foldl (fun (l : WcLine) i =>
          let b := bs.getD i (clean 0)
          let o := (pa + i) % 128
          { l with data := setLineByte l.data o b.v, mask := l.mask ||| (1#128 <<< o),
                   bad := if b.bad then l.bad ||| (1#128 <<< o) else l.bad &&& ~~~(1#128 <<< o) }) l
        { c with wc := upd (fun k => k.line == line) { l with classes := l.classes ||| (1#16 <<< cls.toNat) } c.wc }
  | .hub => s.hubWrite (pa - 0x7100000000) (BitVec.ofNat 64 (natOf bs))
  | _ => s

/-- A read-modify-write of n bytes by a core, at its L2 slice or at the LLC (R222, R267): the old value,
and whether it was poisoned, in which case nothing is written. -/
def State.atomPa (s : State) (g : Nat) (llc : Bool) (pa n : Nat) (f : Nat → Nat) : State × Nat × Bool :=
  match s.range pa with
  | .mem =>
    let line := pa / 128
    let s := (s.wcFlushLine g line).l1Drop g line
    if llc || s.sliceDead (dieOf g) line then
      let s := (s.purgeLine line).touchView line
      let old := s.llcBytes pa n
      if anyBad old then (s, natOf old, true) else (s.llcWrite none pa (cleanBytes n (f (natOf old))), natOf old, false)
    else
      let s := s.l2Fill (dieOf g) line
      let old := s.dieBytes (dieOf g) pa n
      if anyBad old then (s, natOf old, true)
      else (s.l2Write (dieOf g) pa (cleanBytes n (f (natOf old))), natOf old, false)
  | .peer _ =>
    let r := s.outsideBytes pa n
    (r.1, natOf r.2, false)
  | _ => (s, 0, false)

/-- An atomic of a hub agent at the LLC: every L2 first writes back and drops the line (R103, R222, R311). -/
def State.atomLlc (s : State) (pa n : Nat) (f : Nat → Nat) : State × Nat × Bool :=
  let s := (s.purgeLine (pa / 128)).touchView (pa / 128)
  let old := s.llcBytes pa n
  if anyBad old then (s, natOf old, true) else (s.llcWrite none pa (cleanBytes n (f (natOf old))), natOf old, false)

/-- A fence's actions for the issuing core (R246, R247, R269, R373). It empties the core's write buffer of every class,
so that each write that happens before it has left the core (R246, R249). -/
def State.fenceCore (s : State) (g : Nat) (acq rel : Bool) (scope : Nat) (classes : BitVec 16) : State :=
  if classes == 0 then s
  else
    let s := s.wcFlush g (BitVec.allOnes 16)
    let s := if rel && 5 ≤ scope then s.writeBackDie (dieOf g) else s
    let s := if acq && 3 ≤ scope then s.l1Clear g else s
    if acq && 2 ≤ scope then { s with tex := { s.tex with lines := s.tex.lines.filter fun l => l.core != g } } else s

/-! Faults of an access, by the order of the checks of R266. -/

/-- The outcome of the checks of one access. -/
inductive Chk where
  | ok (pa mt : Nat)
  /-- Probe loads only: the walk ends at V = 0 (R237). -/
  | zero
  | bad (order : Nat) (code : Byte)
  | park (line : Nat)
  deriving DecidableEq, Repr

/-- Kinds of access for the permission column (R234, R269). -/
inductive Acc where
  | load | probe | mark | store | atom | cst | mon | fetch
  deriving DecidableEq, Repr

/-- The kind writes. -/
def Acc.writes : Acc → Bool
  | .store | .atom | .cst => true
  | _ => false

/-- Check 6 passes: permission, range and memory type (R223, R234, R269, R459, R460). -/
def State.permOk (s : State) (e : TlbEntry) (pa size : Nat) (priv : Bool) (k : Acc) : Bool :=
  let range := s.range pa
  let mt := s.mtOf e.mt pa
  (!k.writes || e.w) && (k != .fetch || e.x) && (priv || e.u)
    && (k == .mon || (match range with
        | .none => false
        | .hub => size == 8 && pa % 8 == 0 && (k == .load || k == .probe || k == .store)
        | .peer p => s.peerOpen p pa && k != .mark && k != .cst
        | .control => k != .atom && k != .mark && k != .cst
        | .mailbox => k != .atom && k != .mark && k != .cst
        | .mem => true))
    && (k != .atom || mt != 2) && ((k != .mark && k != .cst) || mt == 0)

/-- Checks 2, 3, 5, 6 and 7 of a memory access at a virtual address (R266), `misaligned` already decided. -/
def State.checkVa (s : State) (g slot : Nat) (priv : Bool) (k : Acc) (size : Nat) (misaligned : Bool)
    (va : Dword) : State × Chk :=
  if bits va 63 56 != 0 then (s, .bad 2 0x06)
  else if misaligned then (s, .bad 3 0x04)
  else
    let r := s.translate (some g) slot va.toNat
    match r.2 with
    | .malformed => (r.1, .bad 5 0x06)
    | .unmapped => (r.1, if k == .probe then .zero else .bad 5 0x06)
    | .absent line => (r.1, if k == .probe then .zero else .park line)
    | .ok e =>
      let pa := e.pa + va.toNat % 4096
      (r.1, if r.1.permOk e pa size priv k then .ok pa (r.1.mtOf e.mt pa) else .bad 6 0x05)

/-! Accesses of engines and of the front end by virtual address, with the statuses of R293. -/

/-- A status: CODE, DETAIL, and COUNT below 0x80 or PAGE from 0x80 on (R290). No address applies to a computed address
below 0 (DEDUCED, log entry 105). -/
def statusOk (code flags count : Nat) : Dword :=
  BitVec.ofNat 64 (code + 2 ^ 16 * flags + 2 ^ 24 * min count (2 ^ 40 - 1))
def statusBad (code detail : Nat) (va : Int) : Dword :=
  let page := if 0 ≤ va then bits (BitVec.ofInt 64 va) 55 12 else 0
  BitVec.ofNat 64 (code + 2 ^ 8 * detail + 2 ^ 20 * page)

/-- The fault of a byte access of an engine, as CODE of R293, or its physical address and type. -/
def State.engineAddr (s : State) (g : Option Nat) (slot : Nat) (priv write : Bool) (va : Int) :
    State × (Nat ⊕ Nat × Nat) :=
  if va < 0 || 2 ^ 56 ≤ va then (s, .inl 0x80)
  else
    let r := s.translate g slot va.toNat
    match r.2 with
    | .malformed | .unmapped => (r.1, .inl 0x80)
    | .absent _ => (r.1, .inl 0x85)
    | .ok e =>
      let pa := e.pa + va.toNat % 4096
      if (write && !e.w) || (!priv && !e.u) then (r.1, .inl 0x81)
      else
        match r.1.range pa with
        | .none | .hub => (r.1, .inl 0x81)
        | .peer p =>
          (r.1, if !(r.1.peer p).link then .inl 0x8E
                else if r.1.peerOpen p pa then .inr (pa, 1) else .inl 0x81)
        | .mem => (r.1, .inr (pa, e.mt))
        | _ => (r.1, .inr (pa, 1))

/-- A core lets go of its copies of a line that it holds, so that no later read of a thread returns an older value than a
read that passed them by (R251). -/
def State.letGo (s : State) (g line : Nat) : State :=
  if ((s.core g).l1Find line).isNone && s.tex.lines.isEmpty then s else s.l1Drop g line
/-- A byte read by an engine of a core, through the die's L2 (R256), or by the front end; the core's L1 copy goes (R251),
and a view line is held from then on (R229). -/
def State.engineByte (s : State) (g : Option Nat) (pa mt : Nat) : State × PByte :=
  match s.range pa with
  | .mem =>
    let s := s.touchView (pa / 128)
    match g with
    | none => (s, s.llcByte pa)
    | some g =>
      let s := (s.wcFlushLine g (pa / 128)).letGo g (pa / 128)
      if mt == 0 then (s, s.dieByte (dieOf g) pa)
      else
        let s := s.release1 g (pa / 128)
        (s, s.llcByte pa)
  | .mailbox => (s, s.mailboxByte pa)
  | .hub => (s, clean 0)
  | _ =>
    let r := s.outsideBytes pa 1
    (r.1, r.2.headD (clean 0))

/-- A byte written by an engine of a core, at L2 or with `nt` at the LLC (R294), the core's L1 copy gone (R256). -/
def State.enginePut (s : State) (g pa mt : Nat) (nt : Bool) (b : PByte) : State :=
  match s.range pa with
  | .mem =>
    let s := (s.wcFlushLine g (pa / 128)).l1Drop g (pa / 128)
    if mt == 0 && !nt then s.l2Write (dieOf g) pa [b]
    else ((s.release1 g (pa / 128)).breakMarks (pa / 128) fun k => k == dieOf g).llcWrite (some (dieOf g)) pa [b]
  | _ => s

/-- Bytes that the front end or the task system reads at a virtual address of a slot: the first fault as a
trap code, or the bytes (R104, R209's device accesses carry no U check). -/
def State.frontRead (s : State) (g : Option Nat) (slot : Nat) (va : Dword) (n : Nat) : State × (Nat ⊕ List PByte) :=
  (List.range n).foldl (fun (acc : State × (Nat ⊕ List PByte)) (i : Nat) =>
    match acc.2 with
    | .inl c => (acc.1, .inl c)
    | .inr bs =>
      let r := acc.1.engineAddr g slot true false ((va.toNat : Int) + i)
      match r.2 with
      | .inl c => (r.1, .inl c)
      | .inr p =>
        let b := r.1.engineByte g p.1 p.2
        (b.1, .inr (bs ++ [b.2]))) (s, .inr [])

/-- The trap code that a wave would have taken for a fault code of R293 (R429). -/
def trapOfCode (c : Nat) : Byte := if c == 0x81 then 0x05 else if c == 0x82 then 0x08 else 0x06

end Sys2Proof.Machine
end

