-- ==== Sys2Proof/Machine/Trace.lean ====
section
/-! DEFINITION. Trace records and counter snapshots of a core (21_debug_trace_and_replay.md R488 to R496,
R504 to R506). -/
namespace Sys2Proof.Machine
open Sys2Proof

/-- A core's debug entry is valid (R488). -/
def entryOk (e : List Dword) : Bool :=
  let c := wd e 1
  let p := wd e 5
  e.length == 8 && bits c 15 10 == 0 && bits c 63 45 == 0 && bits p 63 19 == 0
    && 8 ≤ bits c 6 2 && bits c 6 2 ≤ 24 && 1 ≤ bits c 31 16 && 1 ≤ bits p 5 1 && bits p 5 1 ≤ 16

/-- Trace is enabled on a core (R488). -/
def Core.tracing (c : Core) : Bool := entryOk c.trace.entry && bit (wd c.trace.entry 1) 0
/-- Physical address of a core's debug entry (R487). -/
def State.dbgEntry (s : State) (g : Nat) : Nat := s.dbg.table.toNat + 64 * g
/-- A wave passes TFILT (R488). -/
def Core.traced (c : Core) (slot : Nat) : Bool :=
  !bit (wd c.trace.entry 1) 44 || bits (wd c.trace.entry 1) 43 32 == slot
/-- A wave counts for the profile (R504). -/
def Core.counted (c : Core) (slot : Nat) : Bool :=
  !bit (wd c.trace.entry 5) 18 || bits (wd c.trace.entry 5) 17 6 == slot

/-- The activation slot of a wave, 0 when it holds none. -/
def Wave.slot (w : Wave) : Nat := match w.act with | .active k _ => k | .dormant .. => 0
def Wave.isActive (w : Wave) : Bool := match w.act with | .active .. => true | .dormant .. => false

/-- The n oldest records of a core's queue are written, and TRTAIL after them (R489). -/
def State.traceDrain (s : State) (g n : Nat) : State :=
  let t := (s.core g).trace
  let now := t.queue.take n
  if now.isEmpty then s
  else
    let first := t.count - t.queue.length
    let s := now.zipIdx.foldl (fun s e =>
      let at0 := (wd t.entry 0).toNat + 16 * ((first + e.2) % 2 ^ bits (wd t.entry 1) 6 2)
      (s.llcPutWord at0 e.1.1).llcPutWord (at0 + 8) e.1.2) s
    let s := s.modCore g fun c => { c with trace := { c.trace with queue := c.trace.queue.drop n } }
    s.llcPutWord (s.dbgEntry g + 0x18) (BitVec.ofNat 64 (first + now.length))
/-- The next index may be given to a record: the queue has room, and with STOPF = 1 the index lies below
TRHEAD + 2^TLOG2 (R489, R490). TRHEAD is reread at each write of TRTAIL, which the core may make before it drops. -/
def State.traceFits (s : State) (g : Nat) : Bool :=
  let t := (s.core g).trace
  decide (t.queue.length < 64)
    && (!bit (wd t.entry 1) 1 || decide (t.count < (s.llcWord (s.dbgEntry g + 0x10)).toNat + 2 ^ bits (wd t.entry 1) 6 2))
/-- A record takes the next index; false where it finds no room. -/
def State.traceOne (s : State) (g : Nat) (w0 w1 : Dword) : State × Bool :=
  if !s.traceFits g then (s, false)
  else
    (s.modCore g fun c =>
      { c with trace := { c.trace with count := c.trace.count + 1, lastEvent := s.cycle, queue := c.trace.queue ++ [(w0, w1)] } }, true)
/-- A marker first where the next index calls for one (R494); every wave's SYNC item then stands anew (R493). -/
def State.traceMark (s : State) (g : Nat) : State × Bool :=
  if (s.core g).trace.count % 256 != 0 then (s, true)
  else
    let r := s.traceOne g 0xD5A5D5A5D5A5D5AF (BitVec.ofNat 64 s.cycle)
    (if r.2 then r.1.modCore g fun c => { c with trace := { c.trace with synced := [] } } else r.1, r.2)
/-- Core cycles since the core's previous record, a marker too (R491). -/
def State.traceDelta (s : State) (g : Nat) : Nat := s.cycle - (s.core g).trace.lastEvent
/-- What comes before a record: its marker, and a TIME record where DELTA would exceed 16,383 (R491, R494). -/
def State.traceAhead (s : State) (g : Nat) : State × Bool :=
  let m := s.traceMark g
  if !m.2 || m.1.traceDelta g ≤ 16383 then m
  else
    let r := m.1.traceOne g (BitVec.ofNat 64 (4 + 2 ^ 4 * g)) (BitVec.ofNat 64 s.cycle)
    if r.2 then r.1.traceMark g else r
/-- A record after what comes before it (R491). -/
def State.tracePut (s : State) (g : Nat) (w0 addr : Nat) (entry : Bool) : State × Bool :=
  let m := s.traceAhead g
  if !m.2 then m
  else m.1.traceOne g (BitVec.ofNat 64 w0) (BitVec.ofNat 64 (addr % 2 ^ 50 + 2 ^ 50 * (if entry then 0 else m.1.traceDelta g)))
/-- A LOST record, once room returns (R490). -/
def State.traceLost (s : State) (g : Nat) : State × Bool :=
  if (s.core g).trace.dropped == 0 then (s, true)
  else
    let n := min (s.core g).trace.dropped (2 ^ 30 - 1)
    let r := s.tracePut g (6 + 2 ^ 4 * g + 2 ^ 34 * n) 0 false
    (if r.2 then r.1.modCore g fun c => { c with trace := { c.trace with dropped := 0, synced := [] } } else r.1, r.2)
/-- A compute cycle in which some of a core's queued records are written, and a LOST record as room returns; how many the
spec leaves open (R490). -/
def State.traceCycle (s : State) (g : Nat) : State :=
  let t := (s.core g).trace
  if t.queue.isEmpty && t.dropped == 0 then s
  else
    let k := s.free
    let s := k.2.traceDrain g (Config.traceWritten k.1)
    if (s.core g).tracing then (s.traceLost g).1 else s
/-- A record other than a marker, a TIME or a LOST record: word 0 and the address of word 1; SYNC entries have no DELTA. One
that finds no room is dropped and LOST is raised (R490, R491). -/
def State.traceRec (s : State) (g : Nat) (w0 : Nat) (addr : Nat) (entry : Bool := false) : State :=
  if !(s.core g).tracing then s
  else
    let l := s.traceLost g
    let r := if l.2 then l.1.tracePut g w0 addr entry else l
    if r.2 then r.1
    else
      let pa := r.1.dbgEntry g + 0x38
      let old := r.1.llcWord pa
      let lost := min (bits old 31 0 + 1) (2 ^ 32 - 1)
      let s := r.1.llcPutWord pa (BitVec.ofNat 64 (lost + 2 ^ 32 * bits old 63 32))
      s.modCore g fun c => { c with trace := { c.trace with dropped := c.trace.dropped + 1 } }
/-- A wave's SYNC item is due again before its next ISSUE record (R493). -/
def State.unsync (s : State) (g u : Nat) : State :=
  s.modCore g fun c => { c with trace := { c.trace with synced := c.trace.synced.filter fun v => v != u } }

/-- The code of a thread's state (R200 TSTATE). -/
def TState.code : TState → Nat
  | .runnable => 0 | .held => 1 | .waiting => 2 | .parked => 3 | .exited => 4

/-- Threads that are not exited. -/
def Wave.live (w : Wave) : Mask := Mask.build fun i => (w.threads.get i).st != .exited
def Wave.inState (w : Wave) (t : TState) : Mask := Mask.build fun i => (w.threads.get i).st == t

/-- The context slot of a group's grid. -/
def State.slotOf (s : State) (w : Wave) : Nat :=
  (((s.group? w.group).bind fun g => s.grid? g.grid).map fun g => g.slot).getD 0

/-- The address of a wave's next group: its current PC group, else the lowest PC not exited. -/
def Wave.nextPc (w : Wave) : Dword :=
  match w.cur.lowest with
  | some i => (w.threads.get i).pc
  | none =>
    let pcs := (w.live.list.map fun i => (w.threads.get i).pc.toNat)
    BitVec.ofNat 64 ((pcs.min?).getD 0)

/-- SCYC of the bundle at an address of a slot (R45, R491), 0 when no bundle can be read there. -/
def State.scycAt (s : State) (g slot : Nat) (a : Nat) : Nat :=
  if a % 64 != 0 || 2 ^ 56 ≤ a then 0
  else match (s.translate (some g) slot a).2 with
    | .ok e =>
      let pa := e.pa + a % 4096
      if s.range pa == .mem then natOf (s.dieBytes (dieOf g) pa 8) / 2 ^ 50 else 0
    | _ => 0
/-- A SYNC item of a wave: its head and its entries (R493). -/
def State.traceItem (s : State) (g : Nat) (w : Wave) : State :=
  let parts := lanes.foldl (fun (acc : List (Nat × Nat × Mask)) i =>
    let t := w.threads.get i
    let k := (t.pc.toNat, t.st.code)
    if acc.any fun e => (e.1, e.2.1) == k then
      acc.map fun e => if (e.1, e.2.1) == k then (e.1, e.2.1, e.2.2 ||| (1#32 <<< i.val)) else e
    else acc ++ [(k.1, k.2, 1#32 <<< i.val)]) []
  let id := 2 ^ 4 * g + 2 ^ 14 * w.slot
  let s := s.traceRec g
    (2 + id + 2 ^ 20 * s.scycAt g (s.slotOf w) w.nextPc.toNat + 2 ^ 34 * parts.length + 2 ^ 40 * s.slotOf w + 2 ^ 52 * w.r.mode.toNat + 2 ^ 57 * w.r.loops.length)
    (w.ctx.toNat / 512 % 2 ^ 47)
  parts.foldl (fun s e =>
    let cur := if e.2.2 &&& w.cur != 0 && e.2.1 == 0 then 2 ^ 24 else 0
    s.traceRec g (3 + id + 2 ^ 20 * e.2.1 + cur + 2 ^ 32 * e.2.2.toNat) (e.1 / 64 % 2 ^ 50) true) s
/-- The SYNC items that a wave's ISSUE record needs before it: a LOST record, a TIME record or a marker that falls due here
comes first, and a marker inside an item calls for another (R490, R493, R494). -/
def State.traceSync (s : State) (g : Nat) (w : Wave) : Nat → State
  | 0 => s
  | n + 1 =>
    let l := s.traceLost g
    let s := (if l.2 then l.1.traceAhead g else l).1
    if (s.core g).trace.synced.any fun u => u == w.uid then s
    else
      ((s.modCore g fun c => { c with trace := { c.trace with synced := w.uid :: c.trace.synced } }).traceItem g w).traceSync g w n

/-- An EVENT record (R492). -/
def State.traceEvent (s : State) (g : Nat) (w : Wave) (ecode trap : Nat) (addr : Nat) : State :=
  let c := s.core g
  if c.tracing && bit (wd c.trace.entry 1) 8 && c.traced (s.slotOf w) then
    s.traceRec g (5 + 2 ^ 4 * g + 2 ^ 14 * w.slot + 2 ^ 20 * s.scycAt g (s.slotOf w) addr + 2 ^ 34 * ecode + 2 ^ 42 * trap) (addr / 64 % 2 ^ 50)
  else s

/-- A counter of the conflict matrix (R504). -/
def Core.conflict (c : Core) (r b : Nat) : Nat := ((c.conflicts.find? fun e => e.1 == r && e.2.1 == b).map fun e => e.2.2).getD 0
/-- Add to a counter, saturating at 2^32 − 1 (R504). -/
def Core.addConflict (c : Core) (r b n : Nat) : Core :=
  { c with conflicts := upd (fun e => e.1 == r && e.2.1 == b) (r, b, min (c.conflict r b + n) (2 ^ 32 - 1)) c.conflicts }

/-- A snapshot of a core's counters (R506): kind, PC, context address. One taken while both snapshot buffers are still being
written is skipped, and SKIP is raised; how long a snapshot is being written the spec leaves open. -/
def State.snapshot (s : State) (g kind : Nat) (pc ctx : Nat) : State :=
  let c := s.core g
  let e := c.trace.entry
  if entryOk e && bit (wd e 5) 0 then
    let k := s.free
    let s := k.2
    if 2 ≤ c.trace.snaps && Config.snapshotsBusy k.1 then
      let pa := s.dbgEntry g + 0x38
      let old := s.llcWord pa
      s.llcPutWord pa (BitVec.ofNat 64 (bits old 31 0 + 2 ^ 32 * min (bits old 63 32 + 1) (2 ^ 32 - 1)))
    else
      let n := c.trace.prtail
      let base := (wd e 4).toNat + 2048 * (n % 2 ^ bits (wd e 5) 5 1)
      let words := [s.cycle, pc, kind + 4 * g, c.lostCyc, c.fwd, c.rmiss, ctx]
      let cells := (List.range 315).map fun k => c.conflict (k / 35) (k % 35)
      let s := s.llcWrite none (base + 8) (words.flatMap (cleanBytes 8))
      let s := s.llcWrite none (base + 0x40) (cells.flatMap (cleanBytes 4))
      let s := s.llcWrite none (base + 0x52C) (List.replicate 724 (clean 0))
      let s := s.llcPutWord base (BitVec.ofNat 64 (n + 1))
      let s := s.modCore g fun c => { c with trace := { c.trace with prtail := n + 1, snaps := c.trace.snaps + 1 } }
      s.llcPutWord (s.dbgEntry g + 0x30) (BitVec.ofNat 64 (n + 1))
  else s

/-- A core rereads its debug entry (R488), with its queued records written: trace indices start anew when TEN rises. -/
def State.readDbgEntry (s : State) (g : Nat) : State :=
  let s := s.traceDrain g 64
  let old := s.core g
  let e := s.llcWords (s.dbgEntry g) 8
  let s := s.modCore g fun c => { c with trace := { c.trace with entry := e, prtail := (wd e 6).toNat } }
  let now := s.core g
  let due := s.cycle + 64 * bits (wd e 1) 31 16
  let sen (c : Core) : Bool := c.tracing && bit (wd c.trace.entry 1) 9
  let s := if now.tracing && !old.tracing then
      s.setCore { now with trace := { now.trace with count := 0, synced := [], dropped := 0, lastEvent := s.cycle } }
    else s
  if sen now && !sen old then s.modCore g fun c => { c with trace := { c.trace with nextSample := due } } else s

end Sys2Proof.Machine
end

