-- ==== Sys2Proof/Machine/Operands.lean ====
section
/-! DEFINITION. Operands of slot operations: the registers that each reads and writes (R22, R23, R49, R437),
the threads in which it runs (R25, R27), the values read and the writes it leaves for the end of its group. -/
namespace Sys2Proof

/-! Registers named by an encoding (R5, R23). -/

/-- A register of R5. -/
inductive Reg where
  | v (n : Nat)
  | p (n : Nat)
  | s (n : Nat)
  | b (n : Nat)
  | q (n : Nat)
  deriving DecidableEq, Repr

/-- The number of a register, as RegWrite.code gives it. -/
def Reg.code : Reg → Nat
  | .v n => n
  | .p n => 128 + n
  | .s n => 160 + n
  | .b n => 224 + n
  | .q n => 240 + n

def vRun (n k : Nat) : List Reg := (List.range k).map fun i => .v (n + i)
def sRun (n k : Nat) : List Reg := (List.range k).map fun i => .s (n + i)

/-- Roles of the fields of a V operation: lengths of vector runs A, B, C, predicates among them, what D names
and how many registers, and whether the written words keep part of their old value. -/
structure VRole where
  a : Nat := 1
  b : Nat := 1
  c : Nat := 0
  pa : Bool := false
  pb : Bool := false
  pc : Bool := false
  /-- 0 vector, 1 predicate, 2 scalar. -/
  dk : Nat := 0
  d : Nat := 1
  keep : Bool := false
  deriving DecidableEq, Repr

/-- The V operations and their roles (R161 to R188, R342, R343, R408). -/
def Instr.vRole : Instr → Option (VFmt × VRole)
  | .vadd _ o | .vsub _ o | .vmul _ o | .vmulh _ o | .vmin _ o | .vmax _ o | .vadds _ o | .vsubs _ o | .vdiv _ o
  | .vldexp _ o | .vand _ o | .vor _ o | .vxor _ o | .vandn _ o | .vshl _ o | .vshr _ o | .vsar _ o | .vrol _ o
  | .vclmul _ o | .vclmulh _ o | .vperm _ o => some (o, {})
  | .vcmp _ o | .vtest _ o => some (o, { dk := 1 })
  | .vmulw _ o => some (o, { d := 2 })
  | .vabs _ o | .vneg _ o | .vrint _ o | .vfract _ o | .vnot _ o | .vpopc _ o | .vclz _ o | .vbrev _ o | .vunpk _ o
  | .vrcp _ o | .vrsq _ o | .vsqrt _ o | .vexp2 _ o | .vlog2 _ o | .vsin _ o | .vcos _ o | .vtanh _ o | .vrot _ o
  | .vshuf _ o | .vbcast _ o | .vmatch _ o | .vscan _ o | .vred _ o | .mamax _ o => some (o, { b := 0 })
  | .vcvt _ o => some (o, { b := 0, keep := o.ty.width < 32 })
  | .vclass _ o => some (o, { b := 0, dk := 1 })
  | .vlane _ o => some (o, { b := 0, dk := 2 })
  | .vfma _ o | .vbfx _ o | .vsad _ o | .vbyte _ o | .vdp4 _ o | .vdp2 _ o => some (o, { c := 1 })
  | .vbfi _ o => some (o, { c := 1, keep := true })
  | .vmadw _ o => some (o, { c := 2, d := 2 })
  | .vmov _ o => some (o, { a := 0 })
  | .vpack _ o => some (o, { keep := o.ty.width == 8 })
  | .vsel _ o => some (o, { pc := true })
  | .pand _ o | .por _ o | .pxor _ o | .pandn _ o => some (o, { a := 0, b := 0, pa := true, pb := true, dk := 1 })
  | .pnot _ o | .pmov _ o => some (o, { a := 0, b := 0, pa := true, dk := 1 })
  | .pset _ o => some (o, { a := 0, b := 0, dk := 1 })
  | .vballot _ o => some (o, { a := 0, b := 0, pa := true })
  | .vfirst _ o => some (o, { a := 0, b := 0, pa := true, dk := 2 })
  | .vcompact _ o => some (o, { b := 0, pb := true })
  | .mcvt _ o => some (o, {})
  | .vrbox _ o => some (o, { a := 4, b := 3, c := 6, d := 2 })
  | .vrtri _ o => some (o, { a := 4, b := 3, c := 9, d := 4 })
  | .vqrot _ o => some (o, { a := 3, b := 0, c := 4, d := 3 })
  | .vproj _ o => some (o, { a := 3, b := 0, c := 4, d := 2 })
  | .vwarp _ o => some (o, { a := 2, b := 0, c := 9, d := 2 })
  | .vextr _ o => some (o, { a := 2, c := 1, d := 2 })
  | .vblend _ o => some (o, { a := 4, b := 4, c := 1, d := 4 })
  | .vdisoc _ o => some (o, { c := 1, dk := 1 })
  | .vpxpk _ o => some (o, { a := 4, b := 0 })
  | .vpxup _ o => some (o, { b := 0, d := 4 })
  | _ => none

/-- Register number of an 8-bit source field; bit 7 is LU (R49). -/
def srcNum (x : BitVec 8) : Nat := x.toNat % 128

/-- Registers read by a V operation (R156). -/
def VRole.reads (o : VFmt) (r : VRole) : List Reg :=
  vRun (srcNum o.a) r.a ++ (if o.bsel then [] else vRun (srcNum o.b) r.b) ++ vRun (srcNum o.c) r.c
    ++ (if r.pa then [.p (srcNum o.a)] else []) ++ (if r.pb then [.p (srcNum o.b)] else [])
    ++ (if r.pc then [.p (srcNum o.c)] else [])
def VRole.writes (o : VFmt) (r : VRole) : List Reg :=
  if r.dk == 0 then vRun o.d.toNat r.d else if r.dk == 1 then [.p o.d.toNat] else [.s o.d.toNat]
/-- Vector sources with LU = 1 (R205). -/
def VRole.lus (o : VFmt) (r : VRole) : List Nat :=
  let run (x : BitVec 8) (n : Nat) := if bit x 7 then (List.range n).map fun i => srcNum x + i else []
  run o.a r.a ++ (if o.bsel then [] else run o.b r.b) ++ run o.c r.c

/-- The operand run of an engine command (R53): its format and length. -/
def Instr.eRun : Instr → Option (EFmt × Nat)
  | .copy _ o => some (o, 3 + bits o.md 1 0)
  | .gather _ o | .scatter _ o | .mloop _ o | .mstep _ o => some (o, 4)
  | .fill _ o | .mshelf _ o | .mdrain _ o | .coll _ o => some (o, 3)
  | .pref _ o | .cflush _ o | .cinv _ o | .mapsync _ o | .present _ o | .xmit _ o | .isel _ o | .enq _ o | .mrot _ o
  | .mhistClear _ o | .mhistRead _ o | .mhistPush _ o | .mget _ o | .mput _ o | .send _ o => some (o, 2)
  | .mcfgQ _ o => some (o, 0)
  | .dlaunch _ o | .mcfg _ o | .mzero _ o | .mscale _ o | .recv _ o => some (o, 1)
  | _ => none

/-- Token registers consumed (R53). -/
def EFmt.consumed (o : EFmt) : List (BitVec 6) := [o.t1, o.t2, o.t3].take o.tn.toNat

/-- Registers of a vector load or store's data (R265). -/
def LmFmt.data (o : LmFmt) : List Reg := vRun o.d.toNat (if o.ty.wide then 2 else 1)
def LmFmt.addrs (o : LmFmt) : List Reg :=
  .s o.base.toNat :: (match o.addr with | .off _ => [] | .idx _ i _ => [.v i.toNat])
def LmFmt.luRegs (o : LmFmt) : List Nat := match o.addr with | .idx true i _ => [i.toNat] | _ => []
/-- Operand registers of an atomic, and those it writes (R276, R280). -/
def LaFmt.opnds (o : LaFmt) : List Reg :=
  vRun o.d.toNat ((if o.ty.wide then 2 else 1) * (if o.aop == 7 then 2 else 1))
def LaFmt.dest (o : LaFmt) : List Reg := vRun o.d.toNat (if o.ty.wide then 2 else 1)

/-- Registers that an operation reads, its guard apart (R22, R23). -/
def Instr.reads (i : Instr) : List Reg :=
  match i.vRole, i.eRun with
  | some (o, r), _ => r.reads o
  | _, some (o, n) => sRun o.a.toNat n ++ o.consumed.map fun t => .s t.toNat
  | _, _ =>
    let alu (f : SFmt) : List Reg := match f with
      | .r o => [.s o.a.toNat, .s o.b.toNat]
      | .i o => [.s o.a.toNat]
    match i with
    | .add _ o | .sub _ o | .mul _ o | .mulh _ o | .div _ o | .mod _ o | .min _ o | .max _ o | .and _ o | .or _ o
    | .xor _ o | .andn _ o | .shl _ o | .shr _ o | .sar _ o | .rol _ o | .cmp _ o | .test _ o => alu o
    | .setmode _ (.r o) => [.s o.a.toNat, .s o.b.toNat]
    | .bfx _ o | .popc _ o | .clz _ o | .ctz _ o | .brev _ o => [.s o.a.toNat]
    | .bfi _ o => [.s o.a.toNat, .s o.b.toNat]
    | .sel _ o => [.p o.pos.toNat, .s o.a.toNat, .s o.b.toNat]
    | .mov _ (.r o) => [.s o.a.toNat]
    | .movwHi _ o => [.s o.d.toNat]
    | .pbrx _ o => [.s o.a.toNat]
    | .mfb _ o | .call _ o | .ret _ o => [.b o.bt.toNat]
    | .loop _ o => if o.i then [] else [.s o.a.toNat]
    | .ld _ o | .lds _ o | .ldMark _ o | .ldu _ o | .ldp _ o | .mon _ o => o.addrs
    | .st _ o | .sts _ o => o.addrs ++ o.data
    | .stu _ o => [.s o.base.toNat, .s o.d.toNat]
    | .atom _ o | .satom _ o | .red _ o | .sred _ o => .s o.base.toNat :: .v o.idx.toNat :: o.opnds
    | .cst4 _ o => .s o.base.toNat :: vRun o.d.toNat (o.nl.toNat + 1)
    | .qpush _ o => [.v o.v.toNat]
    | .tex _ o => vRun (srcNum o.a) (if bit o.md 0 then 6 else 3) ++ [.s o.res.toNat, .s o.smp.toNat]
    | .tld _ o => vRun (srcNum o.a) 3 ++ [.s o.res.toNat]
    | .vatom _ o => [.v (srcNum o.a), .v o.d.toNat, .v (o.d.toNat + 1), .s o.res.toNat]
    | .meetRest _ o => vRun o.d.toNat 2
    | .vote _ o => [.p o.a.toNat]
    | .fork _ o | .join _ o | .emit _ o | .emitRetest _ o | .hfill _ o | .atlset _ o => [.s o.a.toNat, .s o.b.toNat]
    | .emitClose _ o => [.s o.b.toNat]
    | .trap _ o | .sysc _ o | .pget _ o | .dqpop _ o | .lwait _ o => [.s o.a.toNat]
    | .wrsr _ o => [.s o.s.toNat]
    | .xcfg _ o | .xwld _ o | .xmma _ o | .xact _ o | .xdrain _ o => [.s o.s.toNat]
    | .ffet _ o | .ffetd _ o | .fnear _ o =>
      vRun (srcNum o.a) 2 ++ (if bit o.md 0 then [.v (srcNum o.b)] else []) ++ [.s o.frm.toNat]
    | .ffetm _ o => vRun (srcNum o.a) 2 ++ [.s o.frm.toNat]
    | .hemit _ o => [.v o.d.toNat, .s o.a.toNat]
    | .rdbeam _ o => if o.imm == 1 then [.s o.a.toNat] else []
    | _ => []

/-- Registers that an operation writes (R22, R23); qpush and qpop change their window. -/
def Instr.writes (i : Instr) : List Reg :=
  match i.vRole, i.eRun with
  | some (o, r), _ => r.writes o
  | _, some (o, _) =>
    .s o.td.toNat :: (match i with | .dlaunch _ o => if bit o.md 5 then [.p (bits o.md 4 0)] else [] | _ => [])
  | _, _ =>
    let dst (f : SFmt) : Nat := match f with | .r o => o.d.toNat | .i o => o.d.toNat
    match i with
    | .add _ o | .sub _ o | .mul _ o | .mulh _ o | .div _ o | .mod _ o | .min _ o | .max _ o | .and _ o | .or _ o
    | .xor _ o | .andn _ o | .shl _ o | .shr _ o | .sar _ o | .rol _ o | .mov _ o | .setmode _ o => [.s (dst o)]
    | .bfx _ o | .bfi _ o | .popc _ o | .clz _ o | .ctz _ o | .brev _ o | .sel _ o | .rdfl _ o => [.s o.d.toNat]
    | .cmp _ o | .test _ o => [.p (dst o)]
    | .movw _ o | .movwHi _ o => [.s o.d.toNat]
    | .getid _ o => [.s o.d.toNat]
    | .pbr _ o => [.b o.bt.toNat]
    | .pbrx _ o => [.b o.bt.toNat]
    | .mfb _ o | .call _ o => [.s o.a.toNat]
    | .ld _ o | .lds _ o | .ldMark _ o => o.data
    | .ldu _ o => [.s o.d.toNat]
    | .ldp _ o => o.data ++ (match o.addr with | .off x => [.p (bits x 15 11)] | .idx .. => [])
    | .atom _ o | .satom _ o => o.dest
    | .cst4 _ o => [.p o.p.toNat]
    | .wait _ o | .vote _ o => [.p o.d.toNat]
    | .qpush _ o => [.q o.q.toNat]
    | .qpop _ o => [.v o.v.toNat, .q o.q.toNat]
    | .tex _ o | .tld _ o => vRun o.d.toNat 5
    | .meetSave _ o => vRun o.d.toNat 2
    | .rdclk _ o | .rdbeam _ o => [.s o.d.toNat]
    | .rdsr _ o => [.s o.s.toNat]
    | .ffet _ o | .fnear _ o => vRun o.d.toNat 4
    | .ffetd _ o => [.v o.d.toNat]
    | .ffetm _ o => vRun o.d.toNat 2
    | .hemit _ o | .hfill _ o | .dqpop _ o => [.p (bits o.imm 4 0)]
    | .pget _ o => .p (bits o.imm 4 0) :: sRun o.d.toNat 8
    | _ => []

/-- Vector sources with LU = 1 (R205). -/
def Instr.lus (i : Instr) : List Nat :=
  match i.vRole with
  | some (o, r) => r.lus o
  | none =>
    let one (lu : Bool) (n k : Nat) := if lu then (List.range k).map fun j => n + j else []
    match i with
    | .ld _ o | .lds _ o | .ldMark _ o | .st _ o | .sts _ o => o.luRegs
    | .atom _ o | .satom _ o | .red _ o | .sred _ o => one o.lu o.idx.toNat 1
    | .qpush _ o => one o.lu o.v.toNat 1
    | .tex _ o => one (bit o.a 7) (srcNum o.a) (if bit o.md 0 then 6 else 3)
    | .tld _ o => one (bit o.a 7) (srcNum o.a) 3
    | .vatom _ o => one (bit o.a 7) (srcNum o.a) 1
    | .ffet _ o | .ffetd _ o | .fnear _ o => one (bit o.a 7) (srcNum o.a) 2 ++ one (bit o.b 7) (srcNum o.b) 1
    | .ffetm _ o => one (bit o.a 7) (srcNum o.a) 2
    | _ => []

/-- Vector registers of which the operation keeps part of each written word (R437). -/
def Instr.keeps (i : Instr) : List Nat :=
  match i.vRole with
  | some (o, r) => if r.keep then [o.d.toNat] else []
  | none => []

end Sys2Proof

namespace Sys2Proof.Machine
open Sys2Proof

/-! The operation that runs. -/

/-- What a slot operation sees: the flight, its wave, the profile, the threads in which it runs, the bundle
that holds it and that bundle's address, and the core. -/
structure Ctx where
  fl : Flight
  w : Wave
  prof : Profile
  run : Mask
  bits : Bundle
  addr : Dword
  core : Nat
  deriving DecidableEq, Repr

/-- The wave that issues the flight. -/
def State.owner (s : State) (o : Owner) : Option Wave :=
  match o with
  | .wave u => s.wave? u
  | .line k => (s.line k).wave

def Owner.prof : Owner → Profile
  | .wave _ => .c
  | .line _ => .d

/-- Predicate n in lane i (R18). -/
def Regs.pred (r : Regs) (n : Nat) (i : Fin 32) : Bool := n != 0 && ((r.p.toList.getD n 0).has i)
/-- The lanes in which predicate n holds. -/
def Regs.predMask (r : Regs) (n : Nat) : Mask := if n == 0 then 0 else r.p.toList.getD n 0
def Regs.sc (r : Regs) (n : Nat) : Dword := r.s.val.toList.getD n 0
def Regs.scBad (r : Regs) (n : Nat) : Bool := r.s.bad.getLsbD (2 * n) || r.s.bad.getLsbD (2 * n + 1)
def Regs.vec (r : Regs) (n : Nat) : Line := r.v.toList.getD n (Line.fill 0)
def Regs.vecBad (r : Regs) (n : Nat) : Mask := r.vbad.toList.getD n 0
def Regs.bt (r : Regs) (n : Nat) : Dword := r.b.toList.getD n 0
/-- The bundle address of a branch-target register (R29). -/
def btAddr (x : Dword) : Dword := x &&& ~~~(63#64)

/-- Threads in which an operation with a head runs: its tag matches and its guard holds (R25, R27). -/
def runMask (r : Regs) (fl : Flight) (h : Head) : Mask :=
  let tagged := match h.tag.outcome with
    | none => fl.lanes
    | some k => fl.lanes &&& fl.outcomes.getD k 0
  if h.gp == 0 then (if h.neg then 0 else tagged)
  else if h.neg then tagged &&& ~~~(r.predMask h.gp.toNat) else tagged &&& r.predMask h.gp.toNat

/-- A write lands in the registers. -/
def Regs.write (r : Regs) : RegWrite → Regs
  | .v n m x bad =>
    { r with v := r.v.setIfInBounds n.toNat (Line.build fun i => if m.has i then x.get i else (r.vec n.toNat).get i),
             vbad := r.vbad.setIfInBounds n.toNat ((r.vecBad n.toNat &&& ~~~m) ||| (bad &&& m)) }
  | .p n m x =>
    { r with p := r.p.setIfInBounds n.toNat ((r.predMask n.toNat &&& ~~~m) ||| (x &&& m)),
             pbad := if m == BitVec.allOnes 32 then r.pbad &&& ~~~(1#32 <<< n.toNat) else r.pbad }
  | .s n x bad =>
    let clear : BitVec 128 := r.s.bad &&& ~~~((3#128) <<< (2 * n.toNat))
    { r with s := { val := r.s.val.setIfInBounds n.toNat x, bad := clear ||| ((bad.zeroExtend 128) <<< (2 * n.toNat)) } }
  | .b n x => { r with b := r.b.setIfInBounds n.toNat x }
  | .flags f => { r with flags := r.flags ||| f }
/-- A wave of a line core as a read in a counted cycle sees it: the results due by then have landed, by cycle and then in
program order (R34; DEDUCED, log entry 114). -/
def LineCore.landed (l : LineCore) (t : Nat) (w : Wave) : Wave :=
  let ord := sortBy (fun a b => decide (a.cycle ≤ b.cycle)) (l.pend.filter fun p => p.cycle ≤ t)
  { w with r := ord.foldl (fun (r : Regs) p => r.write p.w) w.r }
/-- The wave of a group in flight as its running bundle reads it. -/
def State.reader (s : State) (fl : Flight) (w : Wave) : Wave :=
  match fl.owner with
  | .wave _ => w
  | .line k => (s.line k).landed ((s.line k).cnt + fl.cur.1) w
/-- The context of the operation that runs, none when no group is in flight. -/
def slotCtx (s : State) (h : Head) : Option Ctx :=
  s.flight.bind fun fl =>
    (s.owner fl.owner).map fun w0 =>
      let w := s.reader fl w0
      { fl, w, prof := fl.owner.prof, run := runMask w.r fl h,
        bits := ((fl.bundles[fl.cur.1]?).map fun b => b.bits).getD 0,
        addr := fl.pc + BitVec.ofNat 64 (64 * fl.cur.1),
        core := match fl.owner with | .wave _ => s.coreOf w | .line k => k }

/-- The meaning of a slot operation: `f` where it runs in at least one thread, nothing otherwise (R25, R70). -/
def slot (h : Head) (s : State) (f : Ctx → State → State) : Host.Outcome State Fault Refusal :=
  match slotCtx s h with
  | none => .fault .noGroup
  | some c => .next (if c.run == 0 then s else f c s)

/-- The broadcast value of the bundle (R44). -/
def Ctx.bcast (c : Ctx) : Word :=
  let x := c.w.r.sc (hdrBps c.bits).toNat
  if hdrBph c.bits then x.extractLsb' 32 32 else x.extractLsb' 0 32
/-- OpA, OpB, OpC as lines, and register n of a run (R156, R181). -/
def Ctx.va (c : Ctx) (o : VFmt) (k : Nat := 0) : Line := c.w.r.vec (srcNum o.a + k)
def Ctx.vb (c : Ctx) (o : VFmt) (k : Nat := 0) : Line :=
  if o.bsel then Line.fill c.bcast else c.w.r.vec (srcNum o.b + k)
def Ctx.vc (c : Ctx) (o : VFmt) (k : Nat := 0) : Line := c.w.r.vec (srcNum o.c + k)
/-- Address of the last bundle of the group in flight. -/
def Ctx.lastAddr (c : Ctx) : Dword := c.fl.pc + BitVec.ofNat 64 (64 * (c.fl.bundles.length - 1))
/-- The first scalar of a command's run, and the k-th. -/
def Ctx.run? (c : Ctx) (o : EFmt) (k : Nat) : Dword := c.w.r.sc (o.a.toNat + k)

/-! What it leaves for the end of its group (R22). -/

def State.modFlight (s : State) (f : Flight → Flight) : State := { s with flight := s.flight.map f }
/-- Cycles from the group's first bundle to a result of the latency that its instruction states (R33, R34, R160). -/
def Flight.latency (fl : Flight) (lat : Nat) : Nat := fl.cur.1 + lat
/-- The latency of an instruction whose chapters state one for each profile (R270, R399). -/
def Ctx.lat (c : Ctx) (wave line : Nat) : Nat :=
  match c.prof with | .c => wave | .d => line
/-- A register write with its stated latency (R22, R34). -/
def State.emit (s : State) (lat : Nat) (w : RegWrite) : State :=
  s.modFlight fun fl => { fl with writes := fl.writes ++ [{ lat := fl.latency lat, w }] }
def State.emits (s : State) (lat : Nat) (ws : List RegWrite) : State :=
  s.modFlight fun fl => { fl with writes := fl.writes ++ ws.map fun w => { lat := fl.latency lat, w } }

/-- Write a scalar, clean (R438). -/
def State.emitS (s : State) (lat : Nat) (d : BitVec 6) (x : Dword) : State := s.emit lat (.s d x 0)
/-- Write a predicate in lanes m; a write to p0 is discarded (R18). -/
def State.emitP (s : State) (lat : Nat) (d : BitVec 5) (m x : Mask) : State :=
  if d == 0 then s else s.emit lat (.p d m x)
/-- Write a vector register in lanes m, clean. -/
def State.emitV (s : State) (lat : Nat) (d : BitVec 7) (m : Mask) (x : Line) : State := s.emit lat (.v d m x 0)
/-- Flags that an operation raises (R148, R159). -/
def State.raiseFlags (s : State) (lat : Nat) (f : BitVec 5) : State :=
  if f == 0 then s
  else match s.flight with
    | some fl => if fl.owner.prof == .d then s.emit lat (.flags f)
                 else s.modFlight fun fl =>
                   { fl with raised := fl.raised ||| f, flagsIn := max fl.flagsIn (fl.latency lat) }
    | none => s
/-- The numeric context of the flight, and its return (R144). -/
def Ctx.num (c : Ctx) : NumCtx := { flags := 0, st := c.fl.stoch }
def State.putNum (s : State) (lat : Nat) (n : NumCtx) : State :=
  (s.modFlight fun fl =>
    { fl with stoch := n.st,
              draws := if fl.owner.prof == .d && n.st != fl.stoch then fl.draws ++ [(fl.latency lat, n.st)] else fl.draws }).raiseFlags
    lat n.flags

/-- The stochastic state that rdsr sees at a counted cycle: the draws whose latencies have elapsed, in program order up
to the first whose latency has not (R87, R146). -/
def stochAt (seen : Stoch) (pend : List (Nat × Stoch)) (t : Nat) : Stoch :=
  ((pend.takeWhile fun e => e.1 ≤ t).getLast?.map fun e => e.2).getD seen

/-! Elements (R157). -/

/-- Element j of width w. -/
def elem (w : Nat) (x : Word) (j : Nat) : Nat := x.toNat / 2 ^ (w * j) % 2 ^ w
/-- A word from its elements. -/
def wordOf (w : Nat) (es : List Nat) : Word :=
  BitVec.ofNat 32 ((es.zipIdx.map fun (e : Nat × Nat) => e.1 % 2 ^ w * 2 ^ (w * e.2)).foldl (· + ·) 0)
def elemCount (t : Ty) : Nat := 32 / t.width

end Sys2Proof.Machine
end

