-- ==== Sys2Proof/Machine/Region.lean ====
section
/-! DEFINITION. The region tree (04_waves_groups_and_regions.md R105 to R112): control blocks and their copies,
effective values, and what a group's placement may use. -/
namespace Sys2Proof.Machine
open Sys2Proof

/-! Blocks and copies (R105, R110). -/

/-- The 64 bytes of a record read by the front end at an address of a slot: a fault code, or eight words. -/
def State.readWords (s : State) (g : Option Nat) (slot : Nat) (va : Dword) (n : Nat) : State × (Nat ⊕ List Dword) :=
  let r := s.frontRead g slot va (8 * n)
  match r.2 with
  | .inl c => (r.1, .inl c)
  | .inr bs => (r.1, if anyBad bs then .inl 0x82 else .inr (wordsOf n bs))

/-- A region control block: the device's copy when it keeps one, else the bytes in memory, of which it keeps
a copy from then on (R110). -/
def State.regionBlock (s : State) (slot : Nat) (a : Dword) : State × (Nat ⊕ List Dword) :=
  match s.regions.find? fun c => c.slot == slot && c.addr == a with
  | some c => (s, .inr c.words)
  | none =>
    let r := s.readWords none slot a 8
    match r.2 with
    | .inl c => (r.1, .inl c)
    | .inr ws => ({ r.1 with regions := r.1.regions ++ [{ slot, addr := a, words := ws }] }, .inr ws)

/-- A region with its ancestors, nearest first: addresses and words. -/
abbrev Chain := List (Dword × List Dword)

def blkDepth (ws : List Dword) : Nat := bits (wd ws 1) 3 0
def blkOvr (ws : List Dword) (b : Nat) : Bool := bit (wd ws 1) (8 + b)
def blkSys (ws : List Dword) : Bool := bit (wd ws 1) 28

/-- The blocks from a region up to its root; the walk is bounded by the depth (R107). The flag is false when
a parent pointer leads past depth 8. -/
def State.chainUp (s : State) (slot : Nat) : Nat → Dword → Chain → State × (Nat ⊕ Chain)
  | 0, _, acc => (s, .inr acc)
  | n + 1, a, acc =>
    let r := s.regionBlock slot a
    match r.2 with
    | .inl c => (r.1, .inl c)
    | .inr ws =>
      let acc := acc ++ [(a, ws)]
      if wd ws 0 == 0 then (r.1, .inr acc) else r.1.chainUp slot n (wd ws 0) acc
def State.chain (s : State) (slot : Nat) (a : Dword) : State × (Nat ⊕ Chain) := s.chainUp slot 9 a []

/-- The words of the block that gives the effective value of a field (R106). -/
def Chain.eff (c : Chain) (b : Nat) : List Dword :=
  match c with
  | [] => []
  | [(_, ws)] => ws
  | (_, ws) :: t => if blkOvr ws b then ws else Chain.eff t b
/-- The block whose arena a region uses (R112). -/
def Chain.arena (c : Chain) : List Dword :=
  match c with
  | [] => []
  | [(_, ws)] => ws
  | (_, ws) :: t => if wd ws 6 != 0 then ws else Chain.arena t

/-- Effective values of a region (R106, R108, R112). -/
structure Eff where
  addr : Dword
  root : Dword
  slot : Nat
  sys : Bool
  prio : Nat
  cores : Nat
  banks : Nat
  rclines : Nat
  wdog : Nat
  fdpol : Nat
  fdlaunch : Dword
  lrate : Nat
  arena : Dword
  capacity : Nat
  chain : Chain
  deriving DecidableEq, Repr

def effOf (a : Dword) (c : Chain) : Eff :=
  let root := (c.getLast?).getD (a, [])
  { addr := a, root := root.1, slot := bits (wd root.2 1) 27 16, sys := (c.head?.map fun b => blkSys b.2).getD false,
    prio := bits (wd (c.eff 5) 1) 7 4, cores := bits (wd (c.eff 0) 2) 15 0, banks := bits (wd (c.eff 2) 2) 37 32,
    rclines := bits (wd (c.eff 1) 2) 31 16, wdog := bits (wd (c.eff 6) 3) 31 0, fdpol := bits (wd (c.eff 7) 3) 35 32,
    fdlaunch := wd (c.eff 7) 4, lrate := bits (wd (c.eff 4) 2) 63 48, arena := wd c.arena 5,
    capacity := (wd c.arena 6).toNat / 20992, chain := c }

/-- Effective values of a grid's region; none when a block cannot be read now. -/
def State.effective (s : State) (slot : Nat) (a : Dword) : State × Option Eff :=
  let r := s.chain slot a
  match r.2 with
  | .inl _ => (r.1, none)
  | .inr c => (r.1, some (effOf a c))

/-- The grid of a wave. -/
def State.gridOf (s : State) (w : Wave) : Option Grid := (s.group? w.group).bind fun g => s.grid? g.grid
/-- The effective values for a wave. -/
def State.effWave (s : State) (w : Wave) : State × Option Eff :=
  match s.gridOf w with
  | none => (s, none)
  | some g => s.effective g.rslot g.region
/-- A wave runs privileged when its region is a system region (R108). -/
def State.priv (s : State) (w : Wave) : Bool := ((s.effWave w).2.map fun e => e.sys).getD false
/-- The effective priority of a wave's region. -/
def State.prioOf (s : State) (w : Wave) : Nat := ((s.effWave w).2.map fun e => e.prio).getD 0

/-! Validity (R105, R107). -/

/-- A block's own fields are legal (R105, R107), apart from its depth against its parent. A field that an OVR bit makes ignored
is checked too; only the record of an ignored FDLAUNCH is not (DEDUCED, log entry 97). -/
def blockOk (ws : List Dword) (root : Bool) : Bool :=
  let w1 := wd ws 1
  let w2 := wd ws 2
  let w3 := wd ws 3
  bits w1 63 29 == 0 && bits w2 39 38 == 0 && !bit w2 47 && bits w3 63 36 == 0 && wd ws 7 == 0
    && blkDepth ws ≤ 8 && (root || bits w1 27 16 == 0)
    && (!root || (blkDepth ws == 0 && bits w1 15 8 == 0xFF && wd ws 6 != 0))
    && bits w2 31 16 ≤ 6144 && bits w2 37 32 ≤ 32 && bits w2 46 40 ≤ 64 && bits w3 35 32 ≤ 5
    && bits (wd ws 5) 11 0 == 0 && bits (wd ws 0) 5 0 == 0
/-- Depths fall by one from a region to its root, and the walk reaches a root. -/
def Chain.ok : Chain → Bool
  | [] => false
  | [(_, ws)] => wd ws 0 == 0 && blockOk ws true
  | (_, ws) :: (b, us) :: t => blockOk ws false && blkDepth ws == blkDepth us + 1 && Chain.ok ((b, us) :: t)

/-- The FDLAUNCH records that a chain names and that the checks of R107 read: those of its own blocks. -/
def Chain.handlers (c : Chain) : List Dword :=
  c.filterMap fun b => if blkOvr b.2 7 && wd b.2 4 != 0 then some (wd b.2 4) else none

/-- The region that each FDLAUNCH record of a chain names is a system region (R107): a fault code, or
whether all are. -/
def State.handlersOk (s : State) (slot : Nat) : List Dword → State × (Nat ⊕ Bool)
  | [] => (s, .inr true)
  | a :: t =>
    let r := s.readWords none slot a 8
    match r.2 with
    | .inl c => (r.1, .inl c)
    | .inr ws =>
      let b := r.1.readWords none slot (wd ws 1) 8
      match b.2 with
      | .inl c => (b.1, .inl c)
      | .inr us =>
        let u := b.1.handlersOk slot t
        (u.1, match u.2 with | .inl c => .inl c | .inr ok => .inr (ok && blkSys us))

/-! What a region's groups use now (R109). -/

/-- Regions counted by a region: itself and every region below it, by the chains of the grids. -/
def State.under (s : State) (gr : Grid) (region : Dword) (slot : Nat) : Bool :=
  gr.slot == slot && (match (s.chain gr.rslot gr.region).2 with
    | .inl _ => gr.region == region
    | .inr c => c.any fun b => b.1 == region)
/-- Groups placed for a region and its descendants. -/
def State.groupsUnder (s : State) (slot : Nat) (region : Dword) : List Group :=
  s.groups.filter fun g => !g.saved && ((s.grid? g.grid).map fun gr => s.under gr region slot).getD false
/-- Register-cache lines held on a core by a region's waves (R109). -/
def State.linesUnder (s : State) (slot : Nat) (region : Dword) (core : Nat) : Nat :=
  let gs := (s.groupsUnder slot region).map fun g => g.uid
  ((s.core core).lru.filter fun l => match s.wave? l.1 with
    | some w => gs.any fun u => u == w.group
    | none => false).length

/-- Arena indices in use in the arena at a base address of a slot (R112). -/
def State.arenaUsed (s : State) (slot : Nat) (base : Dword) : List Nat :=
  s.waves.filterMap fun w =>
    if s.slotOf w == slot && w.ctx == base + BitVec.ofNat 64 (20992 * w.arenaIdx) then some w.arenaIdx else none
/-- The lowest n indices below a capacity that are free; fewer when there are not n. -/
def freeIndices (used : List Nat) (cap n : Nat) : List Nat :=
  ((List.range (min cap (used.length + n))).filter fun k => !used.any fun u => u == k).take n

/-- Bank roles of a core (R215): 0 scratchpad, 1 extra cache, 2 operand buffer, for bank k from 3 to 34. -/
def Core.role (c : Core) (k : Nat) : Nat := bits c.bankRole (2 * (k - 3) + 1) (2 * (k - 3))
/-- A BANK_ROLE word with one bank's field replaced (R215). -/
def withRole (x : Dword) (e : Nat × Nat) : Dword :=
  let j := 2 * (e.1 - 3)
  (x &&& ~~~((3#64) <<< j)) ||| (BitVec.ofNat 64 e.2 <<< j)
/-- What a read of BANK_ROLE returns: the roles last written, those that still wait for a grant to end among them (R6,
R215, R216). -/
def Core.rolesWritten (c : Core) : Dword := c.roleWait.foldl withRole c.bankRole
/-- Banks of a role on a core that no placed group holds, in increasing number (R217). -/
def State.freeBanks (s : State) (core role : Nat) : List Nat :=
  let used := (s.groups.filter fun g => g.core == core && !g.saved).flatMap fun g => g.sbanks ++ g.obanks
  ((List.range 32).map fun j => j + 3).filter fun k => (s.core core).role k == role && !used.any fun u => u == k

/-- Banks that a kernel descriptor needs: scratchpad, and two of the operand buffer for accumulators (R217). -/
def KDesc.obanks (k : KDesc) : Nat := if k.acc then 2 else 0
def KDesc.need (k : KDesc) : Nat := k.sbanks + k.obanks
/-- Contexts of a group: its waves and their surveyors (R113, R316). -/
def KDesc.contexts (k : KDesc) : Nat := k.waves * (if k.surv then 2 else 1)

/-- A core may hold groups: its cluster is in service and the core is not retired (R514, R517, R520). -/
def State.coreUp (s : State) (g : Nat) : Bool :=
  decide (g < 768) && s.life.state == .ready && s.life.clusters.getLsbD (clusterOf g)
    && s.life.inTest != some (clusterOf g)

/-- The budgets of R109 let one more group of a region onto a core. -/
def State.budgetOk (s : State) (slot : Nat) (c : Chain) (core need : Nat) : Bool :=
  (List.range c.length).all fun k =>
    let anc := c.drop k
    let e := effOf ((anc.head?.map fun b => b.1).getD 0) anc
    let gs := s.groupsUnder slot e.addr
    let used := (gs.map fun g => g.core).eraseDups
    let here := gs.filter fun g => g.core == core
    ((if used.any fun u => u == core then used.length else used.length + 1) ≤ e.cores)
      && ((here.map fun g => g.sbanks.length + g.obanks.length).foldl (· + ·) 0 + need ≤ e.banks)

end Sys2Proof.Machine
end

