-- ==== Sys2Proof/Machine/Replay.lean ====
section
/-! DEFINITION. Halts, and the logs of recording and replay (21_debug_trace_and_replay.md R497 to R512), as the
operations that other units call. -/
namespace Sys2Proof.Machine
open Sys2Proof

/-! Halts (R497 to R499). -/

/-- The context slot of the debug unit, and whether it is armed for a slot (R497). -/
def State.armedFor (s : State) (slot : Nat) : Bool := bit s.dbg.ctl 12 && bits s.dbg.ctl 11 0 == slot
/-- A slot is halted (R499). -/
def State.slotHalted (s : State) (slot : Nat) : Bool := s.dbg.cause != 0 && bits s.dbg.ctl 11 0 == slot

/-- Every wave of a slot halts, with an EVENT record for each activated one (R498, R499). -/
def State.haltWaves (s : State) (slot : Nat) : State :=
  s.waves.foldl (fun s w =>
    if s.slotOf w == slot && !w.c.halted then
      let s := s.modWave w.uid fun (w : Wave) => { w with c := { w.c with halted := true, stepOnce := false } }
      if w.isActive then s.traceEvent (s.coreOf w) w 7 0 w.nextPc.toNat else s
    else s) s

/-- A trigger reaches the debug unit (R497); it has no effect while the unit is not armed for the slot. -/
def State.haltTrigger (s : State) (slot cause core aslot widx : Nat) (pc : Dword) : State :=
  if !s.armedFor slot then s
  else if s.dbg.cause != 0 then { s with dbg := { s.dbg with extra := min (s.dbg.extra + 1) 255 } }
  else
    let d := { s.dbg with cause := cause, core := core, aslot := aslot, widx := widx, pc := pc, extra := 0, halted := true }
    let s := ({ s with dbg := d }).haltWaves slot
    if s.groups.any fun g => g.inSection then s.postFirst .dbgHalt 0 0 1 else s

/-! Logs (R507, R508). -/

def State.repSlot (s : State) : Nat := bits s.rep.ctl 11 0
def State.recording (s : State) (slot : Nat) : Bool := s.rep.state == 1 && s.repSlot == slot
def State.replaying (s : State) (slot : Nat) : Bool := s.rep.state == 2 && s.repSlot == slot
/-- Physical address of a unit's table entry. -/
def State.repEntry (s : State) (u : Nat) : Nat := s.rep.table.toNat + 32 * u

/-- The log of a unit, its table entry read on first use. -/
def State.repLog (s : State) (u : Nat) : RLog :=
  match s.rep.logs.find? fun l => l.unit == u with
  | some l => l
  | none =>
    let a := s.repEntry u
    { unit := u, base := s.llcWord a, log2 := bits (s.llcWord (a + 8)) 4 0, count := 0,
      limit := (s.llcWord (a + 24)).toNat, since := none, runWave := none, runLen := 0 }
def State.setLog (s : State) (l : RLog) : State :=
  { s with rep := { s.rep with logs := upd (fun k => k.unit == l.unit) l s.rep.logs } }
/-- The count of a log reaches memory (R509, R510). -/
def State.putCount (s : State) (l : RLog) : State :=
  (s.setLog l).llcPutWord (s.repEntry l.unit + 16) (BitVec.ofNat 64 l.count)

/-- Units of R508: the die slice that decides, or the LLC of the M-die. -/
def State.arriveUnit (s : State) (g : Nat) (llc : Bool) (pa : Nat) : Nat :=
  if llc || s.sliceDead (dieOf g) (pa / 128) then 2304 + s.channel pa / 6 else 768 + 192 * dieOf g + sliceOf pa

/-! Recording (R509). -/

/-- Append an entry to the log of a unit, where it has room. -/
def State.logFit (s : State) (u : Nat) (w0 w1 : Nat) : Option State :=
  let l := s.repLog u
  let cap := 2 ^ l.log2
  if cap ≤ l.count then none
  else
    let a := l.base.toNat + 16 * (l.count % cap)
    let s := (s.llcPutWord a (BitVec.ofNat 64 w0)).llcPutWord (a + 8) (BitVec.ofNat 64 w1)
    some (s.putCount { l with count := l.count + 1 })
/-- The words of a RUN entry (R508). -/
def runWord (len : Nat) : Nat := 2 + 16 * (len - 1)
/-- Recording stops for every unit because a log is full. The groups issued so far are logged: each RUN entry being
formed is written first where its own log has room. -/
def State.logStop (s : State) : State :=
  let s := s.rep.logs.foldl (fun s l =>
    match l.runWave with
    | none => s
    | some c =>
      let s := s.setLog { l with runWave := none, runLen := 0 }
      (s.logFit l.unit (runWord l.runLen) c).getD s) s
  { s with rep := { s.rep with ctl := s.rep.ctl &&& ~~~(0x3000#64), state := 0, full := true } }
/-- Append an entry; recording stops for every unit when the log is full. -/
def State.logPut (s : State) (u : Nat) (w0 w1 : Nat) : State :=
  if s.rep.state != 1 then s else (s.logFit u w0 w1).getD s.logStop
/-- The RUN entry being formed is written. -/
def State.flushRun (s : State) (u : Nat) : State :=
  let l := s.repLog u
  match l.runWave with
  | none => s
  | some c => (s.setLog { l with runWave := none, runLen := 0 }).logPut u (runWord l.runLen) c
/-- Every RUN entry being formed is written. -/
def State.flushRuns (s : State) : State := s.rep.logs.foldl (fun s l => s.flushRun l.unit) s

/-- C[55:9] of a context (R508). -/
def ctxKey (c : Dword) : Nat := bits c 55 9

/-- The words of an ARRIVE entry (R508); a device agent is core 0x3FF. -/
def arriveWord (g ord : Nat) (m : Mask) : Nat := 3 + 16 * g + 2 ^ 14 * (ord % 65536) + 2 ^ 32 * m.toNat

/-! Replay (R510 to R512). -/

/-- A group of the wave has issued and an operation of it waits at a unit for its entry (R510). -/
def State.suspended (s : State) (u : Nat) : Bool := s.rep.waiting.any fun fl => fl.owner == .wave u

/-- The next entry of a unit below its limit. -/
def State.repNext (s : State) (u : Nat) (skip : Nat := 0) : Option (Dword × Dword) :=
  let l := s.repLog u
  if l.count + skip < l.limit then
    let a := l.base.toNat + 16 * ((l.count + skip) % 2 ^ l.log2)
    some (s.llcWord a, s.llcWord (a + 8))
  else none

/-- Units whose LLIMIT is not zero: a cell of its eight bytes is listed. -/
def State.limited (s : State) : List Nat :=
  let b := s.rep.table.toNat
  (s.mem.filterMap fun c =>
    if b ≤ c.1 && c.1 < b + 32 * 2312 && 24 ≤ (c.1 - b) % 32 then some ((c.1 - b) / 32) else none).eraseDups
/-- Every unit has reached its limit. -/
def State.repDone (s : State) : Bool :=
  s.limited.all fun u => let l := s.repLog u; l.limit ≤ l.count
/-- Enforcement ends when nothing is left to enforce (R510). -/
def State.repEnd (s : State) : State :=
  if s.rep.state == 2 && s.repDone then { s with rep := { s.rep with state := 0 } } else s
/-- An entry is consumed. -/
def State.consume (s : State) (u : Nat) : State :=
  (s.putCount { s.repLog u with count := (s.repLog u).count + 1, since := none, runWave := none, runLen := 0 }).repEnd

/-- Replay diverges (R512). -/
def State.diverge (s : State) (u : Nat) : State :=
  if s.rep.state != 2 then s
  else
    let slot := s.repSlot
    let s := { s with rep := { s.rep with state := 3, unit := u, index := (s.repLog u).count } }
    s.haltTrigger slot 4 (if u < 768 then u else 0) 0 0 0
/-- A unit begins to wait on its entry. -/
def State.repWait (s : State) (u : Nat) : State :=
  let l := s.repLog u
  if l.since.isSome then s else s.setLog { l with since := some s.now }

/-- A PLACE entry for a group stands in the rest of some core's log. -/
def State.placedElsewhere (s : State) (lin : Nat) (launch : Dword) : Bool :=
  s.limited.any fun u => u < 768 && (List.range ((s.repLog u).limit - (s.repLog u).count)).any fun k =>
    match s.repNext u k with
    | some (w0, w1) => bits w0 3 0 == 1 && bits w0 63 32 == lin && w1 == launch
    | none => false
/-- Replay lets a core take a group (R510). -/
def State.repPlace (s : State) (slot g lin : Nat) (launch : Dword) : Bool :=
  if !s.replaying slot then true
  else match s.repNext g with
    | some (w0, w1) => bits w0 3 0 == 1 && bits w0 63 32 == lin && w1 == launch
    | none => !s.placedElsewhere lin launch
/-- A group was placed on a core: logged, or its entry consumed (R509, R510). -/
def State.repPlaced (s : State) (slot g lin : Nat) (launch : Dword) : State :=
  if s.recording slot then (s.flushRun g).logPut g (1 + 2 ^ 32 * lin) launch.toNat
  else if s.replaying slot && (s.repNext g).isSome then s.consume g else s

/-- Replay lets a wave issue on its core (R510). -/
def State.repRun (s : State) (slot g : Nat) (ctx : Dword) : Bool :=
  if !s.replaying slot then true
  else match s.repNext g with
    | some (w0, w1) => bits w0 3 0 == 2 && bits w1 46 0 == ctxKey ctx
    | none => true
/-- A wave issued a group on its core (R509, R510). -/
def State.repRan (s : State) (slot g : Nat) (ctx : Dword) : State :=
  if s.recording slot then
    let l := s.repLog g
    if l.runWave == some (ctxKey ctx) && l.runLen < 65536 then s.setLog { l with runLen := l.runLen + 1 }
    else
      let s := s.flushRun g
      s.setLog { s.repLog g with runWave := some (ctxKey ctx), runLen := 1 }
  else if s.replaying slot then
    match s.repNext g with
    | none => s
    | some (w0, _) =>
      let l := s.repLog g
      if l.runLen + 1 < bits w0 19 4 + 1 then s.setLog { l with runLen := l.runLen + 1, since := none } else s.consume g
  else s

/-- Arrivals of one group match the units' next entries one after another (R510). -/
def State.repArrive (s : State) (slot : Nat) (as : List (Nat × Nat × Nat)) : Option Nat :=
  if !s.replaying slot then none
  else
    (as.foldl (fun (acc : List Nat × Option Nat) (a : Nat × Nat × Nat) =>
      let k := (acc.1.filter fun u => u == a.1).length
      let ok := match s.repNext a.1 k with
        | some (w0, w1) => w0.toNat == a.2.1 && w1.toNat == a.2.2
        | none => true
      (a.1 :: acc.1, if acc.2.isSome then acc.2 else if ok then none else some a.1)) ([], none)).2
/-- An operation performed at a unit (R509, R510). -/
def State.repArrived (s : State) (slot : Nat) (a : Nat × Nat × Nat) : State :=
  if s.recording slot then s.logPut a.1 a.2.1 a.2.2
  else if s.replaying slot && (s.repNext a.1).isSome then s.consume a.1 else s

/-- A RUN entry of a wave stands in the rest of a core's log: the wave has groups still to issue there. -/
def State.runsLater (s : State) (g ctx : Nat) : Bool :=
  (List.range ((s.repLog g).limit - (s.repLog g).count)).any fun k =>
    match s.repNext g k with
    | some (w0, w1) => bits w0 3 0 == 2 && bits w1 46 0 == ctx
    | none => false
/-- The entry on which a unit waits can never match: its wave has passed the logged ORD, or has exited (R512; DEDUCED, log
entry 113). -/
def State.repStuck (s : State) (slot u : Nat) : Bool :=
  match s.repNext u with
  | none => false
  | some (w0, w1) =>
    let w := s.waves.find? fun w => s.slotOf w == slot && ctxKey w.ctx == bits w1 46 0
    if bits w0 3 0 == 2 then w.all fun w => w.live == 0
    else if bits w0 3 0 == 3 && bits w0 13 4 != 0x3FF then
      match w with
      | none => !s.runsLater (bits w0 13 4) (bits w1 46 0)
      | some w =>
        let d := (w.issued + 65536 - bits w0 29 14) % 65536
        decide (0 < d) && decide (d < 32768)
    else false
/-- A core of the replayed slot stands at a RUN entry. -/
def State.atRun (s : State) (u : Nat) : Bool :=
  s.rep.state == 2 && decide (u < 768) && ((s.repNext u).any fun e => bits e.1 3 0 == 2)
/-- That entry names a wave that has exited (R512). -/
def State.runGone (s : State) (u : Nat) : Bool := s.atRun u && s.repStuck s.repSlot u
/-- In replay each core waits on the RUN entry at which it stands (R512). -/
def State.repCount (s : State) : State :=
  if s.rep.state != 2 then s else (s.limited.filter fun u => s.atRun u).foldl (fun s u => s.repWait u) s

end Sys2Proof.Machine
end

