-- ==== Sys2Proof/Machine/Scalar.lean ====
section
/-! DEFINITION. The S slot (03_scalar_and_control_instructions.md R70 to R95): scalar arithmetic, comparisons,
moves and identifiers, mode and flags, branch targets, loops, calls and exit; and the no-operations. -/
namespace Sys2Proof.Machine
open Sys2Proof

/-! No-operations (R47, R57). -/

/-- nop reads and writes nothing (R47). -/
def execNop (h : Head) (s : State) : Host.Outcome State Fault Refusal := slot h s fun _ s => s
/-- A hint-space operation is a no-operation whatever its operand field holds (R57). -/
def execHint (h : Head) (_ : BitVec 4) (_ : BitVec 39) (s : State) : Host.Outcome State Fault Refusal :=
  slot h s fun _ s => s

/-! Operand helpers (R71). -/

/-- Opd: the value of the low N bits. -/
def opd (t : Ty) (x : Dword) : Int := iv t x.toNat
/-- The low N bits as a number. -/
def lowN (t : Ty) (x : Dword) : Nat := x.toNat % 2 ^ t.width
/-- WriteS: the result cut to N bits and extended by signedness. -/
def writeS (t : Ty) (r : Int) : Dword :=
  let x := truncN t.width r
  BitVec.ofInt 64 (if t.signed then sInt t.width x else (x : Int))
/-- TYPE, D, the value of s[A] and SrcB of an SR or SI operation. -/
def Ctx.sOps (c : Ctx) : SFmt → Ty × BitVec 6 × Dword × Dword
  | .r o => (o.ty, o.d, c.w.r.sc o.a.toNat, c.w.r.sc o.b.toNat)
  | .i o => (o.ty, o.d, c.w.r.sc o.a.toNat, o.imm.signExtend 64)

/-- An S operation with two operands that writes WriteS(D, r) (R73). -/
def scalar2 (h : Head) (o : SFmt) (s : State) (f : Ty → Dword → Dword → Int) : Host.Outcome State Fault Refusal :=
  slot h s fun c s =>
    let p := c.sOps o
    s.emitS 1 p.2.1 (writeS p.1 (f p.1 p.2.2.1 p.2.2.2))
/-- An S operation with one operand that writes WriteS(D, r) (R77). -/
def scalar1 (h : Head) (o : SrFmt) (s : State) (f : Ty → Dword → Int) : Host.Outcome State Fault Refusal :=
  slot h s fun c s => s.emitS 1 o.d (writeS o.ty (f o.ty (c.w.r.sc o.a.toNat)))

/-! Integer arithmetic and logic (R73, R74, R75). -/

def aluAdd (t : Ty) (a b : Dword) : Int := opd t a + opd t b
def aluSub (t : Ty) (a b : Dword) : Int := opd t a - opd t b
def aluMul (t : Ty) (a b : Dword) : Int := opd t a * opd t b
/-- Floor of the exact product over 2^N. -/
def aluMulh (t : Ty) (a b : Dword) : Int := (opd t a * opd t b).fdiv (2 ^ t.width)
/-- The quotient of R74, defined for every operand pair. -/
def aluDiv (t : Ty) (a b : Dword) : Int :=
  let x := opd t a
  let y := opd t b
  if y == 0 then 2 ^ t.width - 1
  else if t.signed && x == -(2 ^ (t.width - 1)) && y == -1 then x
  else x.tdiv y
/-- The remainder of R74: it takes the sign of the dividend. -/
def aluMod (t : Ty) (a b : Dword) : Int :=
  let x := opd t a
  let y := opd t b
  if y == 0 then x
  else if t.signed && x == -(2 ^ (t.width - 1)) && y == -1 then 0
  else x - y * x.tdiv y
def aluMin (t : Ty) (a b : Dword) : Int := if opd t a ≤ opd t b then opd t a else opd t b
def aluMax (t : Ty) (a b : Dword) : Int := if opd t b ≤ opd t a then opd t a else opd t b
def aluAnd (t : Ty) (a b : Dword) : Int := (lowN t (a &&& b) : Int)
def aluOr (t : Ty) (a b : Dword) : Int := (lowN t (a ||| b) : Int)
def aluXor (t : Ty) (a b : Dword) : Int := (lowN t (a ^^^ b) : Int)
def aluAndn (t : Ty) (a b : Dword) : Int := (lowN t (a &&& ~~~b) : Int)
/-- Shift left of an n-bit value, zero when the count reaches the width. -/
def shlN (n x k : Nat) : Nat := if n ≤ k then 0 else x * 2 ^ k % 2 ^ n
def shrN (n x k : Nat) : Nat := if n ≤ k then 0 else x / 2 ^ k
/-- Arithmetic shift right: copies of the top bit enter. -/
def sarN (n x k : Nat) : Nat := truncN n (sInt n x / 2 ^ (min k n))
def rolN (n x k : Nat) : Nat := (x * 2 ^ (k % n) + x / 2 ^ (n - k % n)) % 2 ^ n
def aluShl (t : Ty) (a b : Dword) : Int := (shlN t.width (lowN t a) b.toNat : Int)
def aluShr (t : Ty) (a b : Dword) : Int := (shrN t.width (lowN t a) b.toNat : Int)
def aluSar (t : Ty) (a b : Dword) : Int := (sarN t.width (lowN t a) b.toNat : Int)
def aluRol (t : Ty) (a b : Dword) : Int := (rolN t.width (lowN t a) b.toNat : Int)

/-- add (R73). -/
def execAdd (h : Head) (o : SFmt) (s : State) : Host.Outcome State Fault Refusal := scalar2 h o s aluAdd
/-- sub (R73). -/
def execSub (h : Head) (o : SFmt) (s : State) : Host.Outcome State Fault Refusal := scalar2 h o s aluSub
/-- mul (R73). -/
def execMul (h : Head) (o : SFmt) (s : State) : Host.Outcome State Fault Refusal := scalar2 h o s aluMul
/-- mulh (R73). -/
def execMulh (h : Head) (o : SFmt) (s : State) : Host.Outcome State Fault Refusal := scalar2 h o s aluMulh
/-- div (R74). -/
def execDiv (h : Head) (o : SFmt) (s : State) : Host.Outcome State Fault Refusal := scalar2 h o s aluDiv
/-- mod (R74). -/
def execMod (h : Head) (o : SFmt) (s : State) : Host.Outcome State Fault Refusal := scalar2 h o s aluMod
/-- min (R73). -/
def execMin (h : Head) (o : SFmt) (s : State) : Host.Outcome State Fault Refusal := scalar2 h o s aluMin
/-- max (R73). -/
def execMax (h : Head) (o : SFmt) (s : State) : Host.Outcome State Fault Refusal := scalar2 h o s aluMax
/-- and (R73). -/
def execAnd (h : Head) (o : SFmt) (s : State) : Host.Outcome State Fault Refusal := scalar2 h o s aluAnd
/-- or (R73). -/
def execOr (h : Head) (o : SFmt) (s : State) : Host.Outcome State Fault Refusal := scalar2 h o s aluOr
/-- xor (R73). -/
def execXor (h : Head) (o : SFmt) (s : State) : Host.Outcome State Fault Refusal := scalar2 h o s aluXor
/-- andn (R73). -/
def execAndn (h : Head) (o : SFmt) (s : State) : Host.Outcome State Fault Refusal := scalar2 h o s aluAndn
/-- shl (R75). -/
def execShl (h : Head) (o : SFmt) (s : State) : Host.Outcome State Fault Refusal := scalar2 h o s aluShl
/-- shr (R75). -/
def execShr (h : Head) (o : SFmt) (s : State) : Host.Outcome State Fault Refusal := scalar2 h o s aluShr
/-- sar (R75). -/
def execSar (h : Head) (o : SFmt) (s : State) : Host.Outcome State Fault Refusal := scalar2 h o s aluSar
/-- rol (R75). -/
def execRol (h : Head) (o : SFmt) (s : State) : Host.Outcome State Fault Refusal := scalar2 h o s aluRol

/-! Bit fields and counts (R76, R77). -/

def popN (n x : Nat) : Nat := ((List.range n).filter fun i => x.testBit i).length
def clzN (n x : Nat) : Nat := if x % 2 ^ n == 0 then n else n - 1 - (x % 2 ^ n).log2
def ctzN (n x : Nat) : Nat := ((List.range n).find? fun i => x.testBit i).getD n
def brevN (n x : Nat) : Nat :=
  (List.range n).foldl (fun a i => if x.testBit i then a + 2 ^ (n - 1 - i) else a) 0

/-- bfx: field of length LEN + 1 at POS, extended by signedness. -/
def execBfx (h : Head) (o : SrFmt) (s : State) : Host.Outcome State Fault Refusal :=
  scalar1 h o s fun t x =>
    let l := o.len.toNat + 1
    let f := x.toNat / 2 ^ o.pos.toNat % 2 ^ l
    if t.signed then sInt l f else (f : Int)
/-- bfi: the low LEN + 1 bits of s[A] enter s[B] at POS. -/
def execBfi (h : Head) (o : SrFmt) (s : State) : Host.Outcome State Fault Refusal :=
  slot h s fun c s =>
    let l := o.len.toNat + 1
    let p := o.pos.toNat
    let b := lowN o.ty (c.w.r.sc o.b.toNat)
    let a := (c.w.r.sc o.a.toNat).toNat % 2 ^ l
    let t := b % 2 ^ p + a * 2 ^ p + b / 2 ^ (p + l) * 2 ^ (p + l)
    s.emitS 1 o.d (writeS o.ty (iv o.ty t))
/-- popc (R77). -/
def execPopc (h : Head) (o : SrFmt) (s : State) : Host.Outcome State Fault Refusal :=
  scalar1 h o s fun t x => popN t.width (lowN t x)
/-- clz (R77). -/
def execClz (h : Head) (o : SrFmt) (s : State) : Host.Outcome State Fault Refusal :=
  scalar1 h o s fun t x => clzN t.width (lowN t x)
/-- ctz (R77). -/
def execCtz (h : Head) (o : SrFmt) (s : State) : Host.Outcome State Fault Refusal :=
  scalar1 h o s fun t x => ctzN t.width (lowN t x)
/-- brev (R77). -/
def execBrev (h : Head) (o : SrFmt) (s : State) : Host.Outcome State Fault Refusal :=
  scalar1 h o s fun t x => iv t (brevN t.width (lowN t x))

/-! Comparisons and selection (R78, R79, R80). -/

/-- The condition codes eq, ne, lt, le, gt, ge (R51). -/
def condInt (k : Nat) (a b : Int) : Bool :=
  match k with
  | 0 => a == b | 1 => a != b | 2 => decide (a < b) | 3 => decide (a ≤ b) | 4 => decide (b < a) | _ => decide (b ≤ a)
/-- An S operation that writes a predicate in the threads in which it runs (R70, R78). -/
def scalarP (h : Head) (o : SFmt) (s : State) (f : Nat → Ty → Dword → Dword → Bool) : Host.Outcome State Fault Refusal :=
  slot h s fun c s =>
    let p := c.sOps o
    s.emitP 1 (p.2.1.setWidth 5) c.run
      (if f (match o with | .r o => o.cond.toNat | .i o => o.cond.toNat) p.1 p.2.2.1 p.2.2.2 then BitVec.allOnes 32 else 0)
/-- cmp (R78). -/
def execCmp (h : Head) (o : SFmt) (s : State) : Host.Outcome State Fault Refusal :=
  scalarP h o s fun k t a b => condInt k (opd t a) (opd t b)
/-- test (R79). -/
def execTest (h : Head) (o : SFmt) (s : State) : Host.Outcome State Fault Refusal :=
  scalarP h o s fun k t a b => (lowN t (a &&& b) == 0) == (k == 0)
/-- sel: the selector holds when the predicate is true in a thread in which sel runs (R80). -/
def execSel (h : Head) (o : SrFmt) (s : State) : Host.Outcome State Fault Refusal :=
  slot h s fun c s =>
    let on := c.run &&& c.w.r.predMask (bits o.pos 4 0) != 0
    s.emitS 1 o.d (writeS o.ty (opd o.ty (c.w.r.sc (if on then o.a.toNat else o.b.toNat))))

/-! Moves and identifiers (R81, R82, R83, R102). -/

/-- mov (R81). -/
def execMov (h : Head) (o : SFmt) (s : State) : Host.Outcome State Fault Refusal :=
  match o with
  | .r o => scalar1 h o s opd
  | .i o => slot h s fun _ s => s.emitS 1 o.d (writeS o.ty (opd o.ty (o.imm.signExtend 64)))
/-- movw: a zero-extended 32-bit immediate (R82). -/
def execMovw (h : Head) (o : SlFmt) (s : State) : Host.Outcome State Fault Refusal :=
  slot h s fun _ s => s.emitS 1 o.d (o.imm.zeroExtend 64)
/-- movw.hi: the upper half, the lower half kept (R82). -/
def execMovwHi (h : Head) (o : SlFmt) (s : State) : Host.Outcome State Fault Refusal :=
  slot h s fun c s => s.emitS 1 o.d (o.imm ++ (c.w.r.sc o.d.toNat).extractLsb' 0 32)

/-- Identifier `k` of a wave (R83, R102). -/
def State.ident (s : State) (c : Ctx) (k : Nat) : Nat :=
  match c.fl.owner with
  | .line l =>
    if k == 2 || k == 3 then l
    else if k == 16 then (((s.line l).run).map fun r => r.entry.toNat).getD 0 else 0
  | .wave _ =>
    let g := s.group? c.w.group
    let gr := g.bind fun g => s.grid? g.grid
    let core := (g.map fun g => g.core).getD 0
    let lin := (g.map fun g => g.lin).getD 0
    let nx := (gr.map fun g => g.nx).getD 1
    let ny := (gr.map fun g => g.ny).getD 1
    match k with
    | 0 => core / 96
    | 1 => core / 8 % 12
    | 2 => core % 8
    | 3 => core
    | 4 => c.w.index
    | 5 => lin % nx
    | 6 => lin / nx % ny
    | 7 => lin / (nx * ny)
    | 8 => nx
    | 9 => ny
    | 10 => (gr.map fun g => g.nz).getD 1
    | 11 => (gr.map fun g => g.kd.waves).getD 0
    | 12 => (gr.map fun g => g.slot).getD 0
    | 13 => (gr.map fun g => g.region.toNat).getD 0
    | 14 => (gr.map fun g => g.launch.toNat).getD 0
    | 15 => (g.map fun g => g.sbanks.length).getD 0
    | 16 => (gr.map fun g => g.kd.entry.toNat).getD 0
    | _ => 0
/-- getid (R83). -/
def execGetid (h : Head) (o : SiFmt) (s : State) : Host.Outcome State Fault Refusal :=
  slot h s fun c s => s.emitS 1 o.d (BitVec.ofNat 64 (s.ident c o.imm.toNat))

/-! Mode and flags (R85, R86). -/

/-- The mode after setmode: a reserved RM is never taken on (R85). -/
def newMode (old v k : BitVec 5) : BitVec 5 :=
  let n := (old &&& ~~~k) ||| (v &&& k)
  if 4 < bits n 2 0 then (n &&& 0x18#5) ||| (old &&& 7#5) else n
/-- setmode (R85). The spec does not say what two setmodes of one group make of MODE: the model's choice is that each
computes from the mode before the group and the last one's word holds (DESIGN CHOICE, log entry 99). -/
def execSetmode (h : Head) (o : SFmt) (s : State) : Host.Outcome State Fault Refusal :=
  slot h s fun c s =>
    let d := (c.sOps o).2.1
    let vk : BitVec 5 × BitVec 5 := match o with
      | .r o => ((c.w.r.sc o.a.toNat).setWidth 5, (c.w.r.sc o.b.toNat).setWidth 5)
      | .i o => (o.imm.extractLsb' 0 5, o.imm.extractLsb' 8 5)
    (s.modFlight fun fl => { fl with mode := some (newMode c.w.r.mode vk.1 vk.2) }).emitS 1 d (c.w.r.mode.zeroExtend 64)
/-- Flags among some writes. -/
def flagsOf (l : List RegWrite) : BitVec 5 :=
  l.foldl (fun (f : BitVec 5) w => match w with | .flags x => f ||| x | _ => f) 0
def RegWrite.isFlags : RegWrite → Bool
  | .flags _ => true
  | _ => false
/-- On a line core the flags whose raising operations' latencies have elapsed by the cycle in which an operation issues
land before it (R87), those of its own group too. -/
def State.landFlags (s : State) (c : Ctx) (k : Nat) : State :=
  let t := (s.line k).cnt + c.fl.cur.1
  let due (p : Landing) : Bool := p.w.isFlags && p.cycle ≤ t
  let own (x : LatWrite) : Bool := x.w.isFlags && x.lat ≤ c.fl.cur.1
  let f := flagsOf (((s.line k).pend.filter due).map fun p => p.w) ||| flagsOf ((c.fl.writes.filter own).map fun x => x.w)
  let s := s.modLine k fun (l : LineCore) =>
    { l with pend := l.pend.filter fun p => !due p,
             wave := l.wave.map fun w => { w with r := { w.r with flags := w.r.flags ||| f } } }
  s.modFlight fun fl => { fl with writes := fl.writes.filter fun x => !own x }
/-- rdfl: reads the flag word, then clears the flags selected (R86). On a line core the read and the clear take place in
the cycle in which rdfl issues (R87). -/
def execRdfl (h : Head) (o : SrFmt) (s : State) : Host.Outcome State Fault Refusal :=
  slot h s fun c s =>
    match c.fl.owner with
    | .wave _ =>
      (s.modFlight fun fl => { fl with cleared := fl.cleared ||| o.pos.setWidth 5 }).emitS 1 o.d (c.w.r.flags.zeroExtend 64)
    | .line k =>
      let s := s.landFlags c k
      let f := ((s.line k).wave.map fun w => w.r.flags).getD 0
      let s := s.modLine k fun (l : LineCore) =>
        { l with wave := l.wave.map fun w => { w with r := { w.r with flags := w.r.flags &&& ~~~(o.pos.setWidth 5) } } }
      s.emitS 1 o.d (f.zeroExtend 64)

/-! Branch targets (R88, R89). -/

/-- The write of a branch-target register and the start of its fill (R29, R30). -/
def State.emitB (s : State) (bt : BitVec 3) (x : Dword) : State :=
  (s.emit 1 (.b bt (x &&& ~~~(0x3C#64)))).modFlight fun fl => { fl with fills := fl.fills ++ [(bt, x &&& ~~~(0x3C#64))] }
/-- pbr: a target relative to the bundle, depth 3 (R54, R88). -/
def execPbr (h : Head) (o : SbFmt) (s : State) : Host.Outcome State Fault Refusal :=
  slot h s fun c s => s.emitB o.bt (btAddr (c.addr + (o.off.signExtend 64) * 64) ||| 3)
/-- pbrx: address and depth from a scalar (R89). -/
def execPbrx (h : Head) (o : SxFmt) (s : State) : Host.Outcome State Fault Refusal :=
  slot h s fun c s => s.emitB o.bt (c.w.r.sc o.a.toNat)
/-- mfb: the register's address and depth (R89). -/
def execMfb (h : Head) (o : SxFmt) (s : State) : Host.Outcome State Fault Refusal :=
  slot h s fun c s => s.emitS 1 o.a (c.w.r.bt o.bt.toNat)

/-! Control operations (R90 to R95). -/

/-- The threads of a control operation: on a line core thread 0 decides for all (R383). -/
def Ctx.ctlRun (c : Ctx) : Mask :=
  if c.prof == .d then (if c.run.getLsbD 0 then c.fl.lanes else 0) else c.run
/-- loop: the entry pushed after the group, or the skip of a body due no run (R91, R92). -/
def execLoop (h : Head) (o : SlpFmt) (s : State) : Host.Outcome State Fault Refusal :=
  slot h s fun c s =>
    let start := c.lastAddr + 64
    let cnt : Word := if o.i then o.cnt.zeroExtend 32 else (c.w.r.sc o.a.toNat).setWidth 32
    let m := c.ctlRun
    if m == 0 then s
    else s.modFlight fun fl => { fl with ctl := .loop m start (start + 64 * o.off.zeroExtend 64) cnt }
/-- call: transfer to a branch target, the return address in the link register (R93). -/
def execCall (h : Head) (o : SxFmt) (s : State) : Host.Outcome State Fault Refusal :=
  slot h s fun c s =>
    let m := c.ctlRun
    if m == 0 then s
    else (s.modFlight fun fl => { fl with ctl := .call m (btAddr (c.w.r.bt o.bt.toNat)) o.bt }).emitS 1 o.a (c.lastAddr + 64)
/-- ret: transfer to a branch target (R93). -/
def execRet (h : Head) (o : SxFmt) (s : State) : Host.Outcome State Fault Refusal :=
  slot h s fun c s =>
    let m := c.ctlRun
    if m == 0 then s
    else s.modFlight fun fl => { fl with ctl := .call m (btAddr (c.w.r.bt o.bt.toNat)) o.bt }
/-- exit: the threads end after the group, at the address of the bundle that holds it (R95). -/
def execExit (h : Head) (s : State) : Host.Outcome State Fault Refusal :=
  slot h s fun c s =>
    let m := c.ctlRun
    if m == 0 then s else s.modFlight fun fl => { fl with ctl := .exit m c.addr }

end Sys2Proof.Machine
end

