-- ==== Sys2Proof/Machine/Vector.lean ====
section
/-! DEFINITION. The element-wise operations of the V slots (06_vector_and_wave_instructions.md R155 to R185)
and the exchanges between lanes (R186 to R188), with the block scales of R342 and R343. -/
namespace Sys2Proof.Machine
open Sys2Proof

/-! One lane at a time. -/

/-- A line made of the values of the running lanes, in lane order, with the numeric context carried along. -/
def laneFold (run : Mask) (n : NumCtx) (f : NumCtx → Fin 32 → NumCtx × Word) : NumCtx × Line :=
  run.list.foldl (fun (a : NumCtx × Line) (i : Fin 32) =>
    let r := f a.1 i
    (r.1, a.2.set i.val r.2 i.isLt)) (n, Line.fill 0)

/-- A V operation that writes v[D] lane by lane (R155). -/
def vecOp (h : Head) (o : VFmt) (lat : Nat) (s : State) (f : Ctx → Fin 32 → Word) : Host.Outcome State Fault Refusal :=
  slot h s fun c s => s.emitV lat o.d c.run (Line.build (f c))
/-- A V operation that writes Pred(D) lane by lane. -/
def vecP (h : Head) (o : VFmt) (s : State) (f : Ctx → Fin 32 → Bool) : Host.Outcome State Fault Refusal :=
  slot h s fun c s => s.emitP 2 (o.d.setWidth 5) c.run (Mask.build (f c))

/-- Elements of the running lane combined one by one (R157). -/
def elemWise (t : Ty) (f : Nat → Nat) : Word := wordOf t.width ((List.range (elemCount t)).map f)

/-- An integer element-wise operation on OpA, OpB, OpC: results are cut to the width (R158). -/
def vecInt (h : Head) (o : VFmt) (lat : Nat) (s : State) (f : Int → Int → Int → Int) : Host.Outcome State Fault Refusal :=
  vecOp h o lat s fun c i => elemWise o.ty fun j =>
    let w := o.ty.width
    truncN w (f (iv o.ty (elem w ((c.va o).get i) j)) (iv o.ty (elem w ((c.vb o).get i) j))
      (iv o.ty (elem w ((c.vc o).get i) j)))
/-- A bit-wise operation on the elements of OpA and OpB as numbers of the width. -/
def vecBits (h : Head) (o : VFmt) (s : State) (f : Nat → Nat → Nat → Nat) : Host.Outcome State Fault Refusal :=
  vecOp h o 2 s fun c i => elemWise o.ty fun j =>
    let w := o.ty.width
    f w (elem w ((c.va o).get i) j) (elem w ((c.vb o).get i) j)

/-- A floating-point element-wise operation: inputs flushed, one result an element (R158). -/
def vecFlt (h : Head) (o : VFmt) (lat : Nat) (s : State)
    (f : NumCtx → Fm → Rm → Bool → Nat → Nat → Nat → NumCtx × Nat) : Host.Outcome State Fault Refusal :=
  slot h s fun c s =>
    let fm := (fmOf o.ty).getD fmF32
    let md := modeOf c.w.r.mode o.md
    let fz := fzOf c.w.r.mode o.ty
    let w := o.ty.width
    let r := laneFold c.run c.num fun n i =>
      let es := (List.range (elemCount o.ty)).foldl (fun (a : NumCtx × List Nat) j =>
        let e := f a.1 fm md fz (elem w ((c.va o).get i) j) (elem w ((c.vb o).get i) j) (elem w ((c.vc o).get i) j)
        (e.1, a.2 ++ [e.2])) (n, [])
      (es.1, wordOf w es.2)
    (s.putNum lat r.1).emitV lat o.d c.run r.2

/-! Arithmetic (R161 to R165). -/

/-- Addition of two values rounded once. -/
def fltAdd (n : NumCtx) (fm : Fm) (md : Rm) (fz : Bool) (a b : FVal) : NumCtx × Nat :=
  n.sumTo fm md fz false [some a, some b]
/-- Multiplication rounded once. -/
def fltMul (n : NumCtx) (fm : Fm) (md : Rm) (fz : Bool) (a b : FVal) : NumCtx × Nat :=
  match fmul a b with
  | none => n.putNan fm md fNV
  | some x => n.convTo fm md fz x
/-- Division (R164). -/
def fltDiv (n : NumCtx) (fm : Fm) (md : Rm) (fz : Bool) (a b : FVal) : NumCtx × Nat :=
  match a, b with
  | .nan, _ | _, .nan => n.putNan fm md 0
  | .inf _, .inf _ => n.putNan fm md fNV
  | .inf m, .num k _ => n.putInf fm md (m != k) 0
  | .num m _, .inf k => (n.skip md, fm.signBit (m != k))
  | .num m x, .num k y =>
    if y == 0 then (if x == 0 then n.putNan fm md fNV else n.putInf fm md (m != k) fDZ)
    else n.roundTo fm md fz (m != k) (x / y)
/-- An encoding with a subnormal read as a zero of its sign (R147). -/
def flushBits (fm : Fm) (fz : Bool) (x : Nat) : Nat :=
  if fz && x / 2 ^ fm.fw % 2 ^ fm.ew == 0 then x / 2 ^ (fm.ew + fm.fw) * 2 ^ (fm.ew + fm.fw) else x
/-- The order of encodings that are not NaN, −0 below +0 (R162). -/
def fltKey (fm : Fm) (x : Nat) : Int :=
  let m := x % 2 ^ (fm.ew + fm.fw)
  if x / 2 ^ (fm.ew + fm.fw) % 2 == 1 then -(m : Int) - 1 else m
/-- Minimum or maximum of two encodings (R162). -/
def fltPick (fm : Fm) (fz mx : Bool) (a b : Nat) : Nat :=
  let x := flushBits fm fz a
  let y := flushBits fm fz b
  match (fm.read false x).isNan, (fm.read false y).isNan with
  | true, true => fm.nan
  | true, false => y
  | false, true => x
  | false, false => if (fltKey fm x < fltKey fm y) != mx then x else y
/-- vrint of an element (R165). -/
def fltRint (n : NumCtx) (fm : Fm) (md : Rm) (fz : Bool) (x : Nat) : NumCtx × Nat :=
  let d := n.drawIf md
  let y := flushBits fm fz x
  match fm.read false y with
  | .nan => (d.2, fm.nan)
  | .inf _ => (d.2, y)
  | .num neg v =>
    if v == 0 || decide ((2 ^ fm.fw : Nat) ≤ (if neg then -v else v)) then (d.2, y)
    else
      let k := roundInt v md d.1
      (if (k : Rat) == v then d.2 else d.2.raise fNX,
       if k == 0 then fm.signBit neg else (fm.round .rne false 0 (k : Rat)).1)
/-- vfract of an element (R165). -/
def fltFract (n : NumCtx) (fm : Fm) (md : Rm) (fz : Bool) (x : Nat) : NumCtx × Nat :=
  match fm.read fz x with
  | .nan => n.putNan fm md 0
  | .inf _ => n.putNan fm md fNV
  | .num _ v =>
    let r := n.roundTo fm md fz false (v - v.floor)
    let one := fm.bias * 2 ^ fm.fw
    if r.2 == one then (r.1.raise fNX, one - 1) else r
/-- vldexp of an element (R165): counts past every format's range stand for any beyond. -/
def fltLdexp (n : NumCtx) (fm : Fm) (md : Rm) (fz : Bool) (x k : Nat) : NumCtx × Nat :=
  let e := saturate (sInt fm.width k) (-700) 700
  let y := flushBits fm fz x
  match fm.read false y with
  | .nan => n.putNan fm md 0
  | .inf _ => (n.skip md, y)
  | .num neg v => if v == 0 then (n.skip md, y) else n.roundTo fm md fz neg (v * pow2 e)

/-- vadd (R161). -/
def execVadd (h : Head) (o : VFmt) (s : State) : Host.Outcome State Fault Refusal :=
  if o.ty.isInt then vecInt h o 2 s fun a b _ => a + b
  else vecFlt h o 4 s fun n fm md fz a b _ => fltAdd n fm md fz (fm.read fz a) (fm.read fz b)
/-- vsub (R161). -/
def execVsub (h : Head) (o : VFmt) (s : State) : Host.Outcome State Fault Refusal :=
  if o.ty.isInt then vecInt h o 2 s fun a b _ => a - b
  else vecFlt h o 4 s fun n fm md fz a b _ => fltAdd n fm md fz (fm.read fz a) (fm.read fz b).negate
/-- vmul (R161). -/
def execVmul (h : Head) (o : VFmt) (s : State) : Host.Outcome State Fault Refusal :=
  if o.ty.isInt then vecInt h o 4 s fun a b _ => a * b
  else vecFlt h o 4 s fun n fm md fz a b _ => fltMul n fm md fz (fm.read fz a) (fm.read fz b)
/-- vmulh (R161). -/
def execVmulh (h : Head) (o : VFmt) (s : State) : Host.Outcome State Fault Refusal :=
  vecInt h o 4 s fun a b _ => (a * b).fdiv (2 ^ o.ty.width)
/-- vfma (R152, R161). -/
def execVfma (h : Head) (o : VFmt) (s : State) : Host.Outcome State Fault Refusal :=
  if o.ty.isInt then vecInt h o 4 s fun a b c => a * b + c
  else vecFlt h o 4 s fun n fm md fz a b c =>
    n.sumTo fm md fz false [fmul (fm.read fz a) (fm.read fz b), some (fm.read fz c)]
/-- vmin (R162). -/
def execVmin (h : Head) (o : VFmt) (s : State) : Host.Outcome State Fault Refusal :=
  if o.ty.isInt then vecInt h o 2 s fun a b _ => min a b
  else vecFlt h o 4 s fun n fm _ fz a b _ => (n, fltPick fm fz false a b)
/-- vmax (R162). -/
def execVmax (h : Head) (o : VFmt) (s : State) : Host.Outcome State Fault Refusal :=
  if o.ty.isInt then vecInt h o 2 s fun a b _ => max a b
  else vecFlt h o 4 s fun n fm _ fz a b _ => (n, fltPick fm fz true a b)
/-- vabs (R161, R163). -/
def execVabs (h : Head) (o : VFmt) (s : State) : Host.Outcome State Fault Refusal :=
  if o.ty.isInt then vecInt h o 2 s fun a _ _ => (a.natAbs : Int)
  else vecBits h o s fun w a _ => a % 2 ^ (w - 1)
/-- vneg (R161, R163). -/
def execVneg (h : Head) (o : VFmt) (s : State) : Host.Outcome State Fault Refusal :=
  if o.ty.isInt then vecInt h o 2 s fun a _ _ => -a
  else vecBits h o s fun w a _ => a ^^^ 2 ^ (w - 1)
/-- vadds (R161). -/
def execVadds (h : Head) (o : VFmt) (s : State) : Host.Outcome State Fault Refusal :=
  vecInt h o 2 s fun a b _ => saturate (a + b) (intLo o.ty.width o.ty.signed) (intHi o.ty.width o.ty.signed)
/-- vsubs (R161). -/
def execVsubs (h : Head) (o : VFmt) (s : State) : Host.Outcome State Fault Refusal :=
  vecInt h o 2 s fun a b _ => saturate (a - b) (intLo o.ty.width o.ty.signed) (intHi o.ty.width o.ty.signed)
/-- vdiv (R164). -/
def execVdiv (h : Head) (o : VFmt) (s : State) : Host.Outcome State Fault Refusal :=
  vecFlt h o 12 s fun n fm md fz a b _ => fltDiv n fm md fz (fm.read fz a) (fm.read fz b)
/-- vrint (R165). -/
def execVrint (h : Head) (o : VFmt) (s : State) : Host.Outcome State Fault Refusal :=
  vecFlt h o 4 s fun n fm md fz a _ _ => fltRint n fm md fz a
/-- vfract (R165). -/
def execVfract (h : Head) (o : VFmt) (s : State) : Host.Outcome State Fault Refusal :=
  vecFlt h o 4 s fun n fm md fz a _ _ => fltFract n fm md fz a
/-- vldexp (R165). -/
def execVldexp (h : Head) (o : VFmt) (s : State) : Host.Outcome State Fault Refusal :=
  vecFlt h o 4 s fun n fm md fz a b _ => fltLdexp n fm md fz a b

/-! Bitwise, shift and bit-field operations (R166 to R168). -/

/-- vand (R166). -/
def execVand (h : Head) (o : VFmt) (s : State) : Host.Outcome State Fault Refusal :=
  vecOp h o 2 s fun c i => (c.va o).get i &&& (c.vb o).get i
/-- vor (R166). -/
def execVor (h : Head) (o : VFmt) (s : State) : Host.Outcome State Fault Refusal :=
  vecOp h o 2 s fun c i => (c.va o).get i ||| (c.vb o).get i
/-- vxor (R166). -/
def execVxor (h : Head) (o : VFmt) (s : State) : Host.Outcome State Fault Refusal :=
  vecOp h o 2 s fun c i => (c.va o).get i ^^^ (c.vb o).get i
/-- vandn (R166). -/
def execVandn (h : Head) (o : VFmt) (s : State) : Host.Outcome State Fault Refusal :=
  vecOp h o 2 s fun c i => (c.va o).get i &&& ~~~(c.vb o).get i
/-- vnot (R166). -/
def execVnot (h : Head) (o : VFmt) (s : State) : Host.Outcome State Fault Refusal :=
  vecOp h o 2 s fun c i => ~~~(c.va o).get i
/-- vshl (R75, R166). -/
def execVshl (h : Head) (o : VFmt) (s : State) : Host.Outcome State Fault Refusal := vecBits h o s shlN
/-- vshr (R75, R166). -/
def execVshr (h : Head) (o : VFmt) (s : State) : Host.Outcome State Fault Refusal := vecBits h o s shrN
/-- vsar (R75, R166). -/
def execVsar (h : Head) (o : VFmt) (s : State) : Host.Outcome State Fault Refusal := vecBits h o s sarN
/-- vrol (R75, R166). -/
def execVrol (h : Head) (o : VFmt) (s : State) : Host.Outcome State Fault Refusal := vecBits h o s rolN
/-- Position and length of a field (R167). -/
def fieldOf (b c : Word) : Nat × Nat := (b.toNat % 32, min (c.toNat % 64) (32 - b.toNat % 32))
/-- vbfx (R167). -/
def execVbfx (h : Head) (o : VFmt) (s : State) : Host.Outcome State Fault Refusal :=
  vecOp h o 2 s fun c i =>
    let p := fieldOf ((c.vb o).get i) ((c.vc o).get i)
    let f := ((c.va o).get i).toNat / 2 ^ p.1 % 2 ^ p.2
    if p.2 == 0 then 0 else if o.ty.signed then BitVec.ofInt 32 (sInt p.2 f) else BitVec.ofNat 32 f
/-- vbfi (R167). -/
def execVbfi (h : Head) (o : VFmt) (s : State) : Host.Outcome State Fault Refusal :=
  vecOp h o 2 s fun c i =>
    let p := fieldOf ((c.vb o).get i) ((c.vc o).get i)
    let old := (c.w.r.vec o.d.toNat).get i
    let m : Word := BitVec.ofNat 32 ((2 ^ p.2 - 1) * 2 ^ p.1)
    (old &&& ~~~m) ||| (((c.va o).get i <<< p.1) &&& m)
/-- vpopc (R166). -/
def execVpopc (h : Head) (o : VFmt) (s : State) : Host.Outcome State Fault Refusal := vecBits h o s fun w a _ => popN w a
/-- vclz (R166). -/
def execVclz (h : Head) (o : VFmt) (s : State) : Host.Outcome State Fault Refusal := vecBits h o s fun w a _ => clzN w a
/-- vbrev (R166). -/
def execVbrev (h : Head) (o : VFmt) (s : State) : Host.Outcome State Fault Refusal := vecBits h o s fun w a _ => brevN w a
/-- vsel (R168). -/
def execVsel (h : Head) (o : VFmt) (s : State) : Host.Outcome State Fault Refusal :=
  vecOp h o 2 s fun c i => if c.w.r.pred (srcNum o.c) i then (c.va o).get i else (c.vb o).get i
/-- vmov (R166). -/
def execVmov (h : Head) (o : VFmt) (s : State) : Host.Outcome State Fault Refusal := vecOp h o 2 s fun c i => (c.vb o).get i

/-! Comparison and classification (R169 to R171). -/

/-- An f32 comparison (R170): codes of MOD. -/
def condFlt (k : Nat) (a b : FVal) : Bool :=
  if a.isNan || b.isNan then k == 1 || k == 7
  else
    let key : FVal → Int × Rat := fun x => match x with
      | .nan => (0, 0) | .inf n => (if n then -1 else 1, 0) | .num _ v => (0, v)
    let x := key a
    let y := key b
    let lt := decide (x.1 < y.1) || (x.1 == y.1 && decide (x.2 < y.2))
    let eq := x == y
    match k with
    | 0 => eq | 1 => !eq | 2 => lt | 3 => lt || eq | 4 => !(lt || eq) | 5 => !lt | 6 => true | _ => false
/-- vcmp (R169, R170). -/
def execVcmp (h : Head) (o : VFmt) (s : State) : Host.Outcome State Fault Refusal :=
  vecP h o s fun c i =>
    let a := ((c.va o).get i).toNat
    let b := ((c.vb o).get i).toNat
    if o.ty == .f32 then
      let fz := fzOf c.w.r.mode .f32
      condFlt o.md.toNat (fmF32.read fz a) (fmF32.read fz b)
    else condInt o.md.toNat (iv o.ty a) (iv o.ty b)
/-- ClassBit of an f32 encoding (R171). -/
def classBit (x : Nat) : Nat :=
  let neg := x / 2 ^ 31 == 1
  let e := x / 2 ^ 23 % 256
  let m := x % 2 ^ 23
  if e == 255 then (if m != 0 then 0 else if neg then 1 else 7)
  else if e != 0 then (if neg then 2 else 6)
  else if m == 0 then 4 else if neg then 3 else 5
/-- vclass (R171). -/
def execVclass (h : Head) (o : VFmt) (s : State) : Host.Outcome State Fault Refusal :=
  vecP h o s fun c i => o.c.getLsbD (classBit ((c.va o).get i).toNat)
/-- vtest (R169). -/
def execVtest (h : Head) (o : VFmt) (s : State) : Host.Outcome State Fault Refusal :=
  vecP h o s fun c i => ((c.va o).get i &&& (c.vb o).get i == 0) == (o.md == 0)

/-! Widening arithmetic and dot products (R172 to R174). -/

/-- Sum over the elements of a type. -/
def sumElems (t : Ty) (f : Nat → Int) : Int := ((List.range (elemCount t)).map f).foldl (· + ·) 0
/-- vsad (R172). -/
def execVsad (h : Head) (o : VFmt) (s : State) : Host.Outcome State Fault Refusal :=
  vecOp h o 5 s fun c i =>
    let w := o.ty.width
    BitVec.ofInt 32 (((c.vc o).get i).toNat + sumElems o.ty fun j =>
      ((iv o.ty (elem w ((c.va o).get i) j) - iv o.ty (elem w ((c.vb o).get i) j)).natAbs : Int))
/-- The widened products of a lane as one 64-bit number (R173): element j at width 2W. -/
def wideProducts (c : Ctx) (o : VFmt) (i : Fin 32) (add : Bool) : Nat :=
  let w := o.ty.width
  let acc := ((c.vc o).get i).toNat + ((c.vc o 1).get i).toNat * 2 ^ 32
  ((List.range (elemCount o.ty)).map fun j =>
    let e := acc / 2 ^ (2 * w * j) % 2 ^ (2 * w)
    let p := iv o.ty (elem w ((c.va o).get i) j) * iv o.ty (elem w ((c.vb o).get i) j)
    let a := if add then (if o.ty.signed then sInt (2 * w) e else (e : Int)) else 0
    truncN (2 * w) (p + a) * 2 ^ (2 * w * j)).foldl (· + ·) 0
/-- A widening operation writes the pair v[D], v[D + 1]. -/
def vecWide (h : Head) (o : VFmt) (add : Bool) (s : State) : Host.Outcome State Fault Refusal :=
  slot h s fun c s =>
    (s.emitV 5 o.d c.run (Line.build fun i => BitVec.ofNat 32 (wideProducts c o i add))).emitV 5 (o.d + 1) c.run
      (Line.build fun i => BitVec.ofNat 32 (wideProducts c o i add / 2 ^ 32))
/-- vmulw (R173). -/
def execVmulw (h : Head) (o : VFmt) (s : State) : Host.Outcome State Fault Refusal := vecWide h o false s
/-- vmadw (R173). -/
def execVmadw (h : Head) (o : VFmt) (s : State) : Host.Outcome State Fault Refusal := vecWide h o true s
/-- A dot product with accumulator (R174). -/
def vecDot (h : Head) (o : VFmt) (s : State) : Host.Outcome State Fault Refusal :=
  let w := o.ty.width
  if o.ty.isInt then
    vecOp h o 5 s fun c i =>
      let acc : Int := if o.ty.signed then sInt 32 ((c.vc o).get i).toNat else ((c.vc o).get i).toNat
      BitVec.ofInt 32 (acc + sumElems o.ty fun j =>
        iv o.ty (elem w ((c.va o).get i) j) * iv o.ty (elem w ((c.vb o).get i) j))
  else
    slot h s fun c s =>
      let fm := (fmOf o.ty).getD fmF32
      let md := modeOf c.w.r.mode o.md
      let fz := fzOf c.w.r.mode o.ty
      let fz32 := fzOf c.w.r.mode .f32
      let r := laneFold c.run c.num fun n i =>
        let ps := (List.range (elemCount o.ty)).map fun j =>
          fmul (fm.read fz (elem w ((c.va o).get i) j)) (fm.read fz (elem w ((c.vb o).get i) j))
        let e := n.sumTo fmF32 md fz32 false (ps ++ [some (fmF32.read fz32 ((c.vc o).get i).toNat)])
        (e.1, BitVec.ofNat 32 e.2)
      (s.putNum 5 r.1).emitV 5 o.d c.run r.2
/-- vdp4 (R174). -/
def execVdp4 (h : Head) (o : VFmt) (s : State) : Host.Outcome State Fault Refusal := vecDot h o s
/-- vdp2 (R174): the same sum over two elements. -/
def execVdp2 (h : Head) (o : VFmt) (s : State) : Host.Outcome State Fault Refusal := vecDot h o s

/-! Conversion and packing (R175 to R178). -/

/-- Conversion of one element between types (R149, R150). -/
def convElem (n : NumCtx) (mode : BitVec 5) (md : Rm) (src dst : Ty) (x : Nat) : NumCtx × Nat :=
  match fmOf src, fmOf dst with
  | none, none => (n, truncN dst.width (iv src x))
  | none, some f => n.roundTo f md (fzOf mode dst) false (iv src x : Rat)
  | some f, none =>
    let r := n.toInt (f.read (fzOf mode src) x) dst.width dst.signed md
    (r.1, truncN dst.width r.2)
  | some f, some g => n.convTo g md (fzOf mode dst) (f.read (fzOf mode src) x)
/-- Element j of a word replaced. -/
def putElem (w : Nat) (x : Word) (j e : Nat) : Word :=
  let m : Word := BitVec.ofNat 32 ((2 ^ w - 1) * 2 ^ (w * j))
  (x &&& ~~~m) ||| BitVec.ofNat 32 (e % 2 ^ w * 2 ^ (w * j))
/-- vcvt (R175). -/
def execVcvt (h : Head) (o : VFmt) (s : State) : Host.Outcome State Fault Refusal :=
  slot h s fun c s =>
    let src := (Ty.ofCode (o.c.extractLsb' 0 4)).getD .i8
    let md := modeOf c.w.r.mode o.md
    let r := laneFold c.run c.num fun n i =>
      let e := convElem n c.w.r.mode md src o.ty (elem src.width ((c.va o).get i) (bits o.c 5 4))
      (e.1, putElem o.ty.width ((c.w.r.vec o.d.toNat).get i) (bits o.c 7 6) e.2)
    (s.putNum 4 r.1).emitV 4 o.d c.run r.2
/-- vpack (R176). -/
def execVpack (h : Head) (o : VFmt) (s : State) : Host.Outcome State Fault Refusal :=
  slot h s fun c s =>
    let md := modeOf c.w.r.mode o.md
    let w := o.ty.width
    let conv (n : NumCtx) (x : Word) : NumCtx × Nat :=
      if o.ty.isInt then (n, truncN w (saturate (sInt 32 x.toNat) (intLo w o.ty.signed) (intHi w o.ty.signed)))
      else convElem n c.w.r.mode md .f32 o.ty x.toNat
    let r := laneFold c.run c.num fun n i =>
      let a := conv n ((c.va o).get i)
      let b := conv a.1 ((c.vb o).get i)
      if w == 16 then (b.1, wordOf 16 [a.2, b.2])
      else
        let k := 2 * (o.c.toNat % 2)
        (b.1, putElem 8 (putElem 8 ((c.w.r.vec o.d.toNat).get i) k a.2) (k + 1) b.2)
    (s.putNum 4 r.1).emitV 4 o.d c.run r.2
/-- vunpk (R177): a widening, which rounds nothing and draws nothing. -/
def execVunpk (h : Head) (o : VFmt) (s : State) : Host.Outcome State Fault Refusal :=
  vecOp h o 4 s fun c i =>
    let x := elem o.ty.width ((c.va o).get i) o.c.toNat
    match fmOf o.ty with
    | none => BitVec.ofInt 32 (iv o.ty x)
    | some f =>
      BitVec.ofNat 32 (({ flags := 0, st := c.fl.stoch } : NumCtx).convTo fmF32 .rne (fzOf c.w.r.mode .f32)
        (f.read (fzOf c.w.r.mode o.ty) x)).2
/-- vbyte (R178). -/
def execVbyte (h : Head) (o : VFmt) (s : State) : Host.Outcome State Fault Refusal :=
  vecOp h o 4 s fun c i =>
    let q := ((c.va o).get i).toNat + ((c.vb o).get i).toNat * 2 ^ 32
    wordOf 8 ((List.range 4).map fun k =>
      let x := elem 8 ((c.vc o).get i) k
      if 128 ≤ x then 0 else q / 2 ^ (8 * (x % 8)) % 256)

/-! Transcendental functions (R179). -/

/-- A function of the V1 slot. -/
def vecFn (h : Head) (o : VFmt) (k : Fn) (s : State) : Host.Outcome State Fault Refusal :=
  vecFlt h o 12 s fun n fm md fz a _ _ => n.fn k fm md fz (fm.read fz a)
/-- vrcp (R179). -/
def execVrcp (h : Head) (o : VFmt) (s : State) : Host.Outcome State Fault Refusal := vecFn h o .rcp s
/-- vrsq (R179). -/
def execVrsq (h : Head) (o : VFmt) (s : State) : Host.Outcome State Fault Refusal := vecFn h o .rsq s
/-- vsqrt (R179). -/
def execVsqrt (h : Head) (o : VFmt) (s : State) : Host.Outcome State Fault Refusal := vecFn h o .sqrt s
/-- vexp2 (R179). -/
def execVexp2 (h : Head) (o : VFmt) (s : State) : Host.Outcome State Fault Refusal := vecFn h o .exp2 s
/-- vlog2 (R179). -/
def execVlog2 (h : Head) (o : VFmt) (s : State) : Host.Outcome State Fault Refusal := vecFn h o .log2 s
/-- vsin (R179). -/
def execVsin (h : Head) (o : VFmt) (s : State) : Host.Outcome State Fault Refusal := vecFn h o .sin s
/-- vcos (R179). -/
def execVcos (h : Head) (o : VFmt) (s : State) : Host.Outcome State Fault Refusal := vecFn h o .cos s
/-- vtanh (R179). -/
def execVtanh (h : Head) (o : VFmt) (s : State) : Host.Outcome State Fault Refusal := vecFn h o .tanh s

/-! Carry-less products (R180). -/

/-- The 64-bit carry-less product. -/
def clmul (a b : Word) : Nat :=
  (List.range 32).foldl (fun x k => if b.getLsbD k then x ^^^ (a.toNat * 2 ^ k) else x) 0
/-- vclmul (R180). -/
def execVclmul (h : Head) (o : VFmt) (s : State) : Host.Outcome State Fault Refusal :=
  vecOp h o 4 s fun c i => BitVec.ofNat 32 (clmul ((c.va o).get i) ((c.vb o).get i))
/-- vclmulh (R180). -/
def execVclmulh (h : Head) (o : VFmt) (s : State) : Host.Outcome State Fault Refusal :=
  vecOp h o 4 s fun c i => BitVec.ofNat 32 (clmul ((c.va o).get i) ((c.vb o).get i) / 2 ^ 32)

/-! Ray tests (R181 to R184). -/

/-- Reals with infinities: −1, 0 or 1 for the infinite part, then the real. -/
abbrev ExtR := Int × Rat
def ExtR.le (a b : ExtR) : Bool := decide (a.1 < b.1) || (a.1 == b.1 && decide (a.2 ≤ b.2))
def ExtR.max (a b : ExtR) : ExtR := if ExtR.le a b then b else a
def ExtR.min (a b : ExtR) : ExtR := if ExtR.le a b then a else b
/-- The extended real of a value that is not NaN. -/
def FVal.ext : FVal → ExtR
  | .nan => (0, 0)
  | .inf n => (if n then -1 else 1, 0)
  | .num _ x => (0, x)
/-- (x − o) / d for a real o and a nonzero real d. -/
def extQuot (x : ExtR) (o d : Rat) : ExtR :=
  if x.1 == 0 then (0, (x.2 - o) / d) else (if d < 0 then -x.1 else x.1, 0)
/-- A value is infinite. -/
def FVal.isInf : FVal → Bool
  | .inf _ => true
  | _ => false

/-- The ray of a lane: origin, direction, tmax, and whether it is invalid (R182). -/
def rayOf (c : Ctx) (o : VFmt) (i : Fin 32) : List FVal × List FVal × FVal × Bool :=
  let rd (l : Line) := fmF32.read false (l.get i).toNat
  let org := (List.range 3).map fun k => rd (c.va o k)
  let dir := (List.range 3).map fun k => rd (c.vb o k)
  let tm := rd (c.va o 3)
  let bad := (org ++ dir).any (fun x => x.isNan || x.isInf) || dir.all (fun x => x.ext == (0, 0)) || tm.isNan
  (org, dir, tm, bad)
def ratOf (x : FVal) : Rat := x.ext.2
/-- Encoding of a real in f32 by a fixed mode, with no flags (R181). -/
def toF32 (md : Rm) (x : Rat) : Word := BitVec.ofNat 32 (fmF32.round md false 0 x).1

/-- vrbox of a lane: t and status, by the steps of R183. A box whose min exceeds its max is hit where the steps say so:
R9 makes the pseudocode the effect (log entry 64). A hit whose entry is infinite writes 0x7F800000 (log entry 122). -/
def rayBox (c : Ctx) (o : VFmt) (i : Fin 32) : Word × Word :=
  let r := rayOf c o i
  let box := (List.range 6).map fun k => fmF32.read false ((c.vc o k).get i).toNat
  if r.2.2.2 then (0x7F800000, 2)
  else if box.any (fun x => x.isNan) then (0x7F800000, 4)
  else
    let st := (List.range 3).foldl (fun (a : ExtR × ExtR × Bool) k =>
      let org := ratOf (r.1.getD k .nan)
      let d := ratOf (r.2.1.getD k .nan)
      let lo := (box.getD k .nan).ext
      let hi := (box.getD (k + 3) .nan).ext
      if d == 0 then
        (a.1, a.2.1, a.2.2 || !ExtR.le lo (0, org) || !ExtR.le (0, org) hi)
      else
        let t1 := extQuot lo org d
        let t2 := extQuot hi org d
        (ExtR.max a.1 (ExtR.min t1 t2), ExtR.min a.2.1 (ExtR.max t1 t2), a.2.2)) (((-1, 0), (1, 0), false))
    let tn := st.1
    let tf := st.2.1
    let ent := ExtR.max tn (0, 0)
    if !st.2.2 && ExtR.le tn tf && ExtR.le (0, 0) tf && ExtR.le ent r.2.2.1.ext then
      (if ent.1 == 1 then 0x7F800000 else toF32 .rdn ent.2, if ExtR.le (0, 0) tn then 1 else 9)
    else (0x7F800000, 0)

def dot3 (a b : List Rat) : Rat := a.getD 0 0 * b.getD 0 0 + a.getD 1 0 * b.getD 1 0 + a.getD 2 0 * b.getD 2 0
def cross3 (a b : List Rat) : List Rat :=
  let x := fun k => a.getD k 0
  let y := fun k => b.getD k 0
  [x 1 * y 2 - x 2 * y 1, x 2 * y 0 - x 0 * y 2, x 0 * y 1 - x 1 * y 0]
def sub3 (a b : List Rat) : List Rat := (List.range 3).map fun k => a.getD k 0 - b.getD k 0

/-- vrtri of a lane: t, status, u, w (R184). -/
def rayTri (c : Ctx) (o : VFmt) (i : Fin 32) : List Word :=
  let r := rayOf c o i
  let vs := (List.range 9).map fun k => fmF32.read false ((c.vc o k).get i).toNat
  if r.2.2.2 then [0x7F800000, 2, 0, 0]
  else if vs.any (fun x => x.isNan || x.isInf) then [0x7F800000, 4, 0, 0]
  else
    let v := vs.map ratOf
    let org := r.1.map ratOf
    let d := r.2.1.map ratOf
    let v0 := v.take 3
    let e1 := sub3 (v.drop 3) v0
    let e2 := sub3 (v.drop 6) v0
    let n := cross3 e1 e2
    let dn := dot3 d n
    if n.all (fun x => x == 0) || dn == 0 then [0x7F800000, 0, 0, 0]
    else
      let q := sub3 v0 org
      let t := dot3 q n / dn
      let p := (List.range 3).map fun k => org.getD k 0 + t * d.getD k 0 - v0.getD k 0
      let nn := dot3 n n
      let u := dot3 (cross3 p e2) n / nn
      let w := dot3 (cross3 e1 p) n / nn
      if decide (0 ≤ u) && decide (0 ≤ w) && decide (u + w ≤ 1) && decide (0 ≤ t) && ExtR.le (0, t) r.2.2.1.ext then
        [toF32 .rne t, if 0 < dn then 9 else 1, toF32 .rne u, toF32 .rne w]
      else [0x7F800000, 0, 0, 0]

/-- vrbox (R183). -/
def execVrbox (h : Head) (o : VFmt) (s : State) : Host.Outcome State Fault Refusal :=
  slot h s fun c s =>
    (s.emitV 8 o.d c.run (Line.build fun i => (rayBox c o i).1)).emitV 8 (o.d + 1) c.run
      (Line.build fun i => (rayBox c o i).2)
/-- vrtri (R184). -/
def execVrtri (h : Head) (o : VFmt) (s : State) : Host.Outcome State Fault Refusal :=
  slot h s fun c s =>
    (List.range 4).foldl (fun s k =>
      s.emitV 14 (o.d + BitVec.ofNat 7 k) c.run (Line.build fun i => (rayTri c o i).getD k 0)) s

/-! Predicate logic (R185). -/

/-- A predicate operation on PredOf(A) and PredOf(B). -/
def predOp2 (h : Head) (o : VFmt) (s : State) (f : Mask → Mask → Mask) : Host.Outcome State Fault Refusal :=
  slot h s fun c s =>
    s.emitP 2 (o.d.setWidth 5) c.run (f (c.w.r.predMask (srcNum o.a)) (c.w.r.predMask (srcNum o.b)))
/-- pand (R185). -/
def execPand (h : Head) (o : VFmt) (s : State) : Host.Outcome State Fault Refusal := predOp2 h o s fun a b => a &&& b
/-- por (R185). -/
def execPor (h : Head) (o : VFmt) (s : State) : Host.Outcome State Fault Refusal := predOp2 h o s fun a b => a ||| b
/-- pxor (R185). -/
def execPxor (h : Head) (o : VFmt) (s : State) : Host.Outcome State Fault Refusal := predOp2 h o s fun a b => a ^^^ b
/-- pandn (R185). -/
def execPandn (h : Head) (o : VFmt) (s : State) : Host.Outcome State Fault Refusal := predOp2 h o s fun a b => a &&& ~~~b
/-- pnot (R185). -/
def execPnot (h : Head) (o : VFmt) (s : State) : Host.Outcome State Fault Refusal := predOp2 h o s fun a _ => ~~~a
/-- pmov (R185). -/
def execPmov (h : Head) (o : VFmt) (s : State) : Host.Outcome State Fault Refusal := predOp2 h o s fun a _ => a
/-- pset (R185). -/
def execPset (h : Head) (o : VFmt) (s : State) : Host.Outcome State Fault Refusal :=
  predOp2 h o s fun _ _ => if bit o.c 0 then BitVec.allOnes 32 else 0

/-! Lane exchange (R186 to R188). -/

/-- Lane k of a line. -/
def laneAt (l : Line) (k : Nat) : Word := l.toList.getD (k % 32) 0
/-- vperm (R186). -/
def execVperm (h : Head) (o : VFmt) (s : State) : Host.Outcome State Fault Refusal :=
  vecOp h o 4 s fun c i => laneAt (c.va o) ((c.vb o).get i).toNat
/-- vrot (R186). -/
def execVrot (h : Head) (o : VFmt) (s : State) : Host.Outcome State Fault Refusal :=
  vecOp h o 4 s fun c i => laneAt (c.va o) (i.val + o.c.toNat)
/-- vshuf (R186). -/
def execVshuf (h : Head) (o : VFmt) (s : State) : Host.Outcome State Fault Refusal :=
  vecOp h o 4 s fun c i => laneAt (c.va o) (i.val ^^^ o.c.toNat)
/-- vbcast (R186). -/
def execVbcast (h : Head) (o : VFmt) (s : State) : Host.Outcome State Fault Refusal :=
  vecOp h o 4 s fun c _ => laneAt (c.va o) o.c.toNat
/-- vmatch (R186). -/
def execVmatch (h : Head) (o : VFmt) (s : State) : Host.Outcome State Fault Refusal :=
  vecOp h o 4 s fun c i => Mask.build fun j => c.run.has j && (c.va o).get j == (c.va o).get i
/-- vballot (R186). -/
def execVballot (h : Head) (o : VFmt) (s : State) : Host.Outcome State Fault Refusal :=
  vecOp h o 4 s fun c _ => c.run &&& c.w.r.predMask (srcNum o.a)
/-- vlane (R186). -/
def execVlane (h : Head) (o : VFmt) (s : State) : Host.Outcome State Fault Refusal :=
  slot h s fun c s => s.emitS 4 (o.d.setWidth 6) ((laneAt (c.va o) o.c.toNat).zeroExtend 64)
/-- vfirst (R186). -/
def execVfirst (h : Head) (o : VFmt) (s : State) : Host.Outcome State Fault Refusal :=
  slot h s fun c s =>
    s.emitS 4 (o.d.setWidth 6)
      (match (c.run &&& c.w.r.predMask (srcNum o.a)).lowest with | some j => BitVec.ofNat 64 j.val | none => 32)

/-- One combination step of an integer scan or of an f32 min or max (R187). -/
def scanStep (t : Ty) (fz : Bool) (op : Nat) (a b : Word) : Word :=
  if t == .f32 then BitVec.ofNat 32 (fltPick fmF32 fz (op == 2) a.toNat b.toNat)
  else
    let x := iv t a.toNat
    let y := iv t b.toNat
    match op with
    | 0 => a + b
    | 1 => if x ≤ y then a else b
    | 2 => if y ≤ x then a else b
    | 3 => a &&& b
    | 4 => a ||| b
    | _ => a ^^^ b
/-- The identity of a combination (R187). -/
def scanIdentity (t : Ty) (op : Nat) : Word :=
  match op, t with
  | 1, .i32 => 0x7FFFFFFF | 1, .f32 => 0x7F800000 | 1, _ => 0xFFFFFFFF
  | 2, .i32 => 0x80000000 | 2, .f32 => 0xFF800000
  | 3, _ => 0xFFFFFFFF
  | _, _ => 0
/-- The combination of a list of values: an f32 sum is exact and rounded once (R187). A single value of an f32 min or max is
written as its own encoding, a NaN's too (DEDUCED, log entry 101). -/
def combine (t : Ty) (fz : Bool) (md : Rm) (op : Nat) (n : NumCtx) (xs : List Word) : NumCtx × Word :=
  if t == .f32 && op == 0 then
    let r := n.sumTo fmF32 md fz false (xs.map fun x => some (fmF32.read fz x.toNat))
    (r.1, BitVec.ofNat 32 r.2)
  else if t == .f32 then
    match xs.map fun x => BitVec.ofNat 32 (flushBits fmF32 fz x.toNat) with
    | [] => (n, scanIdentity t op)
    | y :: ys => (n, ys.foldl (scanStep t fz op) y)
  else (n, xs.foldl (scanStep t fz op) (scanIdentity t op))
/-- The values of the running lanes below lane i, or up to it, in lane order. -/
def runValues (c : Ctx) (l : Line) (p : Fin 32 → Bool) : List Word := (c.run.list.filter p).map fun i => l.get i
/-- vscan (R187). -/
def execVscan (h : Head) (o : VFmt) (s : State) : Host.Outcome State Fault Refusal :=
  slot h s fun c s =>
    let md := modeOf c.w.r.mode o.md
    let fz := fzOf c.w.r.mode .f32
    let op := bits o.c 2 0
    let ex := bit o.c 3
    let r := laneFold c.run c.num fun n i =>
      let xs := runValues c (c.va o) fun j => if ex then decide (j < i) else decide (j ≤ i)
      if xs.isEmpty then (n, scanIdentity o.ty op) else combine o.ty fz md op n xs
    (s.putNum 4 r.1).emitV 4 o.d c.run r.2
/-- vred (R187): one rounding for all lanes. -/
def execVred (h : Head) (o : VFmt) (s : State) : Host.Outcome State Fault Refusal :=
  slot h s fun c s =>
    let r := combine o.ty (fzOf c.w.r.mode .f32) (modeOf c.w.r.mode o.md) (bits o.c 2 0) c.num
      (runValues c (c.va o) fun _ => true)
    (s.putNum 4 r.1).emitV 4 o.d c.run (Line.fill r.2)
/-- vcompact (R188): selected values go to the lowest running lanes, the rest keep v[D]. -/
def execVcompact (h : Head) (o : VFmt) (s : State) : Host.Outcome State Fault Refusal :=
  slot h s fun c s =>
    let xs := runValues c (c.va o) fun j => c.w.r.pred (srcNum o.b) j
    let dst := (c.run.list.take xs.length).zip xs
    let m := dst.foldl (fun (m : Mask) (t : Fin 32 × Word) => m ||| (1#32 <<< t.1.val)) 0
    if m == 0 then s
    else s.emitV 4 o.d m (dst.foldl (fun (l : Line) (t : Fin 32 × Word) => l.set t.1.val t.2 t.1.isLt) (Line.fill 0))

end Sys2Proof.Machine
end

