-- ==== Sys2Proof/Machine/Memory.lean ====
section
/-! DEFINITION. Loads, stores, atomics, the conditional store, fences and the monitor
(09_memory_instructions.md R264 to R286), with vatom (14_graphics_pipeline.md R362): the accesses of each
instruction, the checks they pass, and their effects. -/
namespace Sys2Proof.Machine
open Sys2Proof

/-! Addresses of a line core (15_display_processor.md R400). -/

/-- The translation of a display address: a trap code, or a physical address and whether writes are allowed (R400; which check
of R266 each case stands for is DEDUCED, log entry 111). -/
def LineCore.look (l : LineCore) (a : Dword) : Byte ⊕ Nat × Bool :=
  let e : Dword := ((l.atlas.find? fun p => p.1 == bits a 30 21).map fun p => p.2).getD 0
  if bits a 63 31 != 0 || !bit e 0 || bits e 20 2 != 0 || bits e 63 52 != 0 then .inl 0x0C
  else .inr (2097152 * bits e 51 21 + bits a 20 0, bit e 1)
/-- A line core may access a physical range (R266 check 6, R400). -/
def State.lineRange (s : State) (pa size : Nat) (write : Bool) : Bool :=
  match s.range pa with
  | .none => false
  | .hub => size == 8 && pa % 8 == 0
  | .peer p => s.peerOpen p pa
  | .mailbox | .control => true
  | .mem => !write || s.inMem pa size
/-- Bytes that a line core or a head reads at a physical address: at the LLC (R400). -/
def State.llcLoad (s : State) (pa n : Nat) : State × List PByte :=
  match s.range pa with
  | .mem =>
    let s := (linesOf pa n).foldl (fun s l => s.touchView l) s
    (s, s.llcBytes pa n)
  | .mailbox => (s, (List.range n).map fun i => s.mailboxByte (pa + i))
  | .hub => (s, (cleanBytes 8 (s.hubRead (pa - 0x7100000000)).toNat).take n)
  | .control | .peer _ => s.outsideBytes pa n
  | .none => (s, List.replicate n (clean 0))
/-- Bytes that a line core writes at a physical address. -/
def State.llcStore (s : State) (pa : Nat) (bs : List PByte) : State :=
  match s.range pa with
  | .mem => s.llcWrite none pa bs
  | .hub => s.hubWrite (pa - 0x7100000000) (BitVec.ofNat 64 (natOf bs))
  | _ => s

/-! The accesses of an instruction (R264, R266, R281, R362). -/

/-- One access: the lane to which it belongs, its address and size, and whether check 3 fails. -/
structure MemAcc where
  lane : Fin 32
  va : Dword
  size : Nat
  mis : Bool
  deriving DecidableEq, Repr

/-- What an instruction accesses: memory with a kind, or scratchpad. -/
inductive Space where
  | mem (k : Acc)
  | scratch
  deriving DecidableEq, Repr

/-- LaneAddr of R264. -/
def Ctx.laneAddr (c : Ctx) (o : LmFmt) (size : Nat) (i : Fin 32) : Dword :=
  match o.addr with
  | .off x => c.w.r.sc o.base.toNat + x.signExtend 64 + BitVec.ofNat 64 (i.val * size)
  | .idx _ v sh => c.w.r.sc o.base.toNat + (((c.w.r.vec v.toNat).get i).zeroExtend 64 <<< sh.toNat)
/-- The address of a lane of ldp (R274). -/
def Ctx.probeAddr (c : Ctx) (o : LmFmt) (i : Fin 32) : Dword :=
  match o.addr with
  | .off x => c.w.r.sc o.base.toNat + (x.setWidth 11).signExtend 64 + BitVec.ofNat 64 (i.val * o.ty.size)
  | .idx .. => c.laneAddr o o.ty.size i
/-- The single address of ldu, stu and mon (R264). -/
def Ctx.oneAddr (c : Ctx) (o : LmFmt) : Dword :=
  c.w.r.sc o.base.toNat + (match o.addr with | .off x => x.signExtend 64 | .idx .. => 0)
/-- The address of a lane in format LA (R264). -/
def Ctx.atomAddr (c : Ctx) (o : LaFmt) (i : Fin 32) : Dword :=
  c.w.r.sc o.base.toNat + ((c.w.r.vec o.idx.toNat).get i).zeroExtend 64
/-- The first line of a cst4 (R281). -/
def Ctx.cstAddr (c : Ctx) (o : LcFmt) : Dword := c.w.r.sc o.base.toNat + o.off.signExtend 64
/-- The address of a lane of vatom (R362). -/
def Ctx.vatomAddr (c : Ctx) (o : TFmt) (i : Fin 32) : Dword :=
  c.w.r.sc o.res.toNat + (((c.w.r.vec (srcNum o.a)).get i).zeroExtend 64 <<< 3)

/-- The accesses of all running lanes at one address each. -/
def Ctx.perLane (c : Ctx) (size : Nat) (f : Fin 32 → Dword) : List MemAcc :=
  c.run.list.map fun i => { lane := i, va := f i, size, mis := (f i).toNat % size != 0 }
/-- The access of a wave-scoped instruction, by its lowest running thread (R273). -/
def Ctx.single (c : Ctx) (size : Nat) (a : Dword) (mis : Bool) : List MemAcc :=
  match c.run.lowest with
  | some i => [{ lane := i, va := a, size, mis }]
  | none => []

/-- The space and the accesses of an instruction of the memory chapter. -/
def Ctx.accesses (c : Ctx) (i : Instr) : Option (Space × List MemAcc) :=
  match i with
  | .ld _ o => some (.mem .load, c.perLane o.ty.size (c.laneAddr o o.ty.size))
  | .ldp _ o => some (.mem .probe, c.perLane o.ty.size (c.probeAddr o))
  | .ldMark _ o => some (.mem .mark, c.perLane o.ty.size (c.laneAddr o o.ty.size))
  | .ldu _ o => let a := c.oneAddr o; some (.mem .load, c.single o.ty.size a (a.toNat % o.ty.size != 0))
  | .st _ o => some (.mem .store, c.perLane o.ty.size (c.laneAddr o o.ty.size))
  | .stu _ o => let a := c.oneAddr o; some (.mem .store, c.single o.ty.size a (a.toNat % o.ty.size != 0))
  | .lds _ o | .sts _ o => some (.scratch, c.perLane o.ty.size (c.laneAddr o o.ty.size))
  | .atom _ o | .red _ o => some (.mem .atom, c.perLane o.ty.size (c.atomAddr o))
  | .satom _ o | .sred _ o => some (.scratch, c.perLane o.ty.size (c.atomAddr o))
  | .cst4 _ o =>
    let a := c.cstAddr o
    let n := o.nl.toNat + 1
    let mis := a.toNat % 128 != 0 || 4 < Sys2Proof.bits a 8 7 + n
    some (.mem .cst, (List.range n).flatMap fun k => c.single 128 (a + BitVec.ofNat 64 (128 * k)) mis)
  | .mon _ o => some (.mem .mon, c.single 1 (c.oneAddr o) false)
  | .vatom _ o => some (.mem .atom, c.perLane 8 (c.vatomAddr o))
  | _ => none

/-! The granules of a scratchpad access (R219, R270). -/

/-- The aligned 64-byte granules of scratchpad that an operation touches in its running lanes. -/
def Ctx.granules (c : Ctx) (i : Instr) : List Nat :=
  match c.accesses i with
  | some (.scratch, as) => (as.map fun a => a.va.toNat / 64).eraseDups
  | _ => []
/-- Granules per logical bank: bank and count. -/
def granuleBanks (gs : List Nat) : List (Nat × Nat) :=
  ((gs.map fun k => k / 2048).eraseDups).map fun b => (b, (gs.filter fun k => k / 2048 == b).length)
/-- The longest run of granules in one bank. -/
def portRun (gs : List Nat) : Nat := (granuleBanks gs).foldl (fun m e => max m e.2) 0

/-! Checks (R266). -/

/-- Bytes of scratchpad that a group, or of the line buffer that a line core, may address (R39, R286). -/
def State.span (s : State) (c : Ctx) : Nat :=
  match c.fl.owner with
  | .wave _ => 131072 * ((s.group? c.w.group).map fun g => g.sbanks.length).getD 0
  | .line _ => 393216
/-- The checks of one access. -/
def State.checkAcc (s : State) (c : Ctx) (sp : Space) (priv : Bool) (a : MemAcc) : State × Chk :=
  match sp with
  | .scratch =>
    (s, if a.mis then .bad 3 0x04 else if s.span c < a.va.toNat + a.size then .bad 4 0x05 else .ok a.va.toNat 0)
  | .mem k =>
    match c.fl.owner with
    | .wave _ => s.checkVa c.core (s.slotOf c.w) priv k a.size a.mis a.va
    | .line l =>
      (s, match (s.line l).look a.va with
        | .inl code => if bits a.va 63 31 != 0 then .bad 2 code else if a.mis then .bad 3 0x04 else .bad 5 code
        | .inr p =>
          if a.mis then .bad 3 0x04
          else if (k == .store && !p.2) || !s.lineRange p.1 a.size (k == .store) then .bad 6 0x05 else .ok p.1 1)

/-! Values in registers (R265). -/

/-- The words that a load of `bs` writes to v[D] and v[D+1]. -/
def loadWords (t : Ty) (bs : List PByte) : Word × Word :=
  let n := natOf bs
  if t.wide then (BitVec.ofNat 32 n, BitVec.ofNat 32 (n / 2 ^ 32))
  else (BitVec.ofInt 32 (if t.signed then sInt t.width n else (n : Int)), 0)
/-- The bytes that a store of a lane writes. -/
def storeBytes (t : Ty) (lo hi : Word) : List PByte := cleanBytes t.size (lo.toNat + 2 ^ 32 * hi.toNat)

/-- Reading lane by lane: words, poison and the predicate of ldp. -/
structure Loaded where
  lo : Line
  hi : Line
  bad : Mask
  hit : Mask
  deriving DecidableEq, Repr
def Loaded.none : Loaded := { lo := Line.fill 0, hi := Line.fill 0, bad := 0, hit := 0 }
/-- The value of one lane arrives. -/
def Loaded.put (r : Loaded) (t : Ty) (i : Fin 32) (bs : List PByte) : Loaded :=
  let w := loadWords t bs
  { lo := r.lo.set i.val w.1 i.isLt, hi := r.hi.set i.val w.2 i.isLt,
    bad := if anyBad bs then r.bad ||| (1#32 <<< i.val) else r.bad, hit := r.hit ||| (1#32 <<< i.val) }
/-- The writes of a load (R265, R267). -/
def State.emitLoad (s : State) (lat : Nat) (d : BitVec 7) (t : Ty) (m : Mask) (r : Loaded) : State :=
  let s := s.emit lat (.v d m r.lo r.bad)
  if t.wide then s.emit lat (.v (d + 1) m r.hi r.bad) else s

/-! Where an access performs (R235, R266). -/

/-- What the check of the issuing group found for an access that did not fail. -/
def Ctx.place? (c : Ctx) (a : MemAcc) : Option AccPlace :=
  c.fl.placed.find? fun p => p.at0 == c.fl.cur && p.lane == a.lane.val && p.va == a.va
/-- The place that it found. -/
def Ctx.placed? (c : Ctx) (a : MemAcc) : Option (Nat × Nat) :=
  (c.place? a).bind fun p => if p.zero then none else some (p.pa, p.mt)
/-- An access as its operation makes it: every access of a group is translated once, before any effect of the group, so
that its operation uses the outcome of its check. An access that no check has placed is checked now. -/
def State.placeAcc (s : State) (c : Ctx) (sp : Space) (priv : Bool) (a : MemAcc) : State × Chk :=
  match c.place? a with
  | some p => (s, if p.zero then .zero else .ok p.pa p.mt)
  | none => s.checkAcc c sp priv a

/-! Reading and writing one element. -/

/-- Bytes read by an access of a kind, none where a probe meets V = 0 (R237, R272). -/
def State.readAcc (s : State) (c : Ctx) (k : Acc) (priv : Bool) (a : MemAcc) : State × Option (Nat × List PByte) :=
  let r := s.placeAcc c (.mem k) priv a
  match r.2 with
  | .ok pa mt =>
    let b := match c.fl.owner with
      | .wave _ => r.1.loadPa c.core mt (k == Acc.mark) pa a.size
      | .line _ => r.1.llcLoad pa a.size
    (b.1, some (pa, b.2))
  | _ => (r.1, none)
/-- Bytes written by a store. -/
def State.writeAcc (s : State) (c : Ctx) (priv : Bool) (cls : BitVec 4) (a : MemAcc) (bs : List PByte) : State :=
  let r := s.placeAcc c (.mem .store) priv a
  match r.2 with
  | .ok pa mt =>
    match c.fl.owner with
    | .wave _ => r.1.storePa c.core mt cls pa bs
    | .line _ => r.1.llcStore pa bs
  | _ => r.1

/-- The line buffer after writes, which take effect in the order of their cycles (R399). -/
def landBytes (b : Store) (l : List (Nat × Nat × PByte)) : Store :=
  (sortBy (fun (p q : Nat × Nat × PByte) => decide (p.1 ≤ q.1)) l).foldl (fun b p => b.put p.2.1 p.2.2) b
/-- The line buffer as an access issued in a cycle finds it: a write counts when it has taken effect by then (R399). -/
def LineCore.settle (l : LineCore) (t : Nat) : LineCore :=
  { l with buf := landBytes l.buf (l.bufPend.filter fun p => p.1 < t), bufPend := l.bufPend.filter fun p => !(p.1 < t) }
/-- Counted cycle of the running operation's bundle (R34, R397). -/
def State.lineCycle (s : State) (c : Ctx) (k : Nat) : Nat := (s.line k).cnt + c.fl.cur.1
/-- Bytes of the scratchpad, or of the line buffer. -/
def State.scratchRead (s : State) (c : Ctx) (a n : Nat) : State × List PByte :=
  match c.fl.owner with
  | .wave _ => (s, ((s.group? c.w.group).map fun g => g.scratch.read a n).getD [])
  | .line k =>
    let s := s.modLine k fun l => l.settle (s.lineCycle c k)
    (s, (s.line k).buf.read a n)
def State.scratchWrite (s : State) (c : Ctx) (a : Nat) (bs : List PByte) : State :=
  match c.fl.owner with
  | .wave _ => s.modGroup c.w.group fun (g : Group) => { g with scratch := g.scratch.write a bs }
  | .line k =>
    let t := s.lineCycle c k
    s.modLine k fun (l : LineCore) => { l with bufPend := l.bufPend ++ bs.zipIdx.map fun b => (t, a + b.2, b.1) }

/-! Loads and stores (R272 to R275). -/

/-- A vector load of a kind. -/
def State.vecLoad (s : State) (c : Ctx) (k : Acc) (t : Ty) (as : List MemAcc) : State × Loaded × List Nat :=
  let priv := s.priv c.w
  as.foldl (fun (acc : State × Loaded × List Nat) a =>
    let r := acc.1.readAcc c k priv a
    match r.2 with
    | some (pa, bs) =>
      let ls := linesOf pa a.size
      (r.1, acc.2.1.put t a.lane bs, acc.2.2 ++ ls.filter fun l => !acc.2.2.any fun m => m == l)
    | none => (r.1, acc.2)) (s, Loaded.none, [])

/-- ld (R272). -/
def execLd (h : Head) (o : LmFmt) (s : State) : Host.Outcome State Fault Refusal :=
  slot h s fun c s =>
    let r := s.vecLoad c .load o.ty (c.perLane o.ty.size (c.laneAddr o o.ty.size))
    r.1.emitLoad (c.lat 1 240) o.d o.ty c.run r.2.1
/-- ldu: one access, one scalar (R273). -/
def execLdu (h : Head) (o : LmFmt) (s : State) : Host.Outcome State Fault Refusal :=
  slot h s fun c s =>
    let a := c.oneAddr o
    (c.single o.ty.size a (a.toNat % o.ty.size != 0)).foldl (fun s m =>
      let r := s.readAcc c .load (s.priv c.w) m
      match r.2 with
      | some (_, bs) =>
        let n := natOf bs
        let x := BitVec.ofInt 64 (if o.ty.signed then sInt o.ty.width n else (n : Int))
        r.1.emit (c.lat 1 240) (.s (o.d.setWidth 6) x (if anyBad bs then (if o.ty.wide || o.ty.signed then 3 else 1) else 0))
      | none => r.1) s
/-- lds: from scratchpad, or the line buffer (R272, R286). -/
def execLds (h : Head) (o : LmFmt) (s : State) : Host.Outcome State Fault Refusal :=
  slot h s fun c s =>
    let i := Instr.lds h o
    let r := (c.perLane o.ty.size (c.laneAddr o o.ty.size)).foldl (fun (acc : State × Loaded) a =>
      let b := acc.1.scratchRead c a.va.toNat a.size
      (b.1, acc.2.put o.ty a.lane b.2)) (s, Loaded.none)
    r.1.emitLoad (c.lat (3 + portRun (c.granules i)) 3) o.d o.ty c.run r.2
/-- ldp: a probe, its residency predicate from the offset field (R274). -/
def execLdp (h : Head) (o : LmFmt) (s : State) : Host.Outcome State Fault Refusal :=
  slot h s fun c s =>
    let r := s.vecLoad c .probe o.ty (c.perLane o.ty.size (c.probeAddr o))
    let s := r.1.emitLoad (c.lat 1 240) o.d o.ty c.run r.2.1
    match o.addr with
    | .off x => s.emitP (c.lat 1 240) (x.extractLsb' 11 5) c.run r.2.1.hit
    | .idx .. => s
/-- ld.mark: at the slice, its lines entered in the mark set (R275), in the order of the lowest lanes that read them (DESIGN
CHOICE, log entry 108). -/
def execLdMark (h : Head) (o : LmFmt) (s : State) : Host.Outcome State Fault Refusal :=
  slot h s fun c s =>
    let r := s.vecLoad c .mark o.ty (c.perLane o.ty.size (c.laneAddr o o.ty.size))
    let s := r.1.modWave c.w.uid fun (w : Wave) =>
      let ms := r.2.2.foldl (fun (ms : List Mark) l =>
        (({ line := l, broken := false } : Mark) :: ms.filter fun m => m.line != l).take 4) w.c.marks
      { w with c := { w.c with marks := ms } }
    s.emitLoad (c.lat 1 240) o.d o.ty c.run r.2.1
/-- st: lanes in increasing order, so the highest prevails (R268, R272). -/
def execSt (h : Head) (o : LmFmt) (s : State) : Host.Outcome State Fault Refusal :=
  slot h s fun c s =>
    let priv := s.priv c.w
    (c.perLane o.ty.size (c.laneAddr o o.ty.size)).foldl (fun s a =>
      s.writeAcc c priv o.cls a
        (storeBytes o.ty ((c.w.r.vec o.d.toNat).get a.lane) ((c.w.r.vec (o.d.toNat + 1)).get a.lane))) s
/-- stu (R273). -/
def execStu (h : Head) (o : LmFmt) (s : State) : Host.Outcome State Fault Refusal :=
  slot h s fun c s =>
    let a := c.oneAddr o
    (c.single o.ty.size a (a.toNat % o.ty.size != 0)).foldl (fun s m =>
      s.writeAcc c (s.priv c.w) o.cls m (cleanBytes o.ty.size (c.w.r.sc o.d.toNat).toNat)) s
/-- sts (R272, R286). -/
def execSts (h : Head) (o : LmFmt) (s : State) : Host.Outcome State Fault Refusal :=
  slot h s fun c s =>
    (c.perLane o.ty.size (c.laneAddr o o.ty.size)).foldl (fun s a =>
      s.scratchWrite c a.va.toNat
        (storeBytes o.ty ((c.w.r.vec o.d.toNat).get a.lane) ((c.w.r.vec (o.d.toNat + 1)).get a.lane))) s

/-! Atomics and reductions (R276 to R280, R362). -/

/-- A numeric context whose flags and draws are not kept. -/
def numNone : NumCtx := { flags := 0, st := { x := 0, y := 0, z := 0, w := 0 } }
/-- The new value of R277 from the old value o, the operand b and the compare value k. -/
def aopNew (t : Ty) (aop o b k : Nat) : Nat :=
  let w := t.width
  match aop with
  | 0 =>
    if t == .f32 then
      (numNone.sumTo fmF32 .rne false false
        [some (fmF32.read false o), some (fmF32.read false b)]).2
    else (o + b) % 2 ^ w
  | 1 => if t == .f32 then fltPick fmF32 false false o b else if iv t o ≤ iv t b then o else b
  | 2 => if t == .f32 then fltPick fmF32 false true o b else if iv t b ≤ iv t o then o else b
  | 3 => o &&& b
  | 4 => o ||| b
  | 5 => o ^^^ b
  | 6 => b
  | 7 => if o == k then b else o
  | 8 => if b ≤ o then 0 else o + 1
  | 9 => if o == 0 || b < o then b else o - 1
  | _ => o
/-- Operand and compare value of a lane (R276). -/
def Ctx.aopOperands (c : Ctx) (o : LaFmt) (i : Fin 32) : Nat × Nat :=
  let v (k : Nat) : Nat := ((c.w.r.vec (o.d.toNat + k)).get i).toNat
  if o.ty.wide then
    (if o.aop == 7 then (v 2 + 2 ^ 32 * v 3, v 0 + 2 ^ 32 * v 1) else (v 0 + 2 ^ 32 * v 1, 0))
  else if o.aop == 7 then (v 1, v 0) else (v 0, 0)

/-- Arrivals of accesses at the units that decide them, lanes of one unit together (R509). -/
def State.arrivalsOf (s : State) (c : Ctx) (scope : Nat) (as : List (Fin 32 × Nat × Nat)) : List (Nat × Nat × Nat) :=
  let us := as.foldl (fun (l : List (Nat × Mask)) a =>
    let u := s.arriveUnit c.core (5 ≤ scope || a.2.2 != 0) a.2.1
    if s.range a.2.1 != .mem then l
    else if l.any fun e => e.1 == u then l.map fun e => if e.1 == u then (u, e.2 ||| (1#32 <<< a.1.val)) else e
    else l ++ [(u, 1#32 <<< a.1.val)]) []
  us.map fun e => (e.1, arriveWord c.core c.w.issued e.2, ctxKey c.w.ctx)

/-- Read-modify-writes of the running lanes in increasing lane order (R268, R279): old values, and the
places where they performed. -/
def State.rmwLanes (s : State) (c : Ctx) (scope size : Nat) (as : List MemAcc) (f : Fin 32 → Nat → Nat) :
    State × List (Fin 32 × Nat × Bool) × List (Fin 32 × Nat × Nat) :=
  let priv := s.priv c.w
  as.foldl (fun (acc : State × List (Fin 32 × Nat × Bool) × List (Fin 32 × Nat × Nat)) a =>
    let r := acc.1.placeAcc c (.mem .atom) priv a
    match r.2 with
    | .ok pa mt =>
      let b := r.1.atomPa c.core (5 ≤ scope || mt != 0) pa size (f a.lane)
      (b.1, acc.2.1 ++ [(a.lane, b.2.1, b.2.2)], acc.2.2 ++ [(a.lane, pa, mt)])
    | _ => (r.1, acc.2)) (s, [], [])
/-- The arrivals of performed operations are logged or consumed (R509, R510). -/
def State.logArrivals (s : State) (c : Ctx) (as : List (Nat × Nat × Nat)) : State :=
  as.foldl (fun s a => s.repArrived (s.slotOf c.w) a) s

/-- Old values into registers. -/
def oldValues (t : Ty) (l : List (Fin 32 × Nat × Bool)) : Loaded :=
  l.foldl (fun r e => r.put t e.1 ((cleanBytes t.size e.2.1).map fun b => { b with bad := e.2.2 })) Loaded.none

/-- atom (R276, R279). -/
def execAtom (h : Head) (o : LaFmt) (s : State) : Host.Outcome State Fault Refusal :=
  slot h s fun c s =>
    let r := s.rmwLanes c o.scope.toNat o.ty.size (c.perLane o.ty.size (c.atomAddr o)) fun i old =>
      aopNew o.ty o.aop.toNat old (c.aopOperands o i).1 (c.aopOperands o i).2
    let s := r.1.logArrivals c (r.1.arrivalsOf c o.scope.toNat r.2.2)
    s.emitLoad 1 o.d o.ty c.run (oldValues o.ty r.2.1)
/-- red: the same without a result (R280). -/
def execRed (h : Head) (o : LaFmt) (s : State) : Host.Outcome State Fault Refusal :=
  slot h s fun c s =>
    let r := s.rmwLanes c o.scope.toNat o.ty.size (c.perLane o.ty.size (c.atomAddr o)) fun i old =>
      aopNew o.ty o.aop.toNat old (c.aopOperands o i).1 (c.aopOperands o i).2
    r.1.logArrivals c (r.1.arrivalsOf c o.scope.toNat r.2.2)
/-- The scratchpad operations of satom and sred in increasing lane order. -/
def State.scratchRmw (s : State) (c : Ctx) (o : LaFmt) : State × List (Fin 32 × Nat × Bool) :=
  (c.perLane o.ty.size (c.atomAddr o)).foldl (fun (acc : State × List (Fin 32 × Nat × Bool)) a =>
    let r := acc.1.scratchRead c a.va.toNat a.size
    let old := natOf r.2
    let ops := c.aopOperands o a.lane
    if anyBad r.2 then (r.1, acc.2 ++ [(a.lane, old, true)])
    else (r.1.scratchWrite c a.va.toNat (cleanBytes a.size (aopNew o.ty o.aop.toNat old ops.1 ops.2)),
          acc.2 ++ [(a.lane, old, false)])) (s, [])
/-- satom (R279). -/
def execSatom (h : Head) (o : LaFmt) (s : State) : Host.Outcome State Fault Refusal :=
  slot h s fun c s =>
    let r := s.scratchRmw c o
    r.1.emitLoad (c.lat (5 + portRun (c.granules (.satom h o))) 1) o.d o.ty c.run (oldValues o.ty r.2)
/-- sred (R280). -/
def execSred (h : Head) (o : LaFmt) (s : State) : Host.Outcome State Fault Refusal :=
  slot h s fun c s => (s.scratchRmw c o).1
/-- vatom: the unsigned minimum of a key of depth and identifier (R362). -/
def execVatom (h : Head) (o : TFmt) (s : State) : Host.Outcome State Fault Refusal :=
  slot h s fun c s =>
    let key (i : Fin 32) : Nat :=
      let z := (c.w.r.vec o.d.toNat).get i
      let z := if bit o.md 0 then ~~~z else z
      z.toNat * 2 ^ 32 + ((c.w.r.vec (o.d.toNat + 1)).get i).toNat
    let scope := if bit o.md 1 then 5 else 4
    let r := s.rmwLanes c scope 8 (c.perLane 8 (c.vatomAddr o)) fun i old => min old (key i)
    r.1.logArrivals c (r.1.arrivalsOf c scope r.2.2)

/-! Conditional store (R281, R282). -/

/-- Physical addresses of the lines of a cst4. -/
def State.cstLines (s : State) (c : Ctx) (o : LcFmt) : State × List (Nat × Nat) :=
  let priv := s.priv c.w
  (List.range (o.nl.toNat + 1)).foldl (fun (acc : State × List (Nat × Nat)) k =>
    let va := c.cstAddr o + BitVec.ofNat 64 (128 * k)
    (c.single 128 va false).foldl (fun (acc : State × List (Nat × Nat)) a =>
      let r := acc.1.placeAcc c (.mem .cst) priv a
      match r.2 with
      | .ok pa _ => (r.1, acc.2 ++ [(k, pa)])
      | _ => (r.1, acc.2)) acc) (s, [])
/-- cst4: every line marked and unbroken, then one write of all (R254, R282). Stores of the core to its lines that still merge
perform first, and so break their marks (R269). -/
def execCst4 (h : Head) (o : LcFmt) (s : State) : Host.Outcome State Fault Refusal :=
  slot h s fun c s =>
    let ls := s.cstLines c o
    let s := ls.2.foldl (fun s p => s.wcFlushLine c.core (p.2 / 128)) ls.1
    let marks := ((s.wave? c.w.uid).map fun w => w.c.marks).getD []
    let ok := ls.2.length == o.nl.toNat + 1
      && ls.2.all fun p => marks.any fun m => m.line == p.2 / 128 && !m.broken
    let s := s.logArrivals c (s.arrivalsOf c 4 ((ls.2.take 1).flatMap fun p => c.run.list.map fun i => (i, p.2, 0)))
    let s := if !ok then s
      else ls.2.foldl (fun s p =>
        let line := p.2 / 128
        let s := s.l1Drop c.core line
        let s := c.run.list.foldl (fun s i =>
          s.l2Write (dieOf c.core) (p.2 + 4 * i.val) (cleanBytes 4 ((c.w.r.vec (o.d.toNat + p.1)).get i).toNat)) s
        s.writeBack (dieOf c.core) line) s
    let s := s.modWave c.w.uid fun (w : Wave) => { w with c := { w.c with marks := [] } }
    s.emitP 1 o.p c.run (if ok then BitVec.allOnes 32 else 0)

/-! Arrivals of a group before it issues (R510). -/

/-- The arrivals that an instruction would make at units of replay. -/
def State.arrivals (s : State) (c : Ctx) (i : Instr) : List (Nat × Nat × Nat) :=
  let pas (as : List MemAcc) : List (Fin 32 × Nat × Nat) :=
    as.filterMap fun a => match (s.placeAcc c (.mem .atom) (s.priv c.w) a).2 with
      | .ok pa mt => some (a.lane, pa, mt)
      | _ => none
  match i with
  | .atom _ o | .red _ o => s.arrivalsOf c o.scope.toNat (pas (c.perLane o.ty.size (c.atomAddr o)))
  | .vatom _ o => s.arrivalsOf c (if bit o.md 1 then 5 else 4) (pas (c.perLane 8 (c.vatomAddr o)))
  | .cst4 _ o =>
    s.arrivalsOf c 4 (((s.cstLines c o).2.take 1).flatMap fun p => c.run.list.map fun i => (i, p.2, 0))
  | _ => []

/-! Fences, the monitor and its wait (R283 to R285). -/

/-- fence: the actions of its scope, and the refetch of R247. -/
def execFence (h : Head) (o : FfFmt) (s : State) : Host.Outcome State Fault Refusal :=
  slot h s fun c s =>
    let acq := o.kind != 2
    let rel := o.kind != 1
    let s := match c.fl.owner with
      | .wave _ => s.fenceCore c.core acq rel o.scope.toNat o.cmask
      | .line _ => s
    if acq && 2 ≤ o.scope.toNat && bit o.cmask 0 then s.modFlight fun fl => { fl with refetch := true } else s
/-- mon: the monitor on the physical line of an address (R261, R284). The core lets go of its own copy of the line, so
that later reads see every write that had performed at pkg scope. -/
def execMon (h : Head) (o : LmFmt) (s : State) : Host.Outcome State Fault Refusal :=
  slot h s fun c s =>
    (c.single 1 (c.oneAddr o) false).foldl (fun s a =>
      let r := s.placeAcc c (.mem .mon) (s.priv c.w) a
      match r.2 with
      | .ok pa _ =>
        (r.1.l1Drop c.core (pa / 128)).modWave c.w.uid fun (w : Wave) => { w with c := { w.c with mon := some (pa / 128), monTrig := false } }
      | _ => r.1) s
/-- wait: decided after its group by the monitor's state (R285). -/
def execWait (h : Head) (o : YgFmt) (s : State) : Host.Outcome State Fault Refusal :=
  slot h s fun c s =>
    let q : WaitReq := { m := c.run, kind := if o.imm == 0 then .wait else .waitLim, pd := o.d.setWidth 5, vform := 0,
                         votes := 0, cycles := 64 * o.imm.toNat }
    s.modFlight fun fl => { fl with waits := fl.waits ++ [q] }

end Sys2Proof.Machine
end

