-- ==== Sys2Proof/Machine/Sync.lean ====
section
/-! DEFINITION. The Y slot: meeting registers, yield, barriers, votes, sleep and clocks
(06_vector_and_wave_instructions.md R189 to R198), queue windows (11_tokens_copy_and_tasks.md R317), traps by
instruction and the system registers (17_traps_faults_and_preemption.md R430 to R434). -/
namespace Sys2Proof.Machine
open Sys2Proof

/-! Meeting registers (R190). -/

/-- The target of a meet: 64 × OFF18 from its bundle. -/
def Ctx.meetTarget (c : Ctx) (o : YgFmt) : Dword := c.addr + ((o.imm.setWidth 18).signExtend 64) * 64
/-- Meeting registers set at the end of the group. -/
def State.setMeet (s : State) (m : Mask) (f : Fin 32 → Dword) : State :=
  s.modFlight fun fl => { fl with meets := fl.meets ++ [(m, lanes.map f)] }
/-- meet. -/
def execMeet (h : Head) (o : YgFmt) (s : State) : Host.Outcome State Fault Refusal :=
  slot h s fun c s => s.setMeet c.run fun _ => c.meetTarget o
/-- meet.save: the old value into a register pair. -/
def execMeetSave (h : Head) (o : YgFmt) (s : State) : Host.Outcome State Fault Refusal :=
  slot h s fun c s =>
    let m (i : Fin 32) : Dword := (c.w.threads.get i).meet
    let s := (s.emitV 1 o.d c.run (Line.build fun i => (m i).extractLsb' 0 32)).emitV 1 (o.d + 1) c.run
      (Line.build fun i => (m i).extractLsb' 32 32)
    s.setMeet c.run fun _ => c.meetTarget o
/-- meet.rest: a value from a register pair. -/
def execMeetRest (h : Head) (o : YgFmt) (s : State) : Host.Outcome State Fault Refusal :=
  slot h s fun c s =>
    s.setMeet c.run fun i => (c.w.r.vec (o.d.toNat + 1)).get i ++ (c.w.r.vec o.d.toNat).get i
/-- meet.clr. -/
def execMeetClr (h : Head) (_ : YgFmt) (s : State) : Host.Outcome State Fault Refusal :=
  slot h s fun c s => s.setMeet c.run fun _ => 0

/-! Rotation, barriers, sleep, clocks (R192 to R198). -/

/-- yield: a rotation after its group. -/
def execYield (h : Head) (_ : YgFmt) (s : State) : Host.Outcome State Fault Refusal :=
  slot h s fun _ s => s.modFlight fun fl => { fl with yielded := true }
/-- A wait that begins after the group. -/
def State.pushWait (s : State) (q : WaitReq) : State := s.modFlight fun fl => { fl with waits := fl.waits ++ [q] }
/-- The release of an arrival at the barrier: group scope, every class (R195). -/
def State.arriveFence (s : State) (c : Ctx) : State := s.fenceCore c.core false true 1 (BitVec.allOnes 16)
/-- bar. -/
def execBar (h : Head) (_ : YgFmt) (s : State) : Host.Outcome State Fault Refusal :=
  slot h s fun c s => (s.arriveFence c).pushWait { m := c.run, kind := .bar, pd := 0, vform := 0, votes := 0, cycles := 0 }
/-- vote: the predicate of A as it stood before the group. -/
def execVote (h : Head) (o : YgFmt) (s : State) : Host.Outcome State Fault Refusal :=
  slot h s fun c s =>
    (s.arriveFence c).pushWait
      { m := c.run, kind := .vote, pd := o.d.setWidth 5, vform := o.imm.setWidth 2,
        votes := c.w.r.predMask (bits o.a 4 0), cycles := 0 }
/-- sleep: a wait of n cycles, none for n = 0. -/
def execSleep (h : Head) (o : YgFmt) (s : State) : Host.Outcome State Fault Refusal :=
  slot h s fun c s =>
    if o.imm == 0 then s
    else s.pushWait { m := c.run, kind := .sleep, pd := 0, vform := 0, votes := 0, cycles := o.imm.toNat }
/-- rdclk: core cycles or hub nanoseconds, as the bundle issues. R198 holds a read of the hub's clock for up to 64
cycles; the model holds it for none (log entry 125). -/
def execRdclk (h : Head) (o : YgFmt) (s : State) : Host.Outcome State Fault Refusal :=
  slot h s fun c s =>
    let t := s.now + 40 * c.fl.cur.1
    s.emitS 1 (o.d.setWidth 6) (BitVec.ofNat 64 (if o.imm == 0 then t / 40 else t / 72))

/-! Queue windows (R317). -/

/-- The entries of a window. -/
def Wave.window (w : Wave) (q : Nat) : List QEntry := w.windows.getD q []
def Wave.setWindow (w : Wave) (q : Nat) (es : List QEntry) : Wave :=
  { w with windows := (List.range 8).map fun k => if k == q then es else w.window k }
/-- qpush: an entry appended to a window of the paired wave, poison with it. -/
def execQpush (h : Head) (o : QFmt) (s : State) : Host.Outcome State Fault Refusal :=
  slot h s fun c s =>
    match c.w.pair with
    | none => s
    | some u =>
      let e : QEntry :=
        { data := Line.build fun i => if c.run.has i then (c.w.r.vec o.v.toNat).get i else 0,
          bad := c.run &&& c.w.r.vecBad o.v.toNat, bookend := false }
      s.modWave u fun w =>
        let es := w.window o.q.toNat
        if es.length < 8 then w.setWindow o.q.toNat (es ++ [e]) else w
/-- qpop: the head entry of the wave's window. -/
def execQpop (h : Head) (o : QFmt) (s : State) : Host.Outcome State Fault Refusal :=
  slot h s fun c s =>
    match c.w.window o.q.toNat with
    | [] => s
    | e :: es => (s.modWave c.w.uid fun w => w.setWindow o.q.toNat es).emit 4 (.v o.v c.run e.data e.bad)

/-! Traps by instruction (R430, R432). -/

/-- A trap or halt that takes effect after the group. -/
def State.askTrap (s : State) (c : Ctx) (code : Byte) (addr info : Dword) : State :=
  s.modFlight fun fl => { fl with trap := some { code, m := c.run, slot := c.fl.cur.2, addr, info } }
/-- trap: on an error of a status, or on any status but done. -/
def execTrap (h : Head) (o : YgFmt) (s : State) : Host.Outcome State Fault Refusal :=
  slot h s fun c s =>
    let x := c.w.r.sc o.a.toNat
    let on := if bit o.imm 16 then bits x 7 0 != 0 else 0x80 ≤ bits x 7 0
    if on then s.askTrap c 0x10 0 x else s
/-- sysc. -/
def execSysc (h : Head) (o : YgFmt) (s : State) : Host.Outcome State Fault Refusal :=
  slot h s fun c s => s.askTrap c 0x0D (o.imm.zeroExtend 64) (c.w.r.sc o.a.toNat)
/-- bkpt: a trap, or a halt when the debug unit is armed for the slot (R432). -/
def execBkpt (h : Head) (o : YgFmt) (s : State) : Host.Outcome State Fault Refusal :=
  slot h s fun c s => s.askTrap c 0x0B 0 (BitVec.ofNat 64 (bits o.imm 15 0))

/-! System registers (R433, R434). -/

/-- An access to an SRN is privileged (R434, R146, R215). -/
def srPriv (srn : Nat) (write : Bool) : Bool :=
  if 0x020 ≤ srn && srn ≤ 0x023 then false else if srn == 0x040 then write else true

/-- STOCH_X to STOCH_W (R146). -/
def Stoch.word (st : Stoch) (k : Nat) : Word :=
  match k with | 0 => st.x | 1 => st.y | 2 => st.z | _ => st.w
def Stoch.setWord (st : Stoch) (k : Nat) (v : Word) : Stoch :=
  match k with
  | 0 => { st with x := v } | 1 => { st with y := v } | 2 => { st with z := v } | _ => { st with w := v }

/-- HEAD_STAT (R385), DBG_STAT (R487), REPLAY_STAT (R507), BOOT_CAUSE (R515). -/
def HeadUnit.stat (x : HeadUnit) : Dword :=
  BitVec.ofNat 64 (x.fbcount.toNat + 2 ^ 32 * (x.frames % 2 ^ 30) + (if x.link then 2 ^ 62 else 0)
    + (if x.err then 2 ^ 63 else 0))
def Debug.stat (d : Debug) : Dword :=
  BitVec.ofNat 64 (d.cause + 2 ^ 4 * d.core + 2 ^ 14 * d.aslot + 2 ^ 20 * d.widx + (if d.halted then 2 ^ 23 else 0)
    + 2 ^ 24 * d.extra)
def Replay.stat (r : Replay) : Dword :=
  BitVec.ofNat 64 (r.state + (if r.full then 4 else 0) + (if r.err then 8 else 0) + 2 ^ 4 * r.unit
    + 2 ^ 16 * (r.index % 2 ^ 32))
def Life.cause64 (l : Life) : Dword :=
  BitVec.ofNat 64 (l.cause.toNat + 2 ^ 8 * l.fails + (if l.min then 2 ^ 10 else 0) + 2 ^ 16 * l.step)

/-- The value of a system register for a core; WO registers read zero (R6). -/
def State.sysRead (s : State) (core : Nat) (srn : Nat) : Dword :=
  if 0x100 ≤ srn && srn ≤ 0x13F then s.sys.fwin.toList.getD (srn - 0x100) 0
  else if 0x400 ≤ srn && srn ≤ 0x503 then (s.head (srn - 0x400)).reserve
  else if 0x600 ≤ srn && srn ≤ 0x703 then (s.head (srn - 0x600)).ctl
  else if 0x800 ≤ srn && srn ≤ 0x903 then (s.head (srn - 0x800)).stat
  else if 0xA10 ≤ srn && srn ≤ 0xA17 then s.dbg.watchAddr.toList.getD (srn - 0xA10) 0
  else if 0xA18 ≤ srn && srn ≤ 0xA1F then
    let v := s.dbg.watchCtl.toList.getD (srn - 0xA18) 0
    if 40 < bits v 9 4 then v - BitVec.ofNat 64 (16 * (bits v 9 4 - 40)) else v
  else if 0xC40 ≤ srn && srn ≤ 0xC7F then s.life.repairLog.toList.getD (srn - 0xC40) 0
  else match srn with
  | 0x010 => s.fault.base
  | 0x011 => s.fault.ctl
  | 0x012 => s.fault.head
  | 0x013 => s.fault.tail
  | 0x018 => s.sys.serrUncorr ++ s.sys.serrCorr
  | 0x040 => (s.core core).rolesWritten
  | 0x080 => s.sys.ctxTable
  | 0x090 => s.sys.frameBase
  | 0x091 => s.sys.frameSize
  | 0x092 => s.sys.frameWays
  | 0xA00 => s.dbg.table
  | 0xA02 => s.dbg.ctl
  | 0xA04 => s.dbg.stat
  | 0xA05 => s.dbg.pc
  | 0xA30 => s.rep.table
  | 0xA31 => s.rep.ctl
  | 0xA32 => s.rep.stat
  | 0xC00 => s.life.cause64
  | 0xC02 => BitVec.ofNat 64 s.life.repairHead
  | 0xC08 => s.life.pwrCap
  | 0xC09 => BitVec.ofNat 64 (s.life.power % 65536 + 65536 * (s.life.held % 1024))
  | 0xC0A => BitVec.ofNat 64 (s.life.tmax % 256 + 256 * (s.life.coolin % 256) + 65536 * (s.life.flow % 65536))
  | _ => 0

/-- A write of REPLAY_CTL that is ignored: it clears FULL, UNIT and INDEX and sets ERR (R507). -/
def State.replayIgnored (s : State) : State :=
  { s with rep := { s.rep with full := false, err := true, unit := 0, index := 0 } }
/-- A write of a register without a behaviour of its own (R433); requests are queued (R445, R519). -/
def State.sysPut (s : State) (srn : Nat) (x : Dword) : State :=
  if 0x100 ≤ srn && srn ≤ 0x13F then
    let k := srn - 0x100
    let v := match k % 4 with | 0 => keepBits x 51 12 | 1 => keepBits x 51 6 | _ => keepBits x 51 0
    { s with sys := { s.sys with fwin := if k % 4 == 3 then s.sys.fwin else s.sys.fwin.setIfInBounds k v } }
  else if 0x800 ≤ srn && srn ≤ 0x903 then
    if bit x 63 then s.modHead (srn - 0x800) fun (u : HeadUnit) => { u with err := false } else s
  else if 0xA10 ≤ srn && srn ≤ 0xA17 then
    { s with dbg := { s.dbg with watchAddr := s.dbg.watchAddr.setIfInBounds (srn - 0xA10) (keepBits x 55 0) } }
  else if 0xA18 ≤ srn && srn ≤ 0xA1F then
    { s with dbg := { s.dbg with watchCtl := s.dbg.watchCtl.setIfInBounds (srn - 0xA18) (keepBits x 9 0) } }
  else match srn with
  | 0x010 => { s with fault := { s.fault with base := keepBits x 51 6 } }.drainFaults
  | 0x018 => { s with sys := { s.sys with serrCorr := x.extractLsb' 0 32, serrUncorr := x.extractLsb' 32 32 } }
  | 0x070 | 0xC04 => s.reqWrite none srn x
  | 0x080 => { s with sys := { s.sys with ctxTable := keepBits x 51 12 } }
  | 0xA02 => { s with dbg := { s.dbg with ctl := keepBits x 12 0 } }
  | 0xA30 => { s with rep := { s.rep with table := keepBits x 51 12 } }
  | 0xA31 => s.replayIgnored
  | 0xC08 => { s with life := { s.life with pwrCap := keepBits x 15 0 } }
  | _ => s

/-- A start that meets no error, for a warm reset of which the outside offers no report. -/
def cleanReport : StartReport :=
  { imageFail := none, ownImageOk := true, trained := BitVec.allOnes 48, fails := [], fabricOk := true, portsOk := true,
    hang := none }
/-- The report of a warm reset: the first that the outside offers. -/
def State.startReport (s : State) : StartReport :=
  (s.agenda.findSome? fun o => match o.2.instr with | .bootWarmReset r => some r | _ => none).getD cleanReport

/-- The steps that a write of a register with a behaviour of its own causes; none for the others. -/
def State.sysSteps (s : State) (core srn : Nat) (x : Dword) : Option (List Offer) :=
  let one (i : Instr) (a : Nat := 0) (b : Nat := 0) (y : Dword := x) : Option (List Offer) :=
    some [{ instr := i, arg := { a, b, c := 0, x := y } }]
  if 0x100 ≤ srn && srn ≤ 0x13F then (if srn % 4 == 3 then one .fwinCtl ((srn - 0x100) / 4) else none)
  else if 0x400 ≤ srn && srn ≤ 0x503 then one .headReserve (srn - 0x400)
  else if 0x600 ≤ srn && srn ≤ 0x703 then
    let h := srn - 0x600
    if !bit x 0 then one .headDisable h else if (s.head h).en then one .headReread h else one .headEnable h
  else match srn with
  | 0x011 => one .faultCtl
  | 0x012 => one .faultHeadWrite
  | 0x014 =>
    let j := bits x 63 8
    match bits x 3 0 with
    | 0 => one .faultResume j
    | 1 => one .faultReplay j
    | 2 => one .faultKillWave j
    | 3 => one .faultKillGroup j
    | 4 => one .faultKillGrid j
    | 5 => one .faultKillContext j
    | 8 => one .faultVacate j
    | _ => none
  | 0x040 => one .bankRole core
  | 0x081 =>
    match bits x 63 62 with
    | 0 => one .transInvalPage
    | 1 => one .transInvalSlot
    | 2 => one .transInvalAll
    | _ => none
  | 0x082 => one .regionSync
  | 0x090 => one .framePartitionWrite 0
  | 0x091 => one .framePartitionWrite 1
  | 0x092 => one .framePartitionWrite 2
  | 0xA00 => one .dbgTable
  | 0xA01 => one .dbgSync
  | 0xA03 =>
    match bits x 3 0 with
    | 1 => one .dbgHalt
    | 2 => one .dbgResume
    | 3 => one .dbgStep (bits x 13 4) (bits x 19 14)
    | 4 => one .dbgDeactivate
    | 5 => one .dbgProfileDump
    | 6 => one .dbgProfileClear
    | _ => none
  | 0xA31 =>
    match bits x 13 12 with
    | 0 => one .replayOff
    | 1 => one .replayRecord
    | 2 => one .replayEnforce
    | _ => none
  | 0xC01 =>
    let u : Arg := { a := 0, b := 0, c := 1, x := 0 }
    some ((if bit x 0 then [{ instr := .bootClearFails, arg := u }] else [])
      ++ (if bit x 1 then [{ instr := .bootWarmReset s.startReport, arg := u }] else []))
  | 0xC05 => if bits x 1 0 == 0 then one .attestReport else if bits x 1 0 == 1 then one .attestCertChain else none
  | _ => none

/-- The stochastic state that rdsr sees (R87, R146): on a line core the draws whose latencies have elapsed. -/
def State.stochNow (s : State) (c : Ctx) : Stoch :=
  match c.fl.owner with
  | .wave _ => c.w.r.stoch
  | .line k =>
    let l := s.line k
    stochAt l.stochSeen (l.stochPend ++ c.fl.draws.map fun e => (l.cnt + e.1, e.2)) (l.cnt + c.fl.cur.1)
/-- rdsr (R433); without a group in flight, a read through a control port. A line core has no bank roles: BANK_ROLE reads
zero there. -/
def execRdsr (h : Head) (o : YsFmt) (s : State) : Host.Outcome State Fault Refusal :=
  match s.flight with
  | none => .next s
  | some _ =>
    slot h s fun c s =>
      let n := o.srn.toNat
      let x := if 0x020 ≤ n && n ≤ 0x023 then ((s.stochNow c).word (n - 0x020)).zeroExtend 64
        else match c.prof with | .c => s.sysRead c.core n | .d => 0
      s.emitS 1 o.s x
/-- Steps of a write with who wrote it: an action on a record knows the writer's wave, one less than operand b, zero for a
control port, and the value written (R426). -/
def writtenBy (n b : Nat) (x : Dword) (l : List Offer) : List Offer :=
  if n == 0x014 then l.map fun o => { o with arg := { o.arg with b := b, x := x } } else l
/-- wrsr: the write completes before any later operation of its group performs an access or reads a register (R263, R433,
log entry 109); the draws of the group come before a write of the stochastic state (R146). A request to a full
queue completes later (R445, R519). Without a group in flight, a write through a control port (R434). -/
def execWrsr (h : Head) (o : YsFmt) (s : State) : Host.Outcome State Fault Refusal :=
  let n := o.srn.toNat
  match s.flight with
  | none =>
    match s.sysSteps s.arg.a n s.arg.x with
    | some l => .next { s with posted := writtenBy n s.arg.b s.arg.x l ++ s.posted }
    | none => .next (s.sysPut n s.arg.x)
  | some _ =>
    slot h s fun c s =>
      let x := c.w.r.sc o.s.toNat
      if 0x020 ≤ n && n ≤ 0x023 then
        s.modFlight fun fl => { fl with stochW := fl.stochW ++ [(n - 0x020, x.extractLsb' 0 32)] }
      else if n == 0x070 || n == 0xC04 then s.reqWrite (some c.w.uid) n x
      else match s.sysSteps c.core n x with
        | some l => s.modFlight fun fl => { fl with sysw := fl.sysw ++ writtenBy n (c.w.uid + 1) x l }
        | none => s.sysPut n x

end Sys2Proof.Machine
end

