-- ==== Sys2Proof/Machine/Waves.lean ====
section
/-! DEFINITION. A wave's PC groups and waits (04_waves_groups_and_regions.md R118 to R121), its register lines and
context (07_storage_and_translation.md R200 to R214), and the records that concern a wave. -/
namespace Sys2Proof.Machine
open Sys2Proof

/-! PC groups (R118, R120). -/

/-- Runnable threads at a PC. -/
def Wave.pcGroup (w : Wave) (pc : Dword) : Mask :=
  Mask.build fun i => (w.threads.get i).st == .runnable && (w.threads.get i).pc == pc
/-- The least of some addresses. -/
def leastPc : List Dword → Option Dword
  | [] => none
  | a :: t => match leastPc t with
    | none => some a
    | some b => some (if a.toNat ≤ b.toNat then a else b)
/-- A selection of R120: the runnable PC group above the cursor, or the lowest. -/
def Wave.select (w : Wave) : Wave :=
  let pcs := (w.inState .runnable).list.map fun i => (w.threads.get i).pc
  match leastPc (pcs.filter fun p => w.cursor.toNat < p.toNat) with
  | some p => { w with cur := w.pcGroup p, cursor := p }
  | none => match leastPc pcs with
    | some p => { w with cur := w.pcGroup p, cursor := p }
    | none => { w with cur := 0 }
/-- The current PC group after threads changed state: those at its PC, or a new selection when none is left. -/
def Wave.regroup (w : Wave) : Wave :=
  let alive := w.cur &&& w.inState .runnable
  match alive.lowest with
  | some i => { w with cur := w.pcGroup (w.threads.get i).pc }
  | none => w.select

/-- Change threads of a set. -/
def Wave.setThreads (w : Wave) (m : Mask) (f : Fin 32 → Thread → Thread) : Wave :=
  { w with threads := Vector.ofFn fun i => if m.has i then f i (w.threads.get i) else w.threads.get i }
/-- Threads become runnable; the wave selects again when it had no current group (R120). -/
def Wave.wake (w : Wave) (m : Mask) : Wave := (w.setThreads m fun _ t => { t with st := .runnable }).regroup
/-- Threads of the current PC group begin to wait (R306, R318, R351); such a wait has no end and no predicate (R200). -/
def Wave.waitOn (w : Wave) (m : Mask) (k : WKind) : Wave :=
  (w.setThreads m fun _ t => { t with st := .waiting, wkind := k, wend := 0, wpd := 0, vform := 0, vval := false }).regroup
/-- Every waiting thread of a kind becomes runnable and replays its group. -/
def State.wakeKind (s : State) (k : WKind) (p : Wave → Bool) : State :=
  let waiting (w : Wave) : Mask := Mask.build fun i => (w.threads.get i).st == .waiting && (w.threads.get i).wkind == k
  let ws := s.waves.map fun w => if p w && waiting w != 0 then w.wake (waiting w) else w
  { s with waves := ws }

/-! Register lines (R201 to R205). -/

/-- Words of a line and its poison. -/
def Wave.lineWords (w : Wave) (n : Nat) : Line × Mask :=
  if n < 128 then (w.r.vec n, w.r.vecBad n)
  else if n < 132 then
    let m := n - 128
    (Line.build fun i =>
        let x := w.r.sc (16 * m + i.val / 2)
        if i.val % 2 == 0 then x.extractLsb' 0 32 else x.extractLsb' 32 32,
     w.r.s.bad.extractLsb' (32 * m) 32)
  else (Line.build fun i => if i.val == 0 then 0xFFFFFFFF else w.r.p.get i, w.r.pbad)
/-- Install the words of a line. -/
def Wave.setLine (w : Wave) (n : Nat) (x : Line) (bad : Mask) : Wave :=
  if n < 128 then { w with r := { w.r with v := w.r.v.setIfInBounds n x, vbad := w.r.vbad.setIfInBounds n bad } }
  else if n < 132 then
    let m := n - 128
    let val : Vector Dword 64 := Vector.ofFn fun k =>
      if k.val / 16 == m then
        let j := 2 * (k.val % 16)
        x.toList.getD (j + 1) 0 ++ x.toList.getD j 0
      else w.r.s.val.get k
    let clear : BitVec 128 := w.r.s.bad &&& ~~~((bad.zeroExtend 128 ||| 0xFFFFFFFF#128) <<< (32 * m))
    { w with r := { w.r with s := { val, bad := clear ||| (bad.zeroExtend 128 <<< (32 * m)) } } }
  else { w with r := { w.r with p := Vector.ofFn fun i => if i.val == 0 then 0 else x.get i, pbad := bad &&& 0xFFFFFFFE } }

/-- The line of a register (R201). -/
def Reg.line : Reg → Option Nat
  | .v n => some n
  | .s n => some (128 + n / 16)
  | .p n => if n == 0 then none else some 132
  | .b _ | .q _ => none

def bitOf (n : Nat) : BitVec 133 := 1#133 <<< n
/-- Line states. -/
def Wave.isDead (w : Wave) (n : Nat) : Bool := w.lines.dead.getLsbD n
def Wave.holds (w : Wave) (n : Nat) : Bool := w.lines.resident.getLsbD n
/-- The line is written: live, resident, dirty (R205, R207). -/
def Wave.dirtyLine (w : Wave) (n : Nat) : Wave :=
  let b := bitOf n
  { w with lines := { w.lines with resident := w.lines.resident ||| b, dirty := w.lines.dirty ||| b,
                                   dead := w.lines.dead &&& ~~~b } }
/-- The line dies: it reads zero and is dropped (R205). -/
def Wave.killLine (w : Wave) (n : Nat) : Wave :=
  let w := w.setLine n (Line.fill 0) 0
  let b := bitOf n
  { w with lines := { w.lines with resident := w.lines.resident &&& ~~~b, dirty := w.lines.dirty &&& ~~~b,
                                   pinned := w.lines.pinned &&& ~~~b, dead := w.lines.dead ||| b },
           c := { w.c with pinAt := w.c.pinAt.filter fun e => e.1 != n } }
/-- A result that the device owes to a line has not reached it: a completion (R212) or a predicate (R196, R285). -/
def Wave.owes (w : Wave) (n : Nat) : Bool :=
  (n == 132 && !w.owed.isEmpty) || w.c.kept.any fun k => 128 + k.1.toNat / 16 == n
/-- A line becomes the most recently used of its core (R129). -/
def State.touchLine (s : State) (g u n : Nat) : State :=
  s.modCore g fun c => { c with lru := (c.lru.filter fun l => l != (u, n)) ++ [(u, n)] }
/-- A line leaves the register cache. -/
def State.untrack (s : State) (g u n : Nat) : State :=
  s.modCore g fun c => { c with lru := c.lru.filter fun l => l != (u, n) }
/-- Lines of a wave leave the register cache. -/
def State.untrackWave (s : State) (g u : Nat) : State :=
  s.modCore g fun c => { c with lru := c.lru.filter fun l => l.1 != u }

/-- The form of R203. -/
def packForm (x : Line) (bad : Mask) : Nat :=
  let ws := x.toList
  let w0 := ws.getD 0 0
  let st := ws.getD 1 0 - w0
  if bad != 0 then 0
  else if ws.all fun w => w == w0 then 1
  else if lanes.all fun i => x.get i == w0 + BitVec.ofNat 32 (i.val * st.toNat) then 2
  else if ws.all fun w => decide (-128 ≤ w.toInt) && decide (w.toInt ≤ 127) then 3
  else if ws.all fun w => decide (-32768 ≤ w.toInt) && decide (w.toInt ≤ 32767) then 4
  else 0
/-- Bytes of a line in a form (R202); a poisoned word is written as zero (R203). -/
def packBytes (form : Nat) (x : Line) (bad : Mask) : List Byte :=
  let ws := x.toList
  let w0 := (ws.getD 0 0).toNat
  match form with
  | 1 => bytesOfNat 4 w0
  | 2 => bytesOfNat 4 w0 ++ bytesOfNat 4 (ws.getD 1 0 - ws.getD 0 0).toNat
  | 3 => ws.flatMap fun w => bytesOfNat 1 w.toNat
  | 4 => ws.flatMap fun w => bytesOfNat 2 w.toNat
  | _ => (lanes.map fun i => if bad.has i then 0 else (x.get i).toNat).flatMap (bytesOfNat 4)
/-- Bytes read for a LEGEND byte; none for a reserved tag (R204). -/
def formBytes (legend : Byte) : Option Nat :=
  match legend.toNat with
  | 0 => some 128 | 1 => some 4 | 2 => some 8 | 3 => some 32 | 4 => some 64 | _ => none
/-- The words that a form's bytes give, and those poisoned by their bytes (R202, R204). In the affine form word 0 is not read
from the stride bytes (DEDUCED, log entry 102). -/
def unpackLine (legend : Byte) (bs : List PByte) : Line × Mask :=
  let at' (k n : Nat) : List PByte := (bs.drop k).take n
  let num (k n : Nat) : Nat := natOf (at' k n)
  match legend.toNat with
  | 0 => (Line.build fun i => BitVec.ofNat 32 (num (4 * i.val) 4), Mask.build fun i => anyBad (at' (4 * i.val) 4))
  | 1 => (Line.build fun _ => BitVec.ofNat 32 (num 0 4), if anyBad bs then BitVec.allOnes 32 else 0)
  | 2 =>
    (Line.build fun i => BitVec.ofNat 32 (num 0 4 + i.val * num 4 4),
     Mask.build fun i => anyBad (at' 0 4) || (anyBad (at' 4 4) && i.val != 0))
  | 3 => (Line.build fun i => BitVec.ofInt 32 (sInt 8 (num i.val 1)), Mask.build fun i => anyBad (at' i.val 1))
  | 4 => (Line.build fun i => BitVec.ofInt 32 (sInt 16 (num (2 * i.val) 2)), Mask.build fun i => anyBad (at' (2 * i.val) 2))
  | _ => (Line.fill 0, BitVec.allOnes 32)
/-- The offset of a line's slot in its context (R201). -/
def slotOff (n : Nat) : Nat := if n < 128 then 0x1000 + 128 * n else if n < 132 then 0x5000 + 128 * (n - 128) else 0x400

/-! The header (R200). -/

def WKind.code : WKind → Nat
  | .bar => 0 | .vote => 1 | .barc => 2 | .wait => 3 | .waitLim => 4 | .sleep => 5 | .bench => 6 | .contq => 7
  | .window => 8 | .cull => 9
def WKind.ofCode (n : Nat) : WKind :=
  match n with
  | 0 => .bar | 1 => .vote | 2 => .barc | 3 => .wait | 4 => .waitLim | 5 => .sleep | 6 => .bench | 7 => .contq
  | 8 => .window | _ => .cull
def TState.ofCode (n : Nat) : TState :=
  match n with
  | 0 => .runnable | 1 => .held | 2 => .waiting | 3 => .parked | _ => .exited
/-- The TSTATE byte of a thread. -/
def Thread.stateByte (t : Thread) : Nat := t.st.code + (if t.st == .waiting then 8 * t.wkind.code else 0)
/-- The WAITREC word of a thread; one that exited with the group of its vote still has the vote to end. -/
def Thread.waitWord (t : Thread) : Dword :=
  if t.st == .waiting || t.voted then
    BitVec.ofNat 64 (t.wend.toNat + 2 ^ 48 * t.wpd.toNat + 2 ^ 53 * t.vform.toNat + (if t.vval then 2 ^ 55 else 0))
  else 0

/-- Words 0 to 127 of the header, then the 32 words at 0x818. MONLINE is the newest line that a walk monitors for the
wave, else the line of its mon (R200 has one field; log entry 126). -/
def Wave.header (w : Wave) (surv : Dword) : List Dword :=
  let th := w.threads.toList
  let loop (k : Nat) : List Dword := match w.r.loops[k]? with
    | some e => [e.start, e.stop, e.count.zeroExtend 64]
    | none => [0, 0, 0]
  let dead := w.lines.dead.toNat
  let mon := match w.c.parkLines with | l :: _ => some l | [] => w.c.mon
  th.map (fun t => t.pc) ++ th.map (fun t => t.meet) ++ w.r.b.toList
    ++ loop 0 ++ loop 1 ++ loop 2 ++ loop 3
    ++ [w.cursor, BitVec.ofNat 64 (w.r.mode.toNat + 2 ^ 8 * w.r.flags.toNat + 2 ^ 16 * w.r.loops.length),
        w.r.stoch.y ++ w.r.stoch.x, w.r.stoch.w ++ w.r.stoch.z, w.c.tokPend, w.c.parkVA,
        BitVec.ofNat 64 dead, BitVec.ofNat 64 (dead / 2 ^ 64), BitVec.ofNat 64 (dead / 2 ^ 128),
        BitVec.ofNat 64 ((if w.c.stopped then 1 else 0) + (if w.c.halted then 2 else 0) + (if w.c.wsup then 4 else 0)),
        BitVec.ofNat 64 w.c.traprec, 0]
    ++ (List.range 4).map (fun k =>
        BitVec.ofNat 64 (((List.range 8).map fun j => ((th[8 * k + j]?).map Thread.stateByte).getD 0 * 256 ^ j).foldl (· + ·) 0))
    ++ [surv, BitVec.ofNat 64 (128 * mon.getD 0), 0, w.c.barGen.zeroExtend 64]
    ++ List.replicate 24 0
    ++ th.map Thread.waitWord
/-- Offset of header word k. -/
def headOff (k : Nat) : Nat := if k < 128 then 8 * k else 0x818 + 8 * (k - 128)

/-- What a header word becomes at activation: the device's value where the device changed it since it was
written, else what memory holds (R213). Words 96 to 99 are decided byte by byte. -/
def mergeWord (k : Nat) (img dev mem : Dword) : Dword :=
  if 96 ≤ k && k < 100 then
    BitVec.ofNat 64 (((List.range 8).map fun j =>
      let b (x : Dword) : Nat := bits x (8 * j + 7) (8 * j)
      (if b img == b dev then b mem else b dev) * 256 ^ j).foldl (· + ·) 0)
  else if img == dev then mem else dev

/-- The wave that a header describes. -/
def Wave.fromHeader (w : Wave) (h : List Dword) : Wave :=
  let x (k : Nat) : Dword := wd h k
  let byteOf (i : Nat) : Nat := bits (x (96 + i / 8)) (8 * (i % 8) + 7) (8 * (i % 8))
  let th : Vector Thread 32 := Vector.ofFn fun i =>
    let b := byteOf i.val
    let r := x (128 + i.val)
    { w.threads.get i with
        pc := x i.val, meet := x (32 + i.val), st := TState.ofCode (b % 8), wkind := WKind.ofCode (b / 8 % 16),
        wend := r.setWidth 48, wpd := r.extractLsb' 48 5, vform := r.extractLsb' 53 2, vval := bit r 55 }
  let ws := x 85
  let loops := (List.range (min (bits ws 18 16) 4)).map fun k =>
    ({ start := x (72 + 3 * k), stop := x (73 + 3 * k), count := (x (74 + 3 * k)).setWidth 32 } : LoopEntry)
  let st : Stoch :=
    { x := (x 86).extractLsb' 0 32, y := (x 86).extractLsb' 32 32, z := (x 87).extractLsb' 0 32,
      w := (x 87).extractLsb' 32 32 }
  let r := { w.r with b := Vector.ofFn fun i => x (64 + i.val) &&& ~~~(0x3C#64), loops := loops, mode := ws.setWidth 5,
                      flags := ws.extractLsb' 8 5, stoch := st }
  let dead : BitVec 133 := BitVec.ofNat 133 ((x 90).toNat + 2 ^ 64 * (x 91).toNat + 2 ^ 128 * (x 92).toNat)
  let c := { w.c with tokPend := x 88, parkVA := x 89, stopped := bit (x 93) 0, halted := bit (x 93) 1,
                      wsup := bit (x 93) 2, traprec := (x 94).toNat, barGen := (x 103).setWidth 32 }
  { w with threads := th, r := r, cursor := x 84, c := c, lines := { w.lines with dead := dead } }

/-! Device accesses to a context (R209). -/

/-- Where a context byte lies, or why it cannot be reached. -/
inductive CtxAt where
  | ok (pa mt : Nat)
  | park (line : Nat)
  | fatal
  deriving DecidableEq, Repr
/-- A failed access to a context: the entry's line when it is absent, the address, and DETAIL. -/
structure CtxFail where
  park : Option Nat
  va : Dword
  detail : Nat
  deriving DecidableEq, Repr

def State.ctxAt (s : State) (g slot : Nat) (write : Bool) (va : Dword) : State × CtxAt :=
  if bits va 63 56 != 0 then (s, .fatal)
  else
    let r := s.translate (some g) slot va.toNat
    (r.1, match r.2 with
      | .malformed | .unmapped => .fatal
      | .absent l => .park l
      | .ok e =>
        let pa := e.pa + va.toNat % 4096
        if (write && !e.w) || r.1.range pa != .mem then .fatal else .ok pa e.mt)
/-- Read n bytes that lie in one page. The core lets go of its own copies first, so that what privileged software wrote to
the context of a dormant wave is seen (R436). -/
def State.ctxRead (s : State) (g slot : Nat) (va : Dword) (n detail : Nat) : State × (CtxFail ⊕ List PByte) :=
  let r := s.ctxAt g slot false va
  match r.2 with
  | .ok pa mt =>
    let b := ((linesOf pa n).foldl (fun s l => s.l1Drop g l) r.1).loadPa g mt false pa n
    (b.1, .inr b.2)
  | .park l => (r.1, .inl { park := some l, va, detail })
  | .fatal => (r.1, .inl { park := none, va, detail })
/-- Where a write of a context lands: the translation of one of its pages, made once for all of it. -/
structure CtxPage where
  vpage : Nat
  base : Nat
  mt : Nat
  deriving DecidableEq, Repr
/-- Where a write at an address would land, or why it would fail. -/
def State.ctxProbe (s : State) (g slot : Nat) (detail : Nat) (va : Dword) : State × (CtxFail ⊕ CtxPage) :=
  let r := s.ctxAt g slot true va
  (r.1, match r.2 with
    | .ok pa mt => .inr { vpage := va.toNat / 4096, base := pa - va.toNat % 4096, mt }
    | .park l => .inl { park := some l, va, detail }
    | .fatal => .inl { park := none, va, detail })
/-- Write bytes that lie in one page, performed at pkg scope, where its probe found the page. -/
def State.ctxWrite (s : State) (g : Nat) (ps : List CtxPage) (va : Dword) (bs : List PByte) : State :=
  match ps.find? fun p => p.vpage == va.toNat / 4096 with
  | some p =>
    let pa := p.base + va.toNat % 4096
    let s := s.storePa g p.mt 0 pa bs
    let s := s.wcFlushLine g (pa / 128)
    s.writeBack (dieOf g) (pa / 128)
  | none => s
/-- The pages of several accesses, or the first failure. -/
def State.ctxProbes (s : State) (g slot : Nat) : List (Dword × Nat) → State × (CtxFail ⊕ List CtxPage)
  | [] => (s, .inr [])
  | (va, d) :: t =>
    let r := s.ctxProbe g slot d va
    match r.2 with
    | .inl f => (r.1, .inl f)
    | .inr p =>
      let q := r.1.ctxProbes g slot t
      (q.1, match q.2 with | .inl f => .inl f | .inr ps => .inr (p :: ps))

/-- Write a line to its slot with its LEGEND byte and POISON mask (R203, R211), or why it cannot be. -/
def State.putLine (s : State) (g slot : Nat) (w : Wave) (n : Nat) : State × Option CtxFail :=
  let at0 := w.ctx + BitVec.ofNat 64 (slotOff n)
  let leg := w.ctx + BitVec.ofNat 64 (0x500 + n)
  let poi := w.ctx + BitVec.ofNat 64 (0x600 + 4 * n)
  let r := s.ctxProbes g slot [(at0, n), (leg, n), (poi, n)]
  match r.2 with
  | .inl f => (r.1, some f)
  | .inr ps =>
    let x := w.lineWords n
    let form := if 128 ≤ n && n < 132 then 0 else packForm x.1 x.2
    let s := r.1.ctxWrite g ps at0 ((packBytes form x.1 x.2).map clean)
    let s := s.ctxWrite g ps leg [clean (BitVec.ofNat 8 form)]
    let s := s.ctxWrite g ps poi (cleanBytes 4 x.2.toNat)
    (s.modWave w.uid fun (v : Wave) =>
      let b := bitOf n
      { v with lines := { v.lines with legend := v.lines.legend.setIfInBounds n (BitVec.ofNat 8 form),
                                       poison := v.lines.poison.setIfInBounds n x.2,
                                       dirty := v.lines.dirty &&& ~~~b, pinned := v.lines.pinned &&& ~~~b },
               c := { v.c with pinAt := v.c.pinAt.filter fun e => e.1 != n } }, none)

/-! Records about a wave (R420, R421, R423). -/

/-- Region of a wave. -/
def State.regionOf (s : State) (w : Wave) : Dword := ((s.gridOf w).map fun g => g.region).getD 0
/-- A record of a wave with the fields that every kind gives it. -/
def State.waveRec (s : State) (w : Wave) (kind : Nat) (code : Byte) (detail : Nat) (pc next : Dword) (m : Mask)
    (addr info : Dword) : FaultRec :=
  { code, kind, slot := s.slotOf w, sloti := none, detail := BitVec.ofNat 8 detail, region := s.regionOf w, ctx := w.ctx,
    pc, next, lanes := m, addr, info, wave := some w.uid, nexts := [] }
/-- A trap that arises between groups, or at a fill: PC and NEXT are the wave's next group (R421). -/
def State.waveTrap (s : State) (w : Wave) (code : Byte) (detail : Nat) (m : Mask) (addr info : Dword) : State :=
  let s := s.traceEvent (s.coreOf w) w 5 code.toNat w.nextPc.toNat
  s.takeTrap (s.waveRec w 0 code detail w.nextPc w.nextPc m addr info)
/-- A park notice (R235 step 4, R429). -/
def State.parkNotice (s : State) (w : Wave) (va : Dword) (m : Mask) : State :=
  s.report (s.waveRec w 1 0x06 0 w.nextPc w.nextPc m va 0)
/-- Threads park on an address whose entry lies in a line (R235). -/
def State.park (s : State) (u : Nat) (m : Mask) (va : Dword) (line : Nat) : State :=
  match s.wave? u with
  | none => s
  | some w =>
    let s := s.traceEvent (s.coreOf w) w 3 0 w.nextPc.toNat
    let s := s.parkNotice w va m
    s.modWave u fun (w : Wave) =>
      let w := (w.setThreads m fun _ t => { t with st := .parked }).regroup
      { w with c := { w.c with parkVA := va, parkLines := line :: w.c.parkLines.filter fun l => l != line } }

/-! Victims (R109, R129, R435). -/

/-- The nearest block of a wave's chain whose RCLINES budget a core has reached. -/
def State.rcFull (s : State) (w : Wave) : Option Dword :=
  match (s.effWave w).2 with
  | none => none
  | some e =>
    (List.range e.chain.length).findSome? fun k =>
      let anc := e.chain.drop k
      let a := (anc.head?.map fun b => b.1).getD 0
      if (effOf a anc).rclines ≤ s.linesUnder (s.slotOf w) a (s.coreOf w) then some a else none
/-- The lines of a core that may be victims for a wave, least recently used first (R129). -/
def State.victims (s : State) (w : Wave) (keep : List Nat) : List (Nat × Nat) :=
  let c := s.core (s.coreOf w)
  let pool := match s.rcFull w with
    | none => if c.lru.length < 6144 then [] else c.lru
    | some a =>
      let gs := (s.groupsUnder (s.slotOf w) a).map fun (g : Group) => g.uid
      c.lru.filter fun (l : Nat × Nat) => (s.wave? l.1).any fun (v : Wave) => gs.any fun u => u == v.group
  pool.filter fun (l : Nat × Nat) =>
    !(l.1 == w.uid && keep.any fun n => n == l.2) && (s.wave? l.1).any fun (v : Wave) => !v.lines.pinned.getLsbD l.2
/-- A line may be installed without a victim. -/
def State.rcRoom (s : State) (w : Wave) : Bool :=
  (s.rcFull w).isNone && (s.core (s.coreOf w)).lru.length < 6144

/-- A line that could not be written is pinned, and the failure is reported (R435). -/
def State.pinLine (s : State) (w : Wave) (n : Nat) (f : CtxFail) : State :=
  let away := match f.park with | some l => [(n, l)] | none => []
  let s := s.modWave w.uid fun (v : Wave) =>
    { v with lines := { v.lines with pinned := v.lines.pinned ||| bitOf n },
             c := { v.c with pinAt := away ++ v.c.pinAt.filter fun e => e.1 != n } }
  match f.park with
  | some _ => s.parkNotice w f.va 0
  | none => s.waveTrap w 0x07 f.detail w.cur f.va 0
/-- The line leaves the register cache. -/
def State.dropLine (s : State) (g u n : Nat) : State :=
  (s.modWave u fun (v : Wave) =>
    let b := bitOf n
    { v with lines := { v.lines with resident := v.lines.resident &&& ~~~b, dirty := v.lines.dirty &&& ~~~b } }).untrack g u n
/-- Evict a line: packed and written when dirty; false when it stays pinned. -/
def State.evict (s : State) (g u n : Nat) : State × Bool :=
  match s.wave? u with
  | none => (s.untrack g u n, true)
  | some w =>
    if w.lines.dirty.getLsbD n && !w.isDead n then
      let r := s.putLine g (s.slotOf w) w n
      match r.2 with
      | none => (r.1.dropLine g u n, true)
      | some f => (r.1.pinLine w n f, false)
    else (s.dropLine g u n, true)
/-- Make room for one line of a wave, false when no line is eligible (R129). -/
def State.makeRoom (s : State) (u : Nat) (keep : List Nat) : Nat → State × Bool
  | 0 => (s, false)
  | n + 1 =>
    match s.wave? u with
    | none => (s, false)
    | some w =>
      if s.rcRoom w then (s, true)
      else match s.victims w keep with
        | [] => (s, false)
        | v :: _ =>
          let r := s.evict (s.coreOf w) v.1 v.2
          r.1.makeRoom u keep n

/-! Filling a line (R204, R208, R209). -/

/-- Results owed to a line arrive in it: completions (R212) and predicates (R196, R285). -/
def Wave.applyOwed (w : Wave) (n : Nat) : Wave :=
  if n == 132 then
    if w.owed.isEmpty then w
    else
      let p : Vector Mask 32 := Vector.ofFn fun k =>
        w.owed.foldl (fun (m : Mask) o =>
          if o.2.1 == k.val then (if o.2.2 then m ||| (1#32 <<< o.1) else m &&& ~~~(1#32 <<< o.1)) else m) (w.r.p.get k)
      ({ w with r := { w.r with p := p }, owed := [] }).dirtyLine 132
  else if 128 ≤ n && n < 132 then
    let mine := w.c.kept.filter fun k => 128 + k.1.toNat / 16 == n
    if mine.isEmpty then w
    else
      let w' := mine.foldl (fun (v : Wave) k =>
        { v with r := { v.r with s := { val := v.r.s.val.setIfInBounds k.1.toNat k.2,
                                        bad := v.r.s.bad &&& ~~~((3#128) <<< (2 * k.1.toNat)) } } }) w
      ({ w' with c := { w'.c with kept := w.c.kept.filter fun k => 128 + k.1.toNat / 16 != n } }).dirtyLine n
  else w

/-- The words of a missing line as its context gives them (R204), or why they cannot be read. -/
def State.readLine (s : State) (g slot : Nat) (w : Wave) (n : Nat) : State × (CtxFail ⊕ Line × Mask) :=
  let leg := w.lines.legend.toList.getD n 0
  match formBytes leg with
  | none => (s, .inr (Line.fill 0, BitVec.allOnes 32))
  | some k =>
    let r := s.ctxRead g slot (w.ctx + BitVec.ofNat 64 (slotOff n)) k n
    (r.1, match r.2 with
      | .inl f => .inl f
      | .inr bs => let x := unpackLine leg bs; .inr (x.1, x.2 ||| w.lines.poison.toList.getD n 0))
/-- A line arrives in the registers of a wave, and with it what the device owes to it. -/
def Wave.install (w : Wave) (n : Nat) (x : Line × Mask) : Wave :=
  let w := w.setLine n x.1 x.2
  ({ w with lines := { w.lines with resident := w.lines.resident ||| bitOf n } }).applyOwed n
/-- A missing line of an activated wave is read and installed clean; a failure parks or stops the wave. -/
def State.fillLine (s : State) (u n : Nat) : State :=
  match s.wave? u with
  | none => s
  | some w =>
    let g := s.coreOf w
    let r := s.readLine g (s.slotOf w) w n
    match r.2 with
    | .inr x => (r.1.modWave u fun w => w.install n x).touchLine g u n
    | .inl f =>
      match f.park with
      | some l => r.1.park u w.cur f.va l
      | none => r.1.waveTrap w 0x07 f.detail w.cur f.va 0

/-- Write a predicate of one lane for the device: now when line 132 is at hand, else owed (R196, R285). A dead line
first needs a place (R129). -/
def Wave.putPred (w : Wave) (i : Fin 32) (pd : Nat) (v : Bool) : Wave :=
  if pd == 0 then w
  else if w.isActive && w.holds 132 then
    ({ w with owed := w.owed ++ [(i.val, pd, v)] }).applyOwed 132
  else { w with owed := w.owed ++ [(i.val, pd, v)] }

/-- A status reaches a token register (R212). For a dormant wave it is written into the scalar slot; that a written word
also loses its poison in the line's POISON mask, and that the completion is kept when the page of that mask cannot be
written, is the model's choice, for R212 names only the slot and TOKPEND (DESIGN CHOICE, log entry 103). -/
def State.completeToken (s : State) (u : Nat) (td : BitVec 6) (st : Dword) : State :=
  match s.wave? u with
  | none => s
  | some w =>
    let g := s.coreOf w
    let n := 128 + td.toNat / 16
    let clear (w : Wave) : Wave := { w with c := { w.c with tokPend := w.c.tokPend &&& ~~~(1#64 <<< td.toNat) } }
    if w.isActive then
      let s := s.modWave u fun w =>
        let w := clear { w with c := { w.c with kept := (w.c.kept.filter fun k => k.1 != td) ++ [(td, st)] } }
        if w.holds n then w.applyOwed n else w
      if (s.wave? u).any fun w => w.holds n && (s.core g).lru.any fun e => e == (u, n) then s.touchLine g u n else s
    else
      match w.act with
      | .dormant _ true _ =>
        s.modWave u fun w => clear { w with c := { w.c with kept := w.c.kept ++ [(td, st)] } }
      | _ =>
        let slot := s.slotOf w
        let at0 := w.ctx + BitVec.ofNat 64 (slotOff n + 8 * (td.toNat % 16))
        let tp := w.ctx + 0x2C0
        let poi := w.ctx + BitVec.ofNat 64 (0x600 + 4 * n)
        let r := s.ctxProbes g slot [(at0, n), (tp, 0xFF), (poi, n)]
        match r.2 with
        | .inl _ => r.1.modWave u fun (w : Wave) => { w with c := { w.c with kept := w.c.kept ++ [(td, st)] } }
        | .inr ps =>
          let pm := r.1.ctxRead g slot poi 4 n
          let bits0 : Nat := match pm.2 with | .inr bs => natOf bs | .inl _ => 0
          let mask : Mask := BitVec.ofNat 32 bits0 &&& ~~~((3#32) <<< (2 * (td.toNat % 16)))
          let s := pm.1.ctxWrite g ps at0 (cleanBytes 8 st.toNat)
          let s := s.ctxWrite g ps poi (cleanBytes 4 mask.toNat)
          let t := s.ctxRead g slot tp 8 0xFF
          let old : Dword := match t.2 with | .inr bs => BitVec.ofNat 64 (natOf bs) | .inl _ => 0
          let s := t.1.ctxWrite g ps tp (cleanBytes 8 (old &&& ~~~(1#64 <<< td.toNat)).toNat)
          s.modWave u fun w =>
            let w := clear w
            { w with img := w.img.modify 88 fun x => x &&& ~~~(1#64 <<< td.toNat) }

/-! Deactivation and activation (R210 to R214, R435). -/

/-- Context address of the paired wave. -/
def State.pairCtx (s : State) (w : Wave) : Dword := ((w.pair.bind fun u => s.wave? u).map fun v => v.ctx).getD 0
/-- Dirty live lines of a wave. -/
def Wave.dirtyLines (w : Wave) : List Nat :=
  (List.range 133).filter fun n => w.lines.dirty.getLsbD n && !w.isDead n

/-- Write the dirty lines in turn until one fails. -/
def State.putLines (s : State) (g slot u : Nat) : List Nat → State × Option CtxFail
  | [] => (s, none)
  | n :: t =>
    match s.wave? u with
    | none => (s, none)
    | some w =>
      let r := s.putLine g slot w n
      match r.2 with
      | some f => (r.1, some f)
      | none => r.1.putLines g slot u t
/-- Every write of the header fails or none does. -/
def State.putHeader (s : State) (g slot : Nat) (w : Wave) : State × Option CtxFail :=
  let ws := (w.header (s.pairCtx w)).zipIdx
  let va (k : Nat) : Dword := w.ctx + BitVec.ofNat 64 (headOff k)
  let r := s.ctxProbes g slot [(va 0, 0xFF), (va 127, 0xFF), (va 128, 0xFF), (va 159, 0xFF)]
  match r.2 with
  | .inl f => (r.1, some f)
  | .inr ps =>
    let s := ws.foldl (fun s (e : Dword × Nat) => s.ctxWrite g ps (va e.2) (cleanBytes 8 e.1.toNat)) r.1
    (s.modWave w.uid fun (v : Wave) => { v with img := ws.map fun e => e.1 }, none)
/-- A failed deactivation: the wave stays activated with its unwritten lines pinned (R435). -/
def State.deactFailed (s : State) (u : Nat) (f : CtxFail) : State :=
  let s := s.modWave u fun (w : Wave) =>
    let away := match f.park with | some l => w.dirtyLines.map fun n => (n, l) | none => []
    { w with lines := { w.lines with pinned := w.lines.pinned ||| (w.lines.dirty &&& ~~~w.lines.dead) },
             c := { w.c with pinAt := away, abandoned := true } }
  match s.wave? u with
  | none => s
  | some w =>
    match f.park with
    | some l => s.park u (w.inState .runnable) f.va l
    | none => s.waveTrap w 0x07 f.detail w.live f.va 0

/-- Results owed to lines that the wave does not hold reach them before the wave is written to its context (R196, R211,
R212, R285), or the first failure to read such a line. -/
def State.settleOwed (s : State) (g slot u : Nat) : List Nat → State × Option CtxFail
  | [] => (s, none)
  | n :: t =>
    match s.wave? u with
    | none => (s, none)
    | some w =>
      if !w.owes n then s.settleOwed g slot u t
      else if w.holds n || w.isDead n then (s.modWave u fun w => w.applyOwed n).settleOwed g slot u t
      else
        let r := s.readLine g slot w n
        match r.2 with
        | .inl f => (r.1, some f)
        | .inr x => (r.1.modWave u fun w => w.install n x).settleOwed g slot u t

/-- Deactivate one activated wave (R211); true when it became dormant. -/
def State.deactivate (s : State) (u : Nat) : State × Bool :=
  match s.wave? u with
  | none => (s, false)
  | some w =>
    if !w.isActive then (s, true)
    else
      let g := s.coreOf w
      let slot := s.slotOf w
      let q := s.settleOwed g slot u [128, 129, 130, 131, 132]
      let r := match q.2 with
        | some f => (q.1, some f)
        | none => q.1.putLines g slot u (((q.1.wave? u).map Wave.dirtyLines).getD [])
      match r.2 with
      | some f => (r.1.deactFailed u f, false)
      | none =>
        let h := match r.1.wave? u with
          | some w => r.1.putHeader g slot w
          | none => (r.1, none)
        match h.2 with
        | some f => (h.1.deactFailed u f, false)
        | none =>
          let s := (h.1.traceEvent g w 2 0 w.nextPc.toNat).unsync g u
          let s := s.untrackWave g u
          let none8 : Vector PTEntry 8 := Vector.replicate 8 PTEntry.blank
          let s := s.modWave u fun (w : Wave) =>
            { w with act := .dormant s.cycle false false, targets := none8, recent := [],
                     threads := w.threads.map fun t => { t with via := none, back := false },
                     lines := { w.lines with resident := 0, dirty := 0, pinned := 0 },
                     c := { w.c with marks := [] } }
          (s, true)
/-- A wave and its pair (R214). -/
def State.deactivatePair (s : State) (u : Nat) : State × Bool :=
  let p := (s.wave? u).bind fun w => w.pair
  let r := s.deactivate u
  match p with
  | some v => if r.2 then r.1.deactivate v else r
  | none => r

/-- Activation slots in use on a core. -/
def State.slotsUsed (s : State) (g : Nat) : List Nat :=
  s.waves.filterMap fun w => if s.coreOf w == g then (match w.act with | .active k _ => some k | .dormant .. => none) else none
def State.freeSlots (s : State) (g : Nat) : List Nat :=
  let used := s.slotsUsed g
  (List.range 64).filter fun k => !used.any fun u => u == k

/-- Read the header of a context: the first failure, or its words, the LEGEND bytes, POISON masks, and the
offset of the first poisoned byte elsewhere (R210). -/
def State.readHeader (s : State) (g slot : Nat) (ctx : Dword) :
    State × (CtxFail ⊕ List Dword × List PByte × List (List PByte) × Option Nat) :=
  let get (acc : State × (CtxFail ⊕ List (Nat × List PByte))) (off n : Nat) : State × (CtxFail ⊕ List (Nat × List PByte)) :=
    match acc.2 with
    | .inl f => (acc.1, .inl f)
    | .inr l =>
      let r := acc.1.ctxRead g slot (ctx + BitVec.ofNat 64 off) n 0xFF
      match r.2 with
      | .inl f => (r.1, .inl f)
      | .inr bs => (r.1, .inr (l ++ [(off, bs)]))
  let step (acc : State × (CtxFail ⊕ List (Nat × List PByte))) (k : Nat) := get acc (headOff k) 8
  let a := (List.range 128).foldl step (s, .inr [])
  let b := (List.range 256).foldl (fun acc k => get acc (0x500 + k) 1) a
  let c := (List.range 133).foldl (fun acc k => get acc (0x600 + 4 * k) 4) b
  let d := ((List.range 32).map fun k => k + 128).foldl step c
  match d.2 with
  | .inl f => (d.1, .inl f)
  | .inr l =>
    let ws := l.take 128 ++ l.drop 517
    let rest := l.take 128 ++ (l.drop 261).take 123 ++ l.drop 517
    let bad := rest.findSome? fun e => (e.2.zipIdx.find? fun b => b.1.bad).map fun b => e.1 + b.2
    (d.1, .inr (ws.map fun e => BitVec.ofNat 64 (natOf e.2), ((l.drop 128).take 133).map fun e => (e.2.head?).getD (clean 0),
      ((l.drop 384).take 133).map (fun e => e.2), bad))

/-- Threads of sleeps and limited waits whose END has passed run on (R200). -/
def State.endWaits (s : State) (u : Nat) : State :=
  s.modWave u fun w =>
    let late (t : Thread) : Bool :=
      t.st == .waiting && (t.wkind == .sleep || t.wkind == .waitLim)
        && (BitVec.ofNat 48 s.cycle - t.wend).toNat < 2 ^ 47
    let m := Mask.build fun i => late (w.threads.get i)
    if m == 0 then w
    else
      let w' := m.list.foldl (fun (v : Wave) i =>
        if (w.threads.get i).wkind == .waitLim then v.putPred i (w.threads.get i).wpd.toNat false else v) w
      w'.wake m

/-- Activate one dormant wave into a slot (R210); the wave stays dormant on a fault. -/
def State.activate (s : State) (u k : Nat) : State × Bool :=
  match s.wave? u with
  | none => (s, false)
  | some w =>
    let g := s.coreOf w
    let go (s : State) : State :=
      let s := s.modWave u fun (w : Wave) =>
        let tp := w.c.kept.foldl (fun (t : Dword) e => t &&& ~~~(1#64 <<< e.1.toNat)) w.c.tokPend
        { w with act := .active k s.cycle, c := { w.c with tokPend := tp } }
      let s := s.endWaits u
      match s.wave? u with
      | some w => (s.traceEvent g w 1 0 w.nextPc.toNat).unsync g u
      | none => s
    match w.act with
    | .active .. => (s, true)
    | .dormant _ true _ =>
      let b : BitVec 133 := 7 ||| bitOf 128
      let s := s.modWave u fun (w : Wave) => { w with lines := { w.lines with resident := b, dirty := b } }
      let s := [0, 1, 2, 128].foldl (fun s n => if s.rcRoom w then s.touchLine g u n else s) s
      let s := s.modWave u fun w => (List.range 133).foldl (fun (w : Wave) n => if w.holds n then w.applyOwed n else w) w
      (go s, true)
    | .dormant since false _ =>
      let r := s.readHeader g (s.slotOf w) w.ctx
      let stay (s : State) (f : CtxFail) : State :=
        let s := s.modWave u fun (w : Wave) => { w with act := .dormant since false true }
        match f.park with
        | some l =>
          let s := (s.traceEvent g w 3 0 w.nextPc.toNat).parkNotice w f.va w.live
          s.modWave u fun (w : Wave) => { w with c := { w.c with parkLines := [l], parkVA := f.va } }
        | none => s.waveTrap w 0x07 f.detail w.live f.va 0
      match r.2 with
      | .inl f => (stay r.1 f, false)
      | .inr (ws, leg, poi, bad) =>
        match bad with
        | some off => (stay r.1 { park := none, va := w.ctx + BitVec.ofNat 64 off, detail := 0xFF }, false)
        | none =>
          let dev := w.header (s.pairCtx w)
          let h := ws.zipIdx.map fun e => mergeWord e.2 (wd w.img e.2) (wd dev e.2) e.1
          let legend : Vector Byte 133 := Vector.ofFn fun n =>
            let b := leg.getD n.val (clean 0)
            if b.bad || anyBad (poi.getD n.val []) then 0xF8 else b.v
          let poison : Vector Word 133 := Vector.ofFn fun n => BitVec.ofNat 32 (natOf (poi.getD n.val []))
          let s := r.1.modWave u fun w =>
            let w := w.fromHeader h
            let mon := if wd w.img 101 == wd ws 101 then w.c.mon
              else if wd ws 101 == 0 then none else some ((wd ws 101).toNat / 128)
            let w := { w with c := { w.c with mon := mon }, lines := { w.lines with legend := legend, poison := poison } }
            let w := (List.range 133).foldl (fun (w : Wave) n => if w.isDead n then w.setLine n (Line.fill 0) 0 else w) w
            w.regroup
          (go s, true)

end Sys2Proof.Machine
end

