-- ==== Sys2Proof/Machine/Groups.lean ====
section
/-! DEFINITION. Barriers (06_vector_and_wave_instructions.md R193 to R196), arrivals at barc
(19_package_fabric_and_collectives.md R472), the ends of waves, groups and grids
(04_waves_groups_and_regions.md R103, R115), and the commands that a wave hands to engines
(11_tokens_copy_and_tasks.md R289 to R293). -/
namespace Sys2Proof.Machine
open Sys2Proof

/-! The group barrier (R193). -/

/-- Threads that wait by a kind. -/
def Wave.waitersOf (w : Wave) (k : WKind) : Mask :=
  Mask.build fun i => (w.threads.get i).st == .waiting && (w.threads.get i).wkind == k
def Wave.atBarrier (w : Wave) : Mask := w.waitersOf .bar ||| w.waitersOf .vote
/-- The waves of a group that belong to its barrier: surveyors do not (R316). -/
def State.members (s : State) (g : Nat) : List Wave := (s.wavesOf g).filter fun w => !w.surveyor
/-- What a vote form gives over the values contributed: some true, some false (R196). -/
def voteValue (form : BitVec 2) (t f : Bool) : Bool :=
  match form.toNat with | 0 => t | 1 => !f | _ => !(t && f)
/-- The current generation completes. -/
def State.barrierReady (s : State) (g : Nat) : Bool :=
  let ws := s.members g
  ws.any (fun w => w.atBarrier != 0) && ws.all fun w => w.live &&& ~~~w.atBarrier == 0
/-- Threads that contributed to the current generation: those that wait by vote, and those that exited with the group of
their vote (R95, R196). -/
def Wave.voters (w : Wave) : Mask := w.waitersOf .vote ||| Mask.build fun i => (w.threads.get i).voted
/-- The vote state of a generation (R196, R447). -/
def Group.votes (g : Group) : Nat := (if g.voteT then 1 else 0) + (if g.voteF then 2 else 0)
/-- A wave's part of a completed generation: its voters get their predicates, its waiting threads run on. -/
def Wave.passBarrier (w : Wave) (t f : Bool) (at0 : Nat) : Wave :=
  let m := w.atBarrier
  let w' := w.voters.list.foldl (fun (v : Wave) i =>
    v.putPred i (w.threads.get i).wpd.toNat (voteValue (w.threads.get i).vform t f)) w
  let w' := w'.setThreads w.voters fun _ t => { t with voted := false }
  if m == 0 then w'
  else
    let w' := w'.wake m
    { w' with c := { w'.c with wdog := 0 }, wakeAt := at0 }
/-- Complete the group's generation when it can; its threads run on three cycles after the last bundle of the
group that completes it (R193, R196, R441). -/
def State.checkBarrier (s : State) (g : Nat) (last : Nat := s.cycle) : State :=
  if s.barrierReady g then
    let t := ((s.group? g).map fun x => x.voteT).getD false
    let f := ((s.group? g).map fun x => x.voteF).getD false
    let ws := s.waves.map fun w => if w.group == g && !w.surveyor then w.passBarrier t f (last + 3) else w
    ({ s with waves := ws }).modGroup g fun (x : Group) =>
      { x with barGen := x.barGen + 1, voteT := false, voteF := false }
  else s

/-! Arrival at barc (R472). -/

/-- Every thread of every wave of a group that has not exited waits at barc, open or close. -/
def State.atBarc (s : State) (g : Nat) (close : Bool) : Bool :=
  let ws := s.members g
  let here (w : Wave) : Mask :=
    Mask.build fun i => (w.threads.get i).close == close && (w.waitersOf .barc).has i
  ws.any (fun w => w.live != 0) && ws.all fun w => w.live &&& ~~~here w == 0
/-- The group's arrival is noted by its stop. -/
def State.noteBarc (s : State) (g : Nat) : State :=
  match s.group? g with
  | none => s
  | some x =>
    let r := s.section (clusterOf x.core)
    if s.atBarc g false && !r.opening.any (fun k => k == g) then s.setSection { r with opening := r.opening ++ [g] }
    else if s.atBarc g true && x.inSection && !r.closing.any (fun k => k == g) then
      s.setSection { r with closing := r.closing ++ [g] }
    else s

/-! The end of a group (R115, R216, R315). -/

/-- Tokens of a wave whose commands have not completed (R115, R212). -/
def Wave.tokensOpen (w : Wave) : Dword :=
  w.c.kept.foldl (fun (t : Dword) e => t &&& ~~~(1#64 <<< e.1.toNat)) w.c.tokPend
/-- Every thread has exited and every token completed. -/
def State.groupOver (s : State) (g : Nat) : Bool :=
  (s.wavesOf g).all fun w => w.live == 0 && w.tokensOpen == 0
/-- Role changes that waited for a grant take effect on banks now free (R216). -/
def State.applyRoles (s : State) (core : Nat) : State :=
  let used := (s.groups.filter fun g => g.core == core && !g.saved).flatMap fun g => g.sbanks ++ g.obanks
  s.modCore core fun c =>
    let now := c.roleWait.filter fun e => !used.any fun u => u == e.1
    { c with bankRole := now.foldl withRole c.bankRole,
             roleWait := c.roleWait.filter fun e => used.any fun u => u == e.1 }
/-- Groups of a grid. -/
def Grid.total (r : Grid) : Nat := r.nx * r.ny * r.nz
/-- No group of a grid is left: all have ended, or it was killed and none is placed (R427). -/
def State.gridOver (s : State) (r : Grid) : Bool :=
  if r.killed then !s.groups.any fun g => g.grid == r.uid else r.total ≤ r.ended
/-- The decrement of DONE follows the end of the last group (R103). -/
def State.checkGrid (s : State) (r : Nat) : State :=
  match s.grid? r with
  | none => s
  | some x => if s.gridOver x then s.post .doneDecrement r else s
/-- The resources of a group are released; its writes reach the LLC (R115, R258). -/
def State.endGroup (s : State) (g : Nat) : State :=
  match s.group? g with
  | none => s
  | some x =>
    let s := (s.wcFlush x.core (BitVec.allOnes 16)).writeBackDie (dieOf x.core)
    let s := (s.wavesOf g).foldl (fun s w => s.untrackWave x.core w.uid) s
    let s := s.modCore x.core fun (c : Core) => { c with sections := c.sections.filter fun e => e.group != g }
    let r := s.section (clusterOf x.core)
    let drop (l : List Nat) : List Nat := l.filter fun k => k != g
    let s := s.setSection { r with opening := drop r.opening, members := drop r.members, closing := drop r.closing }
    let s := { s with waves := s.waves.filter fun w => w.group != g, groups := s.groups.filter fun y => y.uid != g }
    let s := match x.batch with
      | some (d, n) =>
        { s with drawers := s.drawers.map fun (y : Drawer) => if y.uid == d then { y with held := y.held - n } else y }
      | none => s
    let s := s.modGrid x.grid fun (r : Grid) => { r with ended := r.ended + 1 }
    (s.applyRoles x.core).checkGrid x.grid
/-- End the group when it is over. -/
def State.checkGroup (s : State) (g : Nat) : State := if s.groupOver g then s.endGroup g else s

/-! The end of a wave (R193, R318). -/

/-- Every thread of a wave exits where it stands. -/
def Wave.exitAll (w : Wave) : Wave :=
  { w with threads := w.threads.map fun t => { t with st := .exited }, cur := 0 }
/-- What follows when threads of a wave have exited: with the last one its monitor is disarmed (R261) and its surveyor
ends, waiters of its windows look again, the barrier and the group are examined. -/
def State.afterExit (s : State) (u : Nat) (last : Nat := s.cycle) : State :=
  match s.wave? u with
  | none => s
  | some w =>
    let s :=
      if w.live != 0 then s
      else
        let s := s.modWave u fun (w : Wave) => { w with c := { w.c with mon := none, monTrig := false } }
        match w.pair with
        | none => s
        | some v =>
          if w.surveyor then s.wakeKind .window fun x => x.uid == v
          else
            let s := match s.wave? v with
              | some x => if x.live == 0 then s else s.traceEvent (s.coreOf x) x 6 0 x.nextPc.toNat
              | none => s
            let s := s.modWave v fun x => x.exitAll
            s.modWave u fun (x : Wave) => { x with windows := [] }
    ((s.checkBarrier w.group last).noteBarc w.group).checkGroup w.group

/-! Commands (R289, R292, R293). -/

/-- The status register that a command consumes. -/
def Ctx.dep (c : Ctx) (t : BitVec 6) : Dep :=
  if c.w.c.tokPend.getLsbD t.toNat then .pending t else .status (c.w.r.sc t.toNat)
/-- The command that an instruction of format E hands on: its run of n registers and its tokens. -/
def State.newCmd (s : State) (c : Ctx) (i : Instr) (o : EFmt) (n : Nat) (banks : List Nat) : State × Cmd :=
  let k := s.fresh
  let cmd : Cmd :=
    { uid := k.1, wave := c.w.uid, group := c.w.group, core := c.core, op := i,
      run := (List.range n).map fun j => c.run? o j, td := o.td, deps := o.consumed.map c.dep, banks, prog := 0,
      aux := [c.fl.pc.toNat, c.addr.toNat], started := false, priv := s.priv c.w }
  (k.2.modFlight fun fl => { fl with pend := fl.pend ||| (1#64 <<< o.td.toNat) }, cmd)
/-- The queues of a core's engines (R293, R321, R381). -/
def State.toCopy (s : State) (c : Ctx) (i : Instr) (o : EFmt) (n : Nat) (banks : List Nat) : State :=
  let r := s.newCmd c i o n banks
  r.1.modCore c.core fun (x : Core) => { x with copyQ := x.copyQ ++ [r.2] }
def State.toMatrix (s : State) (c : Ctx) (i : Instr) (o : EFmt) (n : Nat) (banks : List Nat) : State :=
  let r := s.newCmd c i o n banks
  r.1.modCore c.core fun (x : Core) => { x with matQ := x.matQ ++ [r.2] }
def State.toSync (s : State) (c : Ctx) (i : Instr) (o : EFmt) (n : Nat) : State :=
  let r := s.newCmd c i o n []
  r.1.modCore c.core fun (x : Core) => { x with syncQ := x.syncQ ++ [r.2] }

/-- Every consumed token of a command has completed. -/
def Cmd.ready (c : Cmd) : Bool := c.deps.all fun d => match d with | .status _ => true | .pending _ => false
/-- A consumed token completed with an error (R292). -/
def Cmd.depFailed (c : Cmd) : Bool :=
  c.deps.any fun d => match d with | .status x => decide (0x80 ≤ bits x 7 0) | .pending _ => false
/-- A pending token of a wave got its status. -/
def Cmd.resolve (u : Nat) (td : BitVec 6) (st : Dword) (c : Cmd) : Cmd :=
  if c.wave == u then { c with deps := c.deps.map fun d => if d == .pending td then .status st else d } else c
/-- Every command held by the device. -/
def State.mapCmds (s : State) (f : Cmd → Cmd) : State :=
  let core (c : Core) : Core := { c with copyQ := c.copyQ.map f, matQ := c.matQ.map f, syncQ := c.syncQ.map f }
  let group (g : Group) : Group := { g with bench := g.bench.map f }
  { s with cores := s.cores.map core, groups := s.groups.map group }
/-- A command leaves its queue; the banks that it held are free from the next cycle on (R218 rule 4). Threads that wait for
an entry of the bench run on when one becomes free, however its command ended (R306). -/
def State.dropCmd (s : State) (c : Cmd) : State :=
  let keep (l : List Cmd) : List Cmd := l.filter fun d => d.uid != c.uid
  let s := s.modCore c.core fun (x : Core) =>
    let from' (k : Nat) (q : List Cmd) : List (Nat × Nat × Nat) :=
      if q.any fun d => d.uid == c.uid then c.banks.map fun b => (k, b, s.cycle) else []
    { x with copyQ := keep x.copyQ, matQ := keep x.matQ, syncQ := keep x.syncQ,
             freed := (x.freed.filter fun e => e.2.2 == s.cycle) ++ from' 6 x.copyQ ++ from' 3 x.matQ }
  if (s.group? c.group).any fun g => g.bench.any fun d => d.uid == c.uid then
    (s.modGroup c.group fun (g : Group) => { g with bench := keep g.bench }).wakeKind .bench fun w => w.group == c.group
  else s
/-- The snapshot that the completion of an mloop of a counted wave takes (R506). -/
def State.mloopSnapshot (s : State) (c : Cmd) : State :=
  match s.wave? c.wave with
  | none => s
  | some w =>
    let k := s.core c.core
    let pc := c.aux.getD 1 0
    if k.counted (s.slotOf w) then
      (s.snapshot c.core 1 pc w.ctx.toNat).traceEvent c.core w 0x0A 0 pc
    else s
/-- A command completes: its status reaches the token register and the commands that consume it (R289). -/
def State.finish (s : State) (c : Cmd) (st : Dword) : State :=
  let s := match c.op with | .mloop .. => s.mloopSnapshot c | _ => s
  let s := (s.dropCmd c).completeToken c.wave c.td st
  (s.mapCmds (Cmd.resolve c.wave c.td st)).checkGroup c.group

/-! Banks named by commands (R217, R218, R296). -/

/-- The physical number of a group's logical bank. -/
def Group.bank (g : Group) (j : Nat) : List Nat := (g.sbanks[j]?).toList
/-- The physical bank of a scratchpad address of a group. -/
def State.bankAt (s : State) (u a : Nat) : List Nat := ((s.group? u).map fun g => g.bank (a / 131072)).getD []
/-- The cycles in which a command uses the ports of the banks that it names (R218): from its step on, a free number of them
for each bank, since no rule gives them (log entry 17). -/
def State.claimCmd (s : State) (c : Cmd) : State :=
  c.banks.foldl (fun s b =>
    let f := s.free
    f.2.claim c.core ((List.range (Config.portCycles f.1)).map fun k => (b, s.cycle + k))) s
/-- Banks that hold a byte between two scratchpad addresses, both included. -/
def Group.banksOf (g : Group) (lo hi : Int) : List Nat :=
  (List.range g.sbanks.length).flatMap fun (j : Nat) =>
    if (131072 * j : Int) ≤ hi && lo < 131072 * (j + 1) then g.bank j else []

end Sys2Proof.Machine
end

