-- ==== Sys2Proof/Machine/Copy.lean ====
section
/-! DEFINITION. The copy engine (11_tokens_copy_and_tasks.md R293 to R301): what its commands name, move and
report. -/
namespace Sys2Proof.Machine
open Sys2Proof

/-! Bytes of an engine's command (R256, R293). -/

/-- Where a byte of a command lies. -/
inductive EPlace where
  | mem (pa mt : Nat)
  | scratch (a : Nat)
  deriving DecidableEq, Repr
/-- The context slot of a command. -/
def State.cmdSlot (s : State) (c : Cmd) : Nat :=
  (((s.group? c.group).bind fun g => s.grid? g.grid).map fun g => g.slot).getD 0
/-- Bytes of scratchpad of a group. -/
def State.groupSpan (s : State) (g : Nat) : Nat := 131072 * ((s.group? g).map fun x => x.sbanks.length).getD 0
/-- The place of a byte, or the CODE of R293. -/
def State.place (s : State) (c : Cmd) (scratch write : Bool) (a : Int) : State × (Nat ⊕ EPlace) :=
  if scratch then
    (s, if a < 0 || 2 ^ 56 ≤ a then .inl 0x80
        else if a < s.groupSpan c.group then .inr (.scratch a.toNat) else .inl 0x81)
  else
    let r := s.engineAddr (some c.core) (s.cmdSlot c) c.priv write a
    (r.1, match r.2 with | .inl k => .inl k | .inr p => .inr (.mem p.1 p.2))
/-- The status of a failing byte (R290, R291, R484). -/
def failStatus (scratch : Bool) (code detail : Nat) (a : Int) : Dword :=
  statusBad code (if code == 0x8E then 0 else detail) (if scratch then 0 else a)
/-- Read and write a byte. -/
def State.getByte (s : State) (c : Cmd) : EPlace → State × PByte
  | .mem pa mt => s.engineByte (some c.core) pa mt
  | .scratch a => (s, ((s.group? c.group).map fun g => g.scratch.get a).getD (clean 0))
def State.putByte (s : State) (c : Cmd) (nt : Bool) (p : EPlace) (b : PByte) : State :=
  match p with
  | .mem pa mt => s.enginePut c.core pa mt nt b
  | .scratch a => s.modGroup c.group fun (g : Group) => { g with scratch := g.scratch.put a b }
/-- The single-copy-atomic unit of a destination byte (R239). -/
def EPlace.unit : EPlace → Nat
  | .mem pa _ => pa / 8
  | .scratch a => 2 ^ 64 + a / 64

/-! Moves (R294 to R297, R299). -/

/-- One byte of a command in its order: a source address, or a byte of a pattern, and a destination. -/
structure Mv where
  src : Option Int
  lit : PByte
  dst : Int
  deriving DecidableEq, Repr
/-- A byte whose places are known. -/
structure Placed where
  src : Option EPlace
  lit : PByte
  dst : EPlace
  va : Int
  deriving DecidableEq, Repr
/-- The places of all bytes, and the status of the first that fails. -/
def State.scan (s : State) (c : Cmd) (ssp dsp : Bool) (ms : List Mv) : State × List Placed × Option Dword :=
  ms.foldl (fun (acc : State × List Placed × Option Dword) m =>
    let bad (s : State) (x : Dword) : State × List Placed × Option Dword := (s, acc.2.1, some (acc.2.2.getD x))
    let go (s : State) (src : Option EPlace) : State × List Placed × Option Dword :=
      let d := s.place c dsp true m.dst
      match d.2 with
      | .inl k => bad d.1 (failStatus dsp k 2 m.dst)
      | .inr p => (d.1, acc.2.1 ++ [{ src, lit := m.lit, dst := p, va := m.src.getD 0 }], acc.2.2)
    match m.src with
    | none => go acc.1 none
    | some a =>
      let r := acc.1.place c ssp false a
      match r.2 with
      | .inl k => bad r.1 (failStatus ssp k 1 a)
      | .inr p => go r.1 (some p)) (s, [], none)
/-- What the reads of a move return before it writes, and for each the iteration whose write it sees instead, if any: a
source byte that the command also writes is read old, or as one of those iterations writes it, each read for itself
(R295). -/
def State.readPlaced (s : State) (c : Cmd) (ps : List Placed) : State × List (PByte × Option Nat) :=
  ps.foldl (fun (acc : State × List (PByte × Option Nat)) p =>
    match p.src with
    | none => (acc.1, acc.2 ++ [(p.lit, none)])
    | some e =>
      let r := acc.1.getByte c e
      match (ps.zipIdx.filter fun q => q.1.dst == e).map fun q => q.2 with
      | [] => (r.1, acc.2 ++ [(r.2, none)])
      | ws =>
        let k := r.1.free
        let n := Config.overlapFrom k.1
        (k.2, acc.2 ++ [(r.2, if n == 0 then none else ws[(n - 1) % ws.length]?)])) (s, [])
/-- Iteration i sees, through the writes that it and others see, its own write. -/
def seesItself (rs : List (PByte × Option Nat)) (i : Nat) : Nat → Nat → Bool
  | 0, _ => false
  | n + 1, j => match (rs[j]?).bind fun r => r.2 with
    | none => false
    | some k => k == i || seesItself rs i n k
/-- The value that iteration i reads and writes. Reads that would each see only one another's writes read old. -/
def movedByte (rs : List (PByte × Option Nat)) : Nat → Nat → PByte
  | 0, i => ((rs[i]?).map fun r => r.1).getD (clean 0)
  | n + 1, i => match rs[i]? with
    | none => clean 0
    | some (old, none) => old
    | some (old, some k) => if seesItself rs i rs.length i then old else movedByte rs n k
/-- Read and write every byte; with `part`, only the destination units that the device had written (R256). The first
poisoned source, or accumulator word (R325), is reported. -/
def State.movePlaced (s : State) (c : Cmd) (ssp nt : Bool) (part : Option Nat) (ps : List Placed) :
    State × Option Dword :=
  let ps := ps.filter fun p => (part.map fun k => Config.unitWritten k p.dst.unit).getD true
  let r := s.readPlaced c ps
  ps.zipIdx.foldl (fun (acc : State × Option Dword) p =>
    let b := movedByte r.2 r.2.length p.2
    let st := match p.1.src with
      | none => statusBad 0x82 7 0
      | some _ => failStatus ssp 0x82 1 p.1.va
    (acc.1.putByte c nt p.1.dst b, if b.bad && acc.2.isNone then some st else acc.2)) (r.1, none)
/-- A move as a whole; `force` is the status of a cancelled command, whose writes are partial. -/
def State.moveAll (s : State) (c : Cmd) (ssp dsp nt : Bool) (count : Nat) (force stop : Option Dword)
    (ms : List Mv) : State × Dword :=
  let r := s.scan c ssp dsp ms
  let bad := match force, r.2.2 with
    | some x, _ => some x
    | none, some x => some x
    | none, none => stop
  let k := r.1.free
  let m := if bad.isSome then k.2.movePlaced c ssp nt (some k.1) r.2.1 else r.1.movePlaced c ssp nt none r.2.1
  (m.1, bad.getD (m.2.getD (statusOk 0 0 count)))

/-- Bytes of copy in its loop order (R294). -/
def copyMoves (d s : Int) (x y z : Nat) (rs rd ps pd : Int) : List Mv :=
  (List.range z).flatMap fun (k : Nat) => (List.range y).flatMap fun (j : Nat) => (List.range x).map fun (i : Nat) =>
    { src := some (s + k * ps + j * rs + i), lit := clean 0, dst := d + k * pd + j * rd + i }
/-- A word as an address. -/
def addrOf (x : Dword) : Int := (x.toNat : Int)
/-- A half of a word as a signed stride. -/
def strideLo (x : Dword) : Int := (x.extractLsb' 0 32).toInt
def strideHi (x : Dword) : Int := (x.extractLsb' 32 32).toInt
/-- Extents of a copy. -/
def copyExtents (md : BitVec 7) (e : Dword) : Nat × Nat × Nat :=
  let dims := bits md 1 0
  (bits e 31 0, if 1 ≤ dims then bits e 47 32 else 1, if dims == 2 then bits e 63 48 else 1)
def copyStrides (md : BitVec 7) (run : List Dword) : Int × Int × Int × Int :=
  let dims := bits md 1 0
  (if 1 ≤ dims then strideLo (wd run 3) else 0, if 1 ≤ dims then strideHi (wd run 3) else 0,
   if dims == 2 then strideLo (wd run 4) else 0, if dims == 2 then strideHi (wd run 4) else 0)

/-- copy. -/
def State.runCopy (s : State) (c : Cmd) (o : EFmt) (force : Option Dword) : State × Dword :=
  let dims := bits o.md 1 0
  let e := wd c.run 2
  if (dims == 0 && bits e 63 32 != 0) || (dims == 1 && bits e 63 48 != 0) then (s, statusBad 0x86 3 0)
  else
    let n := copyExtents o.md e
    let t := copyStrides o.md c.run
    if n.1 == 0 || n.2.1 == 0 || n.2.2 == 0 then (s, statusOk 1 0 0)
    else
      s.moveAll c (bit o.md 2) (bit o.md 3) (bit o.md 4) (n.1 * n.2.1 * n.2.2) force none
        (copyMoves (addrOf (wd c.run 0)) (addrOf (wd c.run 1)) n.1 n.2.1 n.2.2 t.1 t.2.1 t.2.2.1 t.2.2.2)

/-- The indices of a gather or scatter, and the status at the first that cannot be read. They are read before the command
writes anything: the spec does not say what an index reads as that the command itself overwrites (log entry 106). -/
def State.indices (s : State) (c : Cmd) (j w n : Nat) : List Nat × Option Dword :=
  (List.range n).foldl (fun (acc : List Nat × Option Dword) k =>
    if acc.2.isSome then acc
    else
      let a := j + w * k
      if 2 ^ 56 < a + w then (acc.1, some (statusBad 0x80 3 0))
      else if s.groupSpan c.group < a + w then (acc.1, some (statusBad 0x81 3 0))
      else
        let bs := ((s.group? c.group).map fun g => g.scratch.read a w).getD []
        if anyBad bs then (acc.1, some (statusBad 0x82 3 0)) else (acc.1 ++ [natOf bs], none)) ([], none)
/-- gather and scatter (R297). -/
def State.runGather (s : State) (c : Cmd) (o : EFmt) (gather : Bool) (force : Option Dword) : State × Dword :=
  let x := wd c.run 3
  let n := bits x 31 0
  let e := bits x 44 32
  let w := if bit o.md 4 then 8 else 4
  let j := (wd c.run 2).toNat
  if bits x 63 45 != 0 || e == 0 || 4096 < e then (s, statusBad 0x86 4 0)
  else if n == 0 then (s, statusOk 1 0 0)
  else if j % w != 0 then (s, statusBad 0x87 3 0)
  else
    let ix := s.indices c j w n
    let d := addrOf (wd c.run 0)
    let a := addrOf (wd c.run 1)
    let ms : List Mv := ix.1.zipIdx.flatMap fun p => (List.range e).map fun b =>
      let by1 : Int := (p.1 * e + b : Nat)
      let by2 : Int := (p.2 * e + b : Nat)
      if gather then { src := some (a + by1), lit := clean 0, dst := d + by2 } else { src := some (a + by2), lit := clean 0, dst := d + by1 }
    s.moveAll c (bit o.md 2) (bit o.md 3) false n force ix.2 ms
/-- fill (R299). -/
def State.runFill (s : State) (c : Cmd) (o : EFmt) (force : Option Dword) : State × Dword :=
  let n := (wd c.run 1).toNat
  let d := (wd c.run 0).toNat
  if n == 0 then (s, statusOk 1 0 0)
  else
    s.moveAll c false (bit o.md 3) false n force none ((List.range n).map fun (i : Nat) =>
      { src := none, lit := clean ((wd c.run 2).extractLsb' (8 * ((d + i) % 8)) 8), dst := ((d + i : Nat) : Int) })

/-! Lines (R298, R300). -/

/-- Lines of a range of virtual addresses: first byte and bytes of the range in it. -/
def vaLines (a n : Nat) : List (Nat × Nat) :=
  (linesOf a n).map fun l =>
    let lo := max a (128 * l)
    (lo, min (a + n) (128 * l + 128) - lo)
/-- A line's place, none where its translation or permission fails or it has no physical range. -/
def State.lineAt (s : State) (c : Cmd) (va : Nat) : State × Option (Nat × Nat) :=
  let r := s.engineAddr (some c.core) (s.cmdSlot c) c.priv false va
  (r.1, match r.2 with
    | .inr p => some p
    | .inl _ => none)
/-- Act on every line of a range that can be reached; the bytes of the range in those lines. -/
def State.eachLine (s : State) (c : Cmd) (f : Nat → Nat → State → State × Bool) : State × Dword :=
  let n := (wd c.run 1).toNat
  if n == 0 then (s, statusOk 1 0 0)
  else
    let r := (vaLines (wd c.run 0).toNat n).foldl (fun (acc : State × Nat) p =>
      let q := acc.1.lineAt c p.1
      match q.2 with
      | none => (q.1, acc.2)
      | some (pa, mt) =>
        let t := f pa mt q.1
        (t.1, if t.2 then acc.2 + p.2 else acc.2)) (s, 0)
    (r.1, statusOk 0 0 r.2)
/-- pref (R298): L1 and L2 take lines of cacheable pages only, and the LLC those of device memory (R269); a line found at
the level counts as well. -/
def State.runPref (s : State) (c : Cmd) (o : EFmt) : State × Dword :=
  s.eachLine c fun pa mt s =>
    let l := pa / 128
    if s.range pa != .mem then (s, false)
    else match bits o.md 1 0 with
      | 0 => if mt == 0 then (s.l1Fill c.core l, true) else (s.touchView l, ((s.core c.core).l1Find l).isSome)
      | 1 => if mt == 0 then (s.l2Fill (dieOf c.core) l, true) else (s.touchView l, (s.l2Find (dieOf c.core) l).isSome)
      | _ => (s.touchView l, true)
/-- cflush and cinv (R300); a cancelled one has reached only some units (R448). No cache holds a line of another range than
device memory: such a line is processed with nothing to do. -/
def State.runFlush (s : State) (c : Cmd) (drop : Bool) (force : Option Dword) : State × Dword :=
  let k := s.free
  let r := (if force.isSome then k.2 else s).eachLine c fun pa _ s =>
    let l := pa / 128
    if force.isSome && !Config.unitWritten k.1 (pa / 256) then (s, false)
    else if s.range pa != .mem then (s, true)
    else
      let s := s.writeBack (dieOf c.core) l
      (if drop then (s.l2Drop (dieOf c.core) l).l1Drop c.core l else s, true)
  (r.1, force.getD r.2)

/-! Banks named (R296, R297). -/

/-- Lowest and highest address of a range of copy. -/
def copySpan (base : Int) (x y z : Nat) (rs ps : Int) : Int × Int :=
  let a := rs * ((y : Int) - 1)
  let b := ps * ((z : Int) - 1)
  (base + min 0 a + min 0 b, base + max 0 a + max 0 b + (x : Int) - 1)
/-- Banks that a C-slot command of this chapter names. -/
def Group.copyBanks (g : Group) (i : Instr) (run : List Dword) : List Nat :=
  let span (p : Int × Int) : List Nat := g.banksOf p.1 p.2
  match i with
  | .copy _ o =>
    let n := copyExtents o.md (wd run 2)
    let t := copyStrides o.md run
    if n.1 == 0 || n.2.1 == 0 || n.2.2 == 0 then []
    else
      (if bit o.md 2 then span (copySpan (addrOf (wd run 1)) n.1 n.2.1 n.2.2 t.1 t.2.2.1) else [])
        ++ (if bit o.md 3 then span (copySpan (addrOf (wd run 0)) n.1 n.2.1 n.2.2 t.2.1 t.2.2.2) else [])
  | .gather _ o | .scatter _ o =>
    let isG := match i with | .gather .. => true | _ => false
    let n := bits (wd run 3) 31 0
    let e := bits (wd run 3) 44 32
    let w := if bit o.md 4 then 8 else 4
    let flat (a : Dword) : List Nat := span (addrOf a, addrOf a + (n * e : Nat) - 1)
    if n == 0 then []
    else
      span (addrOf (wd run 2), addrOf (wd run 2) + (n * w : Nat) - 1)
        ++ (if bit o.md 2 then (if isG then g.sbanks else flat (wd run 1)) else [])
        ++ (if bit o.md 3 then (if isG then flat (wd run 0) else g.sbanks) else [])
  | .fill _ o =>
    if bit o.md 3 && wd run 1 != 0 then span (addrOf (wd run 0), addrOf (wd run 0) + addrOf (wd run 1) - 1) else []
  | _ => []
/-- The same for a context. -/
def State.copyBanks (s : State) (c : Ctx) (i : Instr) (o : EFmt) (n : Nat) : List Nat :=
  ((s.group? c.w.group).map fun g => g.copyBanks i ((List.range n).map fun j => c.run? o j)).getD []

/-! The instructions: a command handed to the copy engine (R292). -/

/-- copy (R294). -/
def execCopy (h : Head) (o : EFmt) (s : State) : Host.Outcome State Fault Refusal :=
  slot h s fun c s => s.toCopy c (.copy h o) o (3 + bits o.md 1 0) (s.copyBanks c (.copy h o) o (3 + bits o.md 1 0))
/-- gather (R297). -/
def execGather (h : Head) (o : EFmt) (s : State) : Host.Outcome State Fault Refusal :=
  slot h s fun c s => s.toCopy c (.gather h o) o 4 (s.copyBanks c (.gather h o) o 4)
/-- scatter (R297). -/
def execScatter (h : Head) (o : EFmt) (s : State) : Host.Outcome State Fault Refusal :=
  slot h s fun c s => s.toCopy c (.scatter h o) o 4 (s.copyBanks c (.scatter h o) o 4)
/-- pref (R298). -/
def execPref (h : Head) (o : EFmt) (s : State) : Host.Outcome State Fault Refusal :=
  slot h s fun c s => s.toCopy c (.pref h o) o 2 []
/-- fill (R299). -/
def execFill (h : Head) (o : EFmt) (s : State) : Host.Outcome State Fault Refusal :=
  slot h s fun c s => s.toCopy c (.fill h o) o 3 (s.copyBanks c (.fill h o) o 3)
/-- cflush (R300). -/
def execCflush (h : Head) (o : EFmt) (s : State) : Host.Outcome State Fault Refusal :=
  slot h s fun c s => s.toCopy c (.cflush h o) o 2 []
/-- cinv (R300). -/
def execCinv (h : Head) (o : EFmt) (s : State) : Host.Outcome State Fault Refusal :=
  slot h s fun c s => s.toCopy c (.cinv h o) o 2 []

end Sys2Proof.Machine
end

