-- ==== Sys2Proof/Machine/Launch.lean ====
section
/-! DEFINITION. Launch records, kernel descriptors, refusals, acceptance and placement
(04_waves_groups_and_regions.md R97 to R117, 11_tokens_copy_and_tasks.md R302 to R308), the handler launch of
17_traps_faults_and_preemption.md R425, and the end of a grid (R103). -/
namespace Sys2Proof.Machine
open Sys2Proof

/-! Records (R100, R104, R302). -/

/-- The descriptor that eight words hold, none when they are invalid (R302). -/
def KDesc.parse (addr : Dword) (ws : List Dword) : Option KDesc :=
  let a := wd ws 1
  let b := wd ws 2
  let k : KDesc :=
    { addr, entry := wd ws 0, waves := bits a 5 0, prof := bits a 7 6, regs := bits a 15 8, sbanks := bits a 21 16,
      acc := bit a 22, surv := bit a 23, xsh := bits b 15 0, ysh := bits b 31 16, zsh := bits b 47 32,
      sentry := wd ws 3 }
  if bits k.entry 5 0 == 0 && bits a 63 24 == 0 && bits b 63 48 == 0 && bits k.sentry 5 0 == 0
      && (ws.drop 4).all (fun x => x == 0) && (k.surv || k.sentry == 0)
      && 1 ≤ k.waves && k.waves ≤ (if k.surv then 16 else 32) && k.prof ≤ 1 && 1 ≤ k.regs && k.regs ≤ 128
      && k.xsh * k.ysh * k.zsh == 32 * k.waves && k.need ≤ 32 && !(k.surv && k.prof == 1)
  then some k else none

/-- What the checks of R104 establish. -/
structure LaunchOk where
  words : List Dword
  kd : KDesc
  eff : Eff
  deriving DecidableEq, Repr
/-- Extents and groups of a record. -/
def lrecX (ws : List Dword) : Nat := bits (wd ws 2) 31 0 + 1
def lrecY (ws : List Dword) : Nat := bits (wd ws 2) 63 32 + 1
def lrecZ (ws : List Dword) : Nat := bits (wd ws 3) 31 0 + 1
def lrecN (ws : List Dword) : Nat := lrecX ws * lrecY ws * lrecZ ws

/-- A group can never be placed (R116). -/
def neverPlaced (k : KDesc) (e : Eff) : Bool := min 32 e.banks < k.need || e.capacity < k.contexts
/-- Cores that can hold groups at all. -/
def State.enabledCores (s : State) : Nat := ((List.range 768).filter fun g => s.coreUp g).length
/-- A cooperative grid can be co-resident (R117). -/
def State.coResident (s : State) (k : KDesc) (e : Eff) (n : Nat) : Bool :=
  let p := if k.need == 0 then 64 else min 64 (min 32 e.banks / k.need)
  n ≤ min e.cores s.enabledCores * p && n * k.contexts ≤ e.capacity

/-- The words of a record with the extents of a shading grid put in (R356). -/
def withExtents (ws : List Dword) (ext : Option (Nat × Nat)) : List Dword :=
  match ext with
  | none => ws
  | some (x, y) =>
    let w2 := BitVec.ofNat 64 (x + 2 ^ 32 * y)
    let w3 := (wd ws 3) &&& ~~~(0xFFFFFFFF#64)
    ws.zipIdx.map fun e => if e.2 == 2 then w2 else if e.2 == 3 then w3 else e.1
/-- A launch reads anew the region control blocks on which no grid is live: they may change without REGION_SYNC
(R110). -/
def State.dropIdleRegions (s : State) : State :=
  let used : List (Nat × Dword) := s.grids.flatMap fun r => match (s.chain r.rslot r.region).2 with
    | .inr c => c.map fun b => (r.rslot, b.1)
    | .inl _ => []
  { s with regions := s.regions.filter fun c => used.any fun u => u == (c.slot, c.addr) }
/-- The checks of R104 in their order: a reason, or what they establish. A template of a continuation queue or
drawer has no extents of its own (R310, R313). -/
def State.checkLaunch (s : State) (g : Option Nat) (slot : Nat) (la : Dword) (template : Bool)
    (ext : Option (Nat × Nat) := none) : State × (Nat ⊕ LaunchOk) :=
  let r := s.readWords g slot la 8
  match r.2 with
  | .inl _ => (r.1, .inl 7)
  | .inr ws0 =>
    let ws := withExtents ws0 ext
    let w3 := wd ws 3
    let bad1 := bits la 5 0 != 0 || bits (wd ws 0) 5 0 != 0 || bits (wd ws 1) 5 0 != 0 || 4 < bits w3 34 32
      || (!template && (bits w3 63 38 != 0 || bits (wd ws 7) 2 0 != 0))
    if bad1 then (r.1, .inl 1)
    else if !template && 2 ^ 32 < lrecN ws then (r.1, .inl 2)
    else
      let k := r.1.readWords g slot (wd ws 0) 8
      match k.2 with
      | .inl _ => (k.1, .inl 7)
      | .inr kw =>
        let c := k.1.dropIdleRegions.chain slot (wd ws 1)
        match c.2 with
        | .inl _ => (c.1, .inl 7)
        | .inr ch =>
          let h := c.1.handlersOk (effOf (wd ws 1) ch).slot ch.handlers
          match h.2 with
          | .inl _ => (h.1, .inl 7)
          | .inr ok =>
            match KDesc.parse (wd ws 0) kw with
            | none => (h.1, .inl 3)
            | some kd =>
              let e := effOf (wd ws 1) ch
              if kd.prof == 1 then (h.1, .inl 3)
              else if !ch.ok || !ok then (h.1, .inl 4)
              else if neverPlaced kd e then (h.1, .inl 5)
              else if !template && bit w3 37 && !h.1.coResident kd e (lrecN ws) then (h.1, .inl 6)
              else (h.1, .inr { words := ws, kd, eff := e })

/-! Acceptance (R102, R109, R114). -/

/-- The hub microsecond (R109, R198). -/
def State.hubUs (s : State) : Nat := s.now / 72000
/-- Launches of a region accepted in this microsecond. -/
def State.lrateOf (s : State) (slot : Nat) (region : Dword) : Nat :=
  if s.lrateAt == s.hubUs then
    ((s.lrate.find? fun c => c.slot == slot && c.region == region).map fun c => c.count).getD 0
  else 0
/-- The LRATE budgets of a region and its ancestors admit one more launch. -/
def State.lrateOk (s : State) (e : Eff) : Bool :=
  (List.range e.chain.length).all fun k =>
    let anc := e.chain.drop k
    let a := (anc.head?.map fun b => b.1).getD 0
    s.lrateOf e.slot a < (effOf a anc).lrate
/-- Count an accepted launch. -/
def State.lrateCount (s : State) (e : Eff) : State :=
  let s := if s.lrateAt == s.hubUs then s else { s with lrate := [], lrateAt := s.hubUs }
  e.chain.foldl (fun s b =>
    { s with lrate := upd (fun c => c.slot == e.slot && c.region == b.1)
                { slot := e.slot, region := b.1, count := s.lrateOf e.slot b.1 + 1 } s.lrate }) s

/-- How a launch ends. -/
inductive LaunchAns where
  | refused (reason : Nat)
  | held
  | ok (grid groups : Nat)
  deriving DecidableEq, Repr

/-- A grid is born. -/
def State.addGrid (s : State) (l : LaunchOk) (la : Dword) (rslot : Nat) (n : Nat × Nat × Nat) (args : List Dword)
    (done : Dword) (coop : Bool) (who : GridFor) (entry : Option Dword) (batch : Option (Nat × Nat))
    (home : Option Nat) (seq : Nat) : State × Nat :=
  let k := s.fresh
  let g : Grid :=
    { uid := k.1, seq, launch := la, region := wd l.words 1, slot := l.eff.slot, rslot, kd := l.kd, nx := n.1,
      ny := n.2.1, nz := n.2.2, lmode := (wd l.words 3).extractLsb' 32 5, coop, args, done, next := 0, ended := 0,
      killed := false, doneWait := none, held := k.2.sw.out.any (fun o => o.1 == l.eff.slot), who, entry, batch, home }
  ({ k.2 with grids := k.2.grids ++ [g] }, k.1)

/-- The bench entry of a group that is next to be accepted: the first whose tokens have all completed (R305). -/
def State.benchNext (s : State) (g : Nat) : Option Cmd :=
  (s.group? g).bind fun x => x.bench.find? fun c => c.ready
/-- A launch held by LRATE still waits. -/
def State.stillWaits (s : State) (src : LaunchSrc) : Bool :=
  match src with
  | .bench g e => (s.benchNext g).any fun c => c.uid == e
  | .handler j => s.fault.opened.any fun o => o.idx == j && o.handler.isNone && o.expires.isNone
  | .shade d => s.draws.any fun x => x.uid == d && x.closed && x.grid.isNone && !x.spent
  | .queue q => (s.queue q).state == .reading
/-- A launch that came earlier waits for a budget that this one counts against too, and goes first (R109). -/
def State.lrateBehind (s : State) (src : LaunchSrc) (e : Eff) : Bool :=
  (s.lrateQ.takeWhile fun x => x.src != src).any fun x => s.stillWaits x.src && match (s.effective x.rslot x.region).2 with
    | some f => f.slot == e.slot && s.lrateOk f && f.chain.any fun b => e.chain.any fun c => c.1 == b.1
    | none => false
/-- A launch joins the held launches, once. -/
def State.lrateHold (s : State) (x : LrateWait) : State :=
  if s.lrateQ.any fun y => y.src == x.src then s else { s with lrateQ := s.lrateQ ++ [x] }
/-- A launch is held no longer. -/
def State.lrateLeave (s : State) (src : LaunchSrc) : State := { s with lrateQ := s.lrateQ.filter fun x => x.src != src }

/-- Launch the grid of a record: refused, held by LRATE, or accepted. A held launch leaves nothing but its place among
the held launches. -/
def State.tryLaunch (s : State) (src : LaunchSrc) (g : Option Nat) (slot : Nat) (la : Dword) (who : GridFor)
    (argb : Option Dword) (ext : Option (Nat × Nat) := none) : State × LaunchAns :=
  let r := s.checkLaunch g slot la false ext
  match r.2 with
  | .inl why => (r.1.lrateLeave src, .refused why)
  | .inr l =>
    if !r.1.lrateOk l.eff || r.1.lrateBehind src l.eff then
      (s.lrateHold { src, rslot := slot, region := wd l.words 1 }, .held)
    else
      let s := (r.1.lrateCount l.eff).lrateLeave src
      let s := { s with seq := s.seq + 1 }
      let n := (lrecX l.words, lrecY l.words, lrecZ l.words)
      let b := s.addGrid l la slot n [wd l.words 4, argb.getD (wd l.words 5), wd l.words 6] (wd l.words 7)
        (bit (wd l.words 3) 37) who none none g s.seq
      (b.1, .ok b.2 (lrecN l.words))

/-! Placement (R101, R113 to R117, R217). -/

/-- A core has everything for one more group (R113). -/
def State.roomOn (s : State) (kd : KDesc) (e : Eff) (core : Nat) : Bool :=
  s.coreUp core
    && decide ((s.groups.filter fun g => g.core == core && !g.saved).length < 64)
    && kd.sbanks ≤ (s.freeBanks core 0).length && kd.obanks ≤ (s.freeBanks core 2).length
    && (freeIndices (s.arenaUsed e.slot e.arena) e.capacity kd.contexts).length == kd.contexts
    && s.budgetOk e.slot e.chain core kd.need
    && (List.range e.chain.length).all fun k => 0 < (effOf 0 (e.chain.drop k)).rclines

/-- A cluster test moves groups: until they stand again nothing is placed, so that the room and the budgets found for them
stay theirs (R520). -/
def State.moving (s : State) : Bool := s.sw.service && s.sw.phase != .idle
/-- Nothing of a slot is placed: it is halted, switched out, or a switch out of it runs (R447, R499). -/
def State.slotHeld (s : State) (slot : Nat) : Bool :=
  s.moving || s.slotHalted slot || s.sw.out.any (fun o => o.1 == slot) || (s.sw.phase != .idle && !s.sw.service && s.sw.slot == slot)

/-- A wave as the front end creates it (R98, R101, R145, R205, R316). -/
def newWave (r : Grid) (lin : Nat) (uid group index : Nat) (surveyor : Bool) (pair : Option Nat) (ctx : Dword)
    (arenaIdx cycle : Nat) : Wave :=
  let k := r.kd
  let entry := if surveyor then k.sentry else r.entry.getD k.entry
  let lane (f : Nat → Nat) : Line := Line.build fun i => BitVec.ofNat 32 (f (32 * index + i.val))
  let v : Vector Line 128 := Vector.ofFn fun n =>
    if n.val == 0 then lane fun l => l % k.xsh
    else if n.val == 1 then lane fun l => l / k.xsh % k.ysh
    else if n.val == 2 then lane fun l => l / (k.xsh * k.ysh)
    else Line.fill 0
  let sv : Vector Dword 64 := Vector.ofFn fun n => r.args.getD n.val 0
  let t : Thread := { pc := entry, meet := 0, st := .runnable, wkind := .bar, wend := 0, wpd := 0, vform := 0,
                      vval := false, close := false, via := none }
  let st : Stoch := { x := 0x9E3779B9 ^^^ BitVec.ofNat 32 lin, y := 0x243F6A88 ^^^ BitVec.ofNat 32 index, z := 0xB7E15162,
                      w := 0x6A09E667 }
  let live : BitVec 133 := 7 ||| bitOf 128
  { uid, group, index, surveyor, pair, ctx, arenaIdx,
    threads := Vector.replicate 32 t, cur := 0, cursor := 0,
    r := { v, vbad := Vector.replicate 128 0, p := Vector.replicate 32 0, pbad := 0, s := { val := sv, bad := 0 },
           b := Vector.replicate 8 0, loops := [], mode := r.lmode, flags := 0, stoch := st },
    lines := { resident := 0, dirty := 0, pinned := 0, dead := ~~~live, legend := Vector.replicate 133 0,
               poison := Vector.replicate 133 0 },
    c := { tokPend := 0, parkVA := 0, parkLines := [], stopped := false, halted := false, wsup := false, traprec := 0,
           barGen := 0, mon := none, monTrig := false, marks := [], wdog := 0, kept := [], stepOnce := false },
    targets := Vector.replicate 8 PTEntry.blank,
    act := .dormant cycle true false, lastIssue := 0, recent := [], windows := [], img := [], owed := [], issued := 0 }

/-- The matrix state of a new group: both formats bf16, whole depths, no progress (R320). -/
def matReset : MatState := { afmt := 0, bfmt := 0, aread := 0, bread := 0, mprog := 0 }

/-- Waves and surveyors of a group, in the order of wave index, each surveyor right after its wave: the order in which
waves placed at one instant count as placed (R124; log entry 118). -/
def newWaves (r : Grid) (lin base group cycle : Nat) (arena : Dword) (idx : List Nat) : List Wave :=
  let ctx (k : Nat) : Dword := arena + BitVec.ofNat 64 (20992 * idx.getD k 0)
  (List.range r.kd.waves).flatMap fun i =>
    if r.kd.surv then
      let a := base + 2 * i
      [(newWave r lin a group i false (some (a + 1)) (ctx (2 * i)) (idx.getD (2 * i) 0) cycle).select,
       (newWave r lin (a + 1) group i true (some a) (ctx (2 * i + 1)) (idx.getD (2 * i + 1) 0) cycle).select]
    else [(newWave r lin (base + i) group i false none (ctx i) (idx.getD i 0) cycle).select]

/-- A dormant wave and its pair are activated when enough slots are free (R127, R316), in the lowest free
ones (R126 names no slot; log entry 119). -/
def State.activateFree (s : State) (u : Nat) : State :=
  match s.wave? u with
  | none => s
  | some w =>
    match w.pair, s.freeSlots (s.coreOf w) with
    | none, k :: _ => (s.activate u k).1
    | some v, k :: j :: _ =>
      let a := s.activate u k
      if !a.2 then a.1
      else
        let b := a.1.activate v j
        if b.2 then b.1 else (b.1.deactivate u).1
    | _, _ => s

/-- The linear index of the group that a grid places next: in the order of R99, or of its tiles' finality
for the shading grid of a draw (R356). -/
def State.nextLin (s : State) (r : Grid) : Option Nat :=
  match r.who with
  | .shade d =>
    (s.draws.find? fun x => x.uid == d).bind fun x => (x.finals[r.next]?).map fun t => t.1 + r.nx * t.2
  | _ => some r.next
/-- Place the next group of a grid on a core (R113, R217, R258). -/
def State.placeGroup (s : State) (r : Grid) (e : Eff) (core : Nat) : State :=
  let k := r.kd
  let idx := freeIndices (s.arenaUsed e.slot e.arena) e.capacity k.contexts
  let lin := (s.nextLin r).getD r.next
  let gu := s.nextUid
  let ws := newWaves r lin (gu + 1) gu s.cycle e.arena idx
  let g : Group :=
    { uid := gu, grid := r.uid, lin, core, sbanks := (s.freeBanks core 0).take k.sbanks,
      obanks := (s.freeBanks core 2).take k.obanks, scratch := Store.empty, acc := { cells := [], bad := [] },
      barGen := 0, voteT := false, voteF := false, arrive := Vector.replicate 8 0, mat := matReset, tensors := [],
      bench := [], inSection := false, batch := r.batch, saved := false, heldFlits := [], draw := none, emitted := 0 }
  let s := { s with nextUid := gu + 1 + ws.length, groups := s.groups ++ [g], waves := s.waves ++ ws }
  let s := s.modGrid r.uid fun (x : Grid) => { x with next := x.next + 1 }
  let s := (s.fenceCore core true false 5 (BitVec.allOnes 16)).repPlaced r.slot core lin r.launch
  (ws.filter fun w => !w.surveyor).foldl (fun s w => s.activateFree w.uid) s

/-- One group of a grid may be placed on a core now. -/
def State.canPlace (s : State) (r : Grid) (core : Nat) : Bool :=
  match (s.effective r.rslot r.region).2 with
  | none => false
  | some e => !s.slotHeld r.slot && !r.held && !r.killed && decide (r.next < r.total) && (s.nextLin r).isSome
      && s.roomOn r.kd e core && s.repPlace r.slot core ((s.nextLin r).getD r.next) r.launch

/-- How many groups of a kernel a core's banks and bank budgets take now (R109, R113). -/
def State.roomFor (s : State) (k : KDesc) (e : Eff) (core : Nat) : Nat :=
  let per (free need : Nat) : Nat := if need == 0 then 64 else free / need
  let here := s.groups.filter fun g => g.core == core && !g.saved
  let budgets := (List.range e.chain.length).map fun j =>
    let anc := e.chain.drop j
    let f := effOf ((anc.head?.map fun b => b.1).getD 0) anc
    let used := ((s.groupsUnder e.slot f.addr).filter fun g => g.core == core).map fun g => g.sbanks.length + g.obanks.length
    per (f.banks - used.foldl (· + ·) 0) k.need
  ([64 - here.length, per (s.freeBanks core 0).length k.sbanks, per (s.freeBanks core 2).length k.obanks] ++ budgets).foldl min 64
/-- Cores in the order in which a cooperative grid fills them: those that take most groups first. The CORES budgets
bound how many cores a region and its ancestors use, so this order leaves no group over that some order would place
(R117; DEDUCED, log entry 54). -/
def State.fillOrder (s : State) (r : Grid) : List Nat :=
  match (s.effective r.rslot r.region).2 with
  | none => []
  | some e =>
    let rooms := ((List.range 768).filter fun g => s.coreUp g).map fun g => (g, s.roomFor r.kd e g)
    (List.range 64).flatMap fun k => (rooms.filter fun x => x.2 == 64 - k).map fun x => x.1
/-- Place n groups of a cooperative grid, each on the first of some cores that takes it. -/
def State.placeAll (s : State) (grid : Nat) (cores : List Nat) : Nat → State × Bool
  | 0 => (s, true)
  | n + 1 =>
    match s.grid? grid with
    | none => (s, false)
    | some r =>
      match cores.find? (fun g => s.canPlace r g), (s.effective r.rslot r.region).2 with
      | some g, some e => (s.placeGroup r e g).placeAll grid cores n
      | _, _ => (s, false)
/-- Every group of a cooperative grid placed at once, none when they do not all fit now (R117). -/
def State.placeCoop (s : State) (r : Grid) : Option State :=
  let p := s.placeAll r.uid (s.fillOrder r) r.total
  if p.2 then some p.1 else none
/-- Something of a waiting grid can be placed now: a group, or all of them where the grid is cooperative. -/
def State.placeable (s : State) (r : Grid) : Bool :=
  (List.range 768).any (fun g => s.canPlace r g) && (!r.coop || (s.placeCoop r).isSome)

/-- Priority of a waiting grid's region. -/
def State.gridPrio (s : State) (r : Grid) : Nat := ((s.effective r.rslot r.region).2.map fun e => e.prio).getD 0
/-- The queued continuation at a place, when it heads its queue, with the header's template checked (R310, R312). -/
def State.contAt (s : State) (i : Nat) : Option (ContRec × Dword × (Nat ⊕ LaunchOk)) :=
  (s.conts[i]?).bind fun r =>
    if (s.conts.take i).any fun x => x.slot == r.slot && x.header == r.header then none
    else
      let lrec := match (s.readWords none r.slot (r.header + 0x20) 1).2 with
        | .inr ws => wd ws 0
        | .inl _ => 0
      some (r, lrec, match (s.checkLaunch none r.slot lrec true).2 with
        | .inl why => .inl why
        | .inr l => if l.kd.waves == 1 && l.kd.need == 0 && !l.kd.surv then .inr l else .inl 3)
/-- A continuation may be popped onto a core: R113 and a free activation slot (R312). -/
def State.canPop (s : State) (l : LaunchOk) (core : Nat) : Bool :=
  !s.slotHeld l.eff.slot && s.roomOn l.kd l.eff core && !(s.freeSlots core).isEmpty
/-- Something of higher rank waits and can be placed somewhere (R114, R312). -/
def State.outranked (s : State) (prio seq : Nat) : Bool :=
  let above (p q : Nat) : Bool := decide (prio < p) || (p == prio && decide (q < seq))
  (s.grids.any fun x =>
    decide (x.next < x.total) && above (s.gridPrio x) x.seq && s.placeable x)
  || (List.range s.conts.length).any fun i =>
    match s.contAt i with
    | some (r, _, .inr l) => above l.eff.prio r.seq && (List.range 768).any fun g => s.canPop l g
    | _ => false

/-- GROUP_PLACE (R113, R114, R117). -/
def execGroupPlace (s : State) : Host.Outcome State Fault Refusal :=
  .next (match s.grid? s.arg.a with
    | none => s
    | some r =>
      if !s.canPlace r s.arg.b || s.outranked (s.gridPrio r) r.seq then s
      else if r.coop then (s.placeCoop r).getD s
      else match (s.effective r.rslot r.region).2 with
        | none => s
        | some e => s.placeGroup r e s.arg.b)

/-! Launches by waves, handlers and the front end (R304, R305, R425). -/

/-- A front-end fault: a record of kind 2 (R429). -/
def State.frontFault (s : State) (slot : Nat) (region : Dword) (code : Byte) (detail : Nat) (addr : Dword) : State :=
  s.report { code, kind := 2, slot, sloti := none, detail := BitVec.ofNat 8 detail, region, ctx := 0, pc := 0, next := 0,
             lanes := 0, addr, info := 0, wave := none, nexts := [] }
/-- A completion entry of a command queue (R483). -/
def State.cqEntry (s : State) (q i : Nat) (st : Dword) : State :=
  let x := s.queue q
  let pa := x.cpl.toNat + 16 * (i % 2 ^ bits x.ctl 5 1)
  if s.inMem pa 16 then (s.llcPutWord pa st).llcPutWord (pa + 8) (BitVec.ofNat 64 (i + 1)) else s

/-- Accept or refuse a bench entry. -/
def State.acceptBench (s : State) (g entry : Nat) : State :=
  match s.benchNext g with
  | none => s
  | some c =>
    if c.uid != entry then s
    else
      if c.depFailed then s.finish c (statusBad 0x83 3 0)
      else
        let slot := s.cmdSlot c
        let s := (s.wcFlush c.core (BitVec.allOnes 16)).writeBackDie (dieOf c.core)
        let r := s.tryLaunch (.bench g entry) (some c.core) slot (wd c.run 0) .program none
        match r.2 with
        | .held => r.1
        | .refused why => r.1.finish c (statusBad 0x84 why 0)
        | .ok _ n => r.1.finish c (statusOk 0 0 n)

/-- The record goes to the control node, whose time starts (R425, R428). -/
def State.toControl (s : State) (j : Nat) : State :=
  let t := bits s.fault.ctl 31 16
  let due := if t == 0 then none else some (s.now + 72000 * t)
  { s with fault := { s.fault with opened := s.fault.opened.map fun (o : OpenRec) => if o.idx == j then { o with expires := due } else o } }
/-- Delivery of an open record to its fault domain (R425). -/
def State.deliver (s : State) (j : Nat) : State :=
  match s.fault.opened.find? fun o => o.idx == j with
  | none => s
  | some o =>
    let w := o.r.wave.bind fun u => s.wave? u
    let gr := w.bind fun w => s.gridOf w
    let isHandler := match gr.map (fun g => g.who) with | some (.handler _) => true | _ => false
    match gr.bind fun g => (s.effective g.rslot g.region).2 with
    | none => s.toControl j
    | some e =>
      if e.fdlaunch == 0 || isHandler then s.toControl j
      else
        let r := s.tryLaunch (.handler j) none e.slot e.fdlaunch (.handler j) (some (BitVec.ofNat 64 j))
        match r.2 with
        | .held => r.1
        | .refused _ => r.1.postFirst .faultTimeout j 0 1
        | .ok g _ =>
          let ops := r.1.fault.opened.map fun (o : OpenRec) => if o.idx == j then { o with handler := some g } else o
          { r.1 with fault := { r.1.fault with opened := ops } }

/-- A command queue's launch packet is accepted or refused (R303, R483): false while it is held. -/
def State.launchQueue (s : State) (q slot : Nat) (la : Dword) : State × Bool :=
  let i := (s.queue q).next
  let r := s.tryLaunch (.queue q) none slot la (.queue q i) none
  match r.2 with
  | .held => (r.1, false)
  | .refused why =>
    let s := if why == 7 then r.1.frontFault slot 0 0x84 why la else r.1
    (s.cqEntry q i (statusBad 0x84 why 0), true)
  | .ok g _ => (r.1.setQueue { r.1.queue q with live := (r.1.queue q).live ++ [g] }, true)

/-- dlaunch: an entry of the bench, or with .nb an immediate refusal when it is full (R304 to R307). -/
def execDlaunch (h : Head) (o : EFmt) (s : State) : Host.Outcome State Fault Refusal :=
  slot h s fun c s =>
    let p : BitVec 5 := o.md.setWidth 5
    let nb := bit o.md 5
    let full := ((s.group? c.w.group).map fun g => decide (4 ≤ g.bench.length)).getD true
    if full then
      if nb then (s.emitS 1 o.td (statusBad 0x84 8 0)).emitP 1 p c.run 0 else s
    else
      let r := s.newCmd c (.dlaunch h o) o 1 []
      let s := r.1.modGroup c.w.group fun (g : Group) => { g with bench := g.bench ++ [r.2] }
      if nb then s.emitP 1 p c.run (BitVec.allOnes 32) else s

/-! The end of a grid (R103, R258, R428, R483). -/

/-- The grid has ended: who waits for it hears of it. -/
def State.gridDone (s : State) (r : Grid) : State :=
  let s := { s with grids := s.grids.filter fun x => x.uid != r.uid }
  match r.who with
  | .handler j => s.post .faultTimeout j 0 1
  | .queue q i =>
    let x := s.queue q
    (s.setQueue { x with live := x.live.filter fun u => u != r.uid }).cqEntry q i (statusOk 0 0 r.total)
  | .shade d =>
    let ds := s.draws.map fun (x : Draw) => if x.uid == d then { x with spent := true } else x
    { s with draws := ds.filter fun x => !(x.spent && x.tris.isEmpty) }
  | _ => s

/-- DONE_DECREMENT (R103): at the LLC, waiting while the page of DONE is not resident. -/
def execDoneDecrement (s : State) : Host.Outcome State Fault Refusal :=
  .next (match s.grid? s.arg.a with
    | none => s
    | some r =>
      if !s.gridOver r then s
      else if r.done == 0 then s.gridDone r
      else if bits r.done 63 56 != 0 then (s.frontFault r.slot r.region 0x06 0 r.done).gridDone r
      else
        let t := s.translate none r.slot r.done.toNat
        let fault (code : Byte) : State := (t.1.frontFault r.slot r.region code 0 r.done).gridDone r
        match t.2 with
        | .malformed | .unmapped => fault 0x06
        | .absent line =>
          let s := if r.doneWait.isSome then t.1 else t.1.frontFault r.slot r.region 0x85 0 r.done
          s.modGrid r.uid fun (x : Grid) => { x with doneWait := some line }
        | .ok e =>
          let pa := e.pa + r.done.toNat % 4096
          if !t.1.permOk e pa 8 true .atom then fault 0x05
          else if t.1.range pa != .mem then t.1.gridDone r
          else
            let a := (2304 + t.1.channel pa / 6, arriveWord 0x3FF 0 0, r.launch.toNat % 2 ^ 47)
            match t.1.repArrive r.slot [a] with
            | some u => t.1.repWait u
            | none =>
              let k := t.1.atomLlc pa 8 fun x => (x + 2 ^ 64 - 1) % 2 ^ 64
              let s := k.1.repArrived r.slot a
              (if k.2.2 then s.frontFault r.slot r.region 0x08 0 r.done else s).gridDone r)

/-- LRATE_WINDOW (R109): counts start anew with the hub microsecond. -/
def execLrateWindow (s : State) : Host.Outcome State Fault Refusal :=
  .next (if s.lrateAt == s.hubUs then s else { s with lrate := [], lrateAt := s.hubUs })

end Sys2Proof.Machine
end

