-- ==== Sys2Proof/Machine/Tasks.lean ====
section
/-! DEFINITION. Continuations with fork and join (11_tokens_copy_and_tasks.md R309 to R312) and work-graph
drawers (R313 to R315). -/
namespace Sys2Proof.Machine
open Sys2Proof

/-! Fork and join (R311). -/

/-- What the checks of a fork or join find: it may go, or a failing access. -/
inductive TaskChk where
  | ok
  | trap (code : Byte) (addr : Dword)
  | park (line : Nat) (addr : Dword)
  deriving DecidableEq, Repr

/-- One access of a fork or join by the checks of R266: its physical address, or why it fails. An access that the check of
the issuing group placed is where it found it (R235). -/
def State.taskAcc (s : State) (c : Ctx) (k : Acc) (mis : Bool) (va : Dword) : State × (TaskChk ⊕ Nat) :=
  match c.placed? { lane := 0, va, size := 8, mis } with
  | some p => (s, .inr p.1)
  | none =>
    let r := s.checkVa c.core (s.slotOf c.w) (s.priv c.w) k 8 mis va
    (r.1, match r.2 with
      | .ok pa _ => .inr pa
      | .zero => .inl (.trap 0x06 va)
      | .bad _ code => .inl (.trap code va)
      | .park l => .inl (.park l va))
/-- The place of such an access. -/
def Ctx.taskPlace (c : Ctx) (va : Dword) (pa : Nat) : AccPlace := { at0 := c.fl.cur, lane := 0, va, pa, mt := 0 }
/-- A queue header as the die reads it: HEAD, TAIL, capacity and the ring's address. -/
structure Queue where
  head : Dword
  tail : Dword
  cap : Nat
  ring : Dword
  /-- Physical address of TAIL. -/
  tailPa : Nat
  deriving DecidableEq, Repr
def Queue.full (q : Queue) : Bool := decide (q.cap ≤ (q.tail - q.head).toNat)
def State.dieWord (s : State) (g pa : Nat) : Dword := BitVec.ofNat 64 (natOf (s.dieBytes (dieOf g) pa 8))
/-- The queue whose TAIL lies at a physical address. -/
def State.queueAt (s : State) (g t : Nat) : Queue :=
  let w (k : Nat) : Dword := s.dieWord g (t - 0x18 + 8 * k)
  { head := w 2, tail := w 3, cap := 2 ^ bits (w 1) 4 0, ring := w 0, tailPa := t }
/-- The access to the header that a fork or join names: the address of its TAIL. -/
def State.headerAcc (s : State) (c : Ctx) (hdr : Dword) : State × (TaskChk ⊕ Nat) :=
  s.taskAcc c .atom (bits hdr 5 0 != 0) (hdr + 0x18)
/-- Read the header that a fork or join names. -/
def State.queueOf (s : State) (c : Ctx) (hdr : Dword) : State × (TaskChk ⊕ Queue) :=
  let r := s.headerAcc c hdr
  match r.2 with
  | .inl e => (r.1, .inl e)
  | .inr t => (r.1, .inr (r.1.queueAt c.core t))
/-- The slot of a push: RING + 8 (TAIL mod 2^LOG2). -/
def Queue.at' (q : Queue) : Dword := q.ring + BitVec.ofNat 64 (8 * (q.tail.toNat % q.cap))
/-- The checks of fork and join before their group: the header, the slot of the ring that a push would write, and the COUNT
of a join, with their places. They are translated before any effect of the group; `v` is the memory as the operations of
the group before leave it, from which the slot is computed. -/
def State.taskCheck (s v : State) (c : Ctx) (hdr rcd : Dword) (join : Bool) : State × TaskChk × List AccPlace :=
  let q := s.headerAcc c hdr
  match q.2 with
  | .inl e => (q.1, e, [])
  | .inr t =>
    let a := (v.queueAt c.core t).at'
    let p := q.1.taskAcc c .store false a
    match p.2 with
    | .inl e => (p.1, e, [])
    | .inr pa =>
      let ps := [c.taskPlace (hdr + 0x18) t, c.taskPlace a pa]
      if !join then (p.1, .ok, ps)
      else
        let k := p.1.taskAcc c .atom (bits rcd 4 0 != 0) (rcd + 0x10)
        match k.2 with
        | .inl e => (k.1, e, [])
        | .inr n => (k.1, .ok, ps ++ [c.taskPlace (rcd + 0x10) n])
/-- The arrival of a join's decrement at the LLC for recording and replay, as that of a device agent (R509). -/
def State.joinArrival (s : State) (c : Ctx) (rcd : Dword) : List (Nat × Nat × Nat) :=
  match (s.taskAcc c .atom false (rcd + 0x10)).2 with
  | .inr pa => [(2304 + s.channel pa / 6, arriveWord 0x3FF 0 0, rcd.toNat % 2 ^ 47)]
  | .inl _ => []

/-- Push a record: its address into the ring, then TAIL, as a release of the package (R258, R311). -/
def State.pushCont (s : State) (c : Ctx) (hdr rcd : Dword) : State :=
  let s := (s.wcFlush c.core (BitVec.allOnes 16)).writeBackDie (dieOf c.core)
  let q := s.queueOf c hdr
  match q.2 with
  | .inl _ => q.1
  | .inr q' =>
    if q'.full then q.1
    else
      let p := q.1.taskAcc c .store false q'.at'
      match p.2 with
      | .inl _ => p.1
      | .inr pa =>
        let s := p.1.purgePutWord pa rcd
        let s := (s.atomLlc q'.tailPa 8 fun x => (x + 1) % 2 ^ 64).1
        let r : ContRec := { slot := s.slotOf c.w, header := hdr, rcd, seq := s.seq + 1, region := s.regionOf c.w }
        { s with seq := s.seq + 1, conts := s.conts ++ [r] }

/-- fork (R311). -/
def execFork (h : Head) (o : YgFmt) (s : State) : Host.Outcome State Fault Refusal :=
  slot h s fun c s => s.pushCont c (c.w.r.sc o.a.toNat) (c.w.r.sc o.b.toNat)
/-- join (R311): the decrement at the LLC, and the push when it gives zero. -/
def execJoin (h : Head) (o : YgFmt) (s : State) : Host.Outcome State Fault Refusal :=
  slot h s fun c s =>
    let rcd := c.w.r.sc o.b.toNat
    let a := s.joinArrival c rcd
    let p := s.taskAcc c .atom false (rcd + 0x10)
    match p.2 with
    | .inl _ => p.1
    | .inr pa =>
      let s := (p.1.wcFlush c.core (BitVec.allOnes 16)).writeBackDie (dieOf c.core)
      let r := s.atomLlc pa 8 fun x => (x + 2 ^ 64 - 1) % 2 ^ 64
      let s := a.foldl (fun s e => s.repArrived (s.slotOf c.w) e) r.1
      if r.2.1 == 1 && !r.2.2 then s.pushCont c (c.w.r.sc o.a.toNat) rcd else s

/-! Pops (R312). -/

/-- HEAD rises by one; waves that wait for a place look again. -/
def State.popHead (s : State) (i : Nat) (r : ContRec) : State :=
  let s := { s with conts := s.conts.eraseIdx i }
  let t := s.engineAddr none r.slot true true ((r.header.toNat : Int) + 0x10)
  let s := match t.2 with
    | .inr (pa, _) => (t.1.atomLlc pa 8 fun x => (x + 1) % 2 ^ 64).1
    | .inl _ => t.1
  s.wakeKind .contq fun _ => true
/-- The record is dropped, and the region's fault domain hears why (R312, R429). -/
def State.dropCont (s : State) (i : Nat) (r : ContRec) (region : Dword) (code : Byte) (detail : Nat) (addr : Dword) : State :=
  (s.popHead i r).frontFault r.slot region code detail addr

/-- The region that a template names, where the template can be read; else that of the wave that pushed the record. -/
def State.contRegion (s : State) (r : ContRec) (lrec : Dword) : Dword :=
  match (s.readWords none r.slot lrec 8).2 with
  | .inr ws => wd ws 1
  | .inl _ => r.region
/-- CONTINUATION_POP. -/
def execContinuationPop (s : State) : Host.Outcome State Fault Refusal :=
  let i := s.arg.a
  .next (match s.contAt i with
    | none => s
    | some (r, lrec, .inl why) => s.dropCont i r (s.contRegion r lrec) 0x84 why lrec
    | some (r, lrec, .inr l) =>
      if !s.canPop l s.arg.b || s.outranked l.eff.prio r.seq || !s.repPlace l.eff.slot s.arg.b 0 lrec then s
      else
        let d := s.readWords none r.slot r.rcd 4
        match d.2 with
        | .inl code => d.1.dropCont i r (wd l.words 1) (trapOfCode code) 0 r.rcd
        | .inr ws =>
          if bits r.rcd 4 0 != 0 || bits (wd ws 0) 5 0 != 0 || wd ws 3 != 0 then
            d.1.dropCont i r (wd l.words 1) 0x84 1 lrec
          else
            let s := d.1.popHead i r
            let a := s.addGrid l lrec r.slot (1, 1, 1) [wd ws 1, r.rcd, wd l.words 6] 0 false .cont (some (wd ws 0))
              none none r.seq
            match a.1.grid? a.2 with
            | some g => a.1.placeGroup g l.eff s.arg.b
            | none => a.1)

/-! Drawers (R313 to R315). -/

/-- The fields of a drawer header. -/
structure DrawerHead where
  lrec : Dword
  buf : Dword
  coal : Nat
  rsize : Nat
  cap : Nat
  timeout : Nat
  deriving DecidableEq, Repr
/-- A header's fields, none when it is invalid (R313, R314). -/
def DrawerHead.parse (hdr : Dword) (ws : List Dword) : Option DrawerHead :=
  let w := wd ws 2
  let d : DrawerHead :=
    { lrec := wd ws 0, buf := wd ws 1, coal := bits w 15 0, rsize := bits w 31 16, cap := 2 ^ bits w 36 32,
      timeout := bits (wd ws 3) 31 0 }
  if bits hdr 5 0 == 0 && bits d.lrec 5 0 == 0 && bits d.buf 5 0 == 0 && 1 ≤ d.coal && d.coal ≤ 1024 && 16 ≤ d.rsize
      && d.rsize ≤ 1024 && d.rsize % 16 == 0 && 4 ≤ bits w 36 32 && bits w 36 32 ≤ 20 && d.coal ≤ d.cap
      && bits w 43 40 ≤ 11 && bits w 63 44 == 0 && bits (wd ws 3) 63 32 == 0
  then some d else none

def State.modDrawer (s : State) (u : Nat) (f : Drawer → Drawer) : State :=
  { s with drawers := s.drawers.map fun d => if d.uid == u then f d else d }
def State.drawer? (s : State) (u : Nat) : Option Drawer := s.drawers.find? fun d => d.uid == u

/-- STATE of a header is zero: software has made the drawer ready for a first use (R313). -/
def stateZero (ws : List Dword) : Bool := (List.range 4).all fun k => wd ws (4 + k) == 0
/-- The drawer of a header: a first use, with STATE zero and no record held, starts its indices at 0 (R313, R314; DESIGN
CHOICE, log entry 107). -/
def State.openDrawer (s : State) (slot : Nat) (hdr region : Dword) (ws : List Dword) : State :=
  match s.drawers.find? fun x => x.slot == slot && x.header == hdr with
  | some x =>
    if stateZero ws && x.held == 0 && x.opened.isNone then
      s.modDrawer x.uid fun (y : Drawer) => { y with next := 0, firstOpen := 0, region := region }
    else s
  | none =>
    let k := s.fresh
    { k.2 with drawers := k.2.drawers ++ [{ uid := k.1, slot, header := hdr, next := 0, firstOpen := 0, held := 0, opened := none, region }] }
/-- The device writes its STATE words, the first of them not zero (R313). -/
def State.putDrawerState (s : State) (slot : Nat) (hdr : Dword) : State :=
  let k := s.free
  (List.range 4).foldl (fun s (i : Nat) =>
    let r := s.engineAddr none slot true false ((hdr.toNat : Int) + ((0x20 + 8 * i : Nat) : Int))
    let x := Config.drawerState k.1 i
    match r.2 with
    | .inr (pa, _) => r.1.purgePutWord pa (if i == 0 then x ||| 1 else x)
    | .inl _ => r.1) k.2
/-- The oldest closed batch of a drawer launches as one group (R315), unless its slot is held (R447, R499); a template that
is refused drops it. -/
def State.launchShut (s : State) (u : Nat) : State :=
  match s.drawer? u with
  | none => s
  | some d =>
    match d.shut with
    | [] => s
    | b :: _ =>
      let off (n : Nat) (s : State) : State := s.modDrawer u fun (x : Drawer) => { x with held := x.held - n, shut := x.shut.drop 1 }
      let free := off b.count
      let hd := s.readWords none d.slot d.header 1
      match hd.2 with
      | .inl code => free (hd.1.frontFault d.slot d.region (trapOfCode code) 0 d.header)
      | .inr ws =>
        let r := hd.1.checkLaunch none d.slot (wd ws 0) true
        match r.2 with
        | .inl why => free (r.1.frontFault d.slot d.region 0x84 why (wd ws 0))
        | .inr l =>
          if s.slotHeld l.eff.slot then s
          else
          let s := off 0 { r.1 with seq := r.1.seq + 1 }
          (s.addGrid l (wd ws 0) d.slot (1, 1, 1) [BitVec.ofNat 64 b.first, BitVec.ofNat 64 b.count, wd l.words 6] 0 false
            (.drawer u) none (some (u, b.count)) none s.seq).1
/-- The open batch of a drawer closes; the closed batches launch in their order (R315). -/
def State.launchBatch (s : State) (u : Nat) : State :=
  let s := s.modDrawer u fun (x : Drawer) =>
    match x.opened with
    | none => x
    | some b => { x with opened := none, firstOpen := b.first + b.count, shut := x.shut ++ [b] }
  ((s.drawer? u).elim [] fun x => x.shut).foldl (fun s _ => s.launchShut u) s

/-- The record of an enq reaches its slot: index, batch, launch at COAL records (R314, R315). The command stays
pending while the drawer is full. -/
def State.runEnq (s : State) (c : Cmd) (o : EFmt) : State × Option Dword :=
  let hdr := wd c.run 0
  let slot := s.cmdSlot c
  let r := s.readWords (some c.core) slot hdr 8
  match r.2 with
  | .inl code => (r.1, some (statusBad code 4 (addrOf hdr)))
  | .inr ws =>
    match DrawerHead.parse hdr ws with
    | none => (r.1, some (statusBad 0x86 1 0))
    | some d =>
      let region := (((s.group? c.group).bind fun g => s.grid? g.grid).map fun g => g.region).getD 0
      let s := r.1.openDrawer slot hdr region ws
      match s.drawers.find? fun x => x.slot == slot && x.header == hdr with
      | none => (s, none)
      | some x =>
        let due := (x.opened.bind fun b => b.due).any fun t => decide (t ≤ s.now)
        let s := if due then s.launchBatch x.uid else s
        if d.cap ≤ x.held then (s, none)
        else
          let i := x.next
          let src := addrOf (wd c.run 1)
          let dst := addrOf d.buf + ((d.rsize * (i % d.cap) : Nat) : Int)
          let ms : List Mv := (List.range d.rsize).map fun (b : Nat) => { src := some (src + b), lit := clean 0, dst := dst + b }
          let s := (s.wcFlush c.core (BitVec.allOnes 16)).writeBackDie (dieOf c.core)
          let m := s.moveAll c (bit o.md 2) false true i none none ms
          if 0x80 ≤ bits m.2 7 0 && bits m.2 7 0 != 0x82 then (m.1, some m.2)
          else
            let s := (m.1.putDrawerState slot hdr).modDrawer x.uid fun (y : Drawer) =>
              let b := y.opened.getD
                { first := i, count := 0, due := if d.timeout == 0 then none else some (s.now + 40 * d.timeout) }
              { y with next := i + 1, held := y.held + 1, opened := some { b with count := b.count + 1 } }
            let full := ((s.drawer? x.uid).bind fun y => y.opened).any fun b => decide (d.coal ≤ b.count)
            (if full then s.launchBatch x.uid else s, some m.2)

/-- The enq command of a number, and its format. -/
def State.enqOf (s : State) (u : Nat) : Option (Cmd × EFmt) :=
  s.cores.findSome? fun k => k.syncQ.findSome? fun c =>
    if c.uid == u then (match c.op with | .enq _ o => some (c, o) | _ => none) else none
/-- DRAWER_RECORD_PLACE (R314). -/
def execDrawerRecordPlace (s : State) : Host.Outcome State Fault Refusal :=
  .next (match s.enqOf s.arg.a with
    | none => s
    | some (c, o) =>
      if !c.ready then s
      else if c.depFailed then s.finish c (statusBad 0x83 3 0)
      else
        let r := s.runEnq c o
        match r.2 with
        | none => r.1
        | some st => r.1.finish c st)
/-- DRAWER_TIMEOUT (R315). -/
def execDrawerTimeout (s : State) : Host.Outcome State Fault Refusal :=
  .next (match s.drawer? s.arg.a with
    | none => s
    | some d =>
      if ((d.opened.bind fun b => b.due).any fun t => decide (t ≤ s.now)) || (d.opened.isNone && !d.shut.isEmpty) then
        s.launchBatch d.uid else s)
/-- enq: a command for the drawer unit (R314). -/
def execEnq (h : Head) (o : EFmt) (s : State) : Host.Outcome State Fault Refusal :=
  slot h s fun c s => s.toSync c (.enq h o) o 2

end Sys2Proof.Machine
end

