-- ==== Sys2Proof/Machine/Matrix.lean ====
section
/-! DEFINITION. The matrix engine (12_matrix_engine.md R320 to R345): configuration, shelf, multiplication,
tiles, rotation, scales and drain, with mamax and mcvt (R342, R343). -/
namespace Sys2Proof.Machine
open Sys2Proof

/-! Formats (R322, R323). -/

/-- The floating-point format of a code, and the depth of a bit-plane code. -/
def mFm (c : Nat) : Option Fm :=
  match c with | 0 => some fmBf16 | 1 => some fmF16 | 2 => some fmE4m3 | 3 => some fmE5m2 | 4 => some fmF32 | _ => none
def mDepth (c : Nat) : Nat := if 8 ≤ c && c ≤ 14 then c - 6 else 0
def mIsBp (c : Nat) : Bool := mDepth c != 0
/-- Multiplier operands, and drain formats with block scales. -/
def mOperand (c : Nat) : Bool := c ≤ 3 || mIsBp c
def mScaled (c : Nat) : Bool := c == 2 || c == 3 || mIsBp c
/-- Bytes of an element of a floating-point format. -/
def mSize (c : Nat) : Nat := match c with | 0 | 1 => 2 | 4 => 4 | _ => 1
/-- Footprints: a block in scratchpad (FA of R330), a block in shelf form (FP of R328). -/
def mFa (c : Nat) : Nat := if mIsBp c then 4 * mDepth c else 32 * mSize c
def mFp (c : Nat) : Nat := if mIsBp c then 4 + 4 * mDepth c else 32 * mSize c
/-- The depth read: all of it when the read field is 0. -/
def mRead (c k : Nat) : Nat := if k == 0 then mDepth c else k

/-- Elements of a block read at depth k: planes, and the scale byte E (R139, R323). -/
def planeVals (k e : Nat) (bs : List PByte) : List FVal :=
  (List.range 32).map fun i =>
    if e == 255 then .nan
    else
      let m := (List.range k).foldl (fun (x : Nat) (q : Nat) =>
        2 * x + (if ((bs.getD (4 * q + i / 8) (clean 0)).v).getLsbD (i % 8) then 1 else 0)) 0
      let v := sInt k m
      .num (decide (v < 0)) ((v : Rat) * pow2 ((e : Int) - 127 - ((k : Int) - 1)))
/-- Elements of a floating-point block at their exact values. -/
def floatVals (c : Nat) (bs : List PByte) : List FVal :=
  (List.range 32).map fun i => ((mFm c).getD fmF32).read false (natOf ((bs.drop (mSize c * i)).take (mSize c)))

/-! Group state (R320). -/

/-- Word (m, n) of tile t. -/
def accKey (t m n : Nat) : Nat := 4096 * t + 64 * m + n
def Group.accGet (g : Group) (t m n : Nat) : Word × Bool := g.acc.get (accKey t m n)
def Group.accPut (g : Group) (t m n : Nat) (x : Word) (bad : Bool) : Group := { g with acc := g.acc.put (accKey t m n) x bad }
/-- A tensor record; one never set is in delayed mode with margin and scale 0 and an empty ring. -/
def Group.tensor (g : Group) (t : Nat) : Tensor :=
  getOr (fun (x : Tensor) => x.id == t) { id := t, smode := 1, fixe := 0, margin := 0, ring := [], oldest := 0 } g.tensors
def Group.setTensor (g : Group) (x : Tensor) : Group := { g with tensors := upd (fun (y : Tensor) => y.id == x.id) x g.tensors }
/-- A push into a ring; a full ring drops its oldest entry (R340). -/
def Tensor.push (x : Tensor) (w : Word) : Tensor :=
  if x.ring.length < 16 then { x with ring := x.ring ++ [w] }
  else { x with ring := x.ring.drop 1 ++ [w], oldest := (x.oldest + 1) % 16 }

/-- A status with the flags of the command's roundings (R290, R325). -/
def okFlags (n : NumCtx) (count : Nat) : Dword := statusOk 0 n.flags.toNat count
def num0 : NumCtx := { flags := 0, st := { x := 0, y := 0, z := 0, w := 0 } }

/-! Configuration (R326). -/

def cfgOk (x : Dword) : Bool :=
  let rd (f k : Nat) : Bool := k == 0 || (2 ≤ k && k ≤ mDepth f)
  mOperand (bits x 3 0) && mOperand (bits x 7 4) && rd (bits x 3 0) (bits x 11 8) && rd (bits x 7 4) (bits x 15 12)
    && bits x 63 16 == 0
def runMcfg (g : Group) (q : Bool) (x : Dword) : Group × Dword :=
  let st := statusOk 0 0 g.mat.mprog.toNat
  if q then (g, st)
  else if !cfgOk x then (g, statusBad 0x86 1 0)
  else
    let m : MatState := { afmt := x.extractLsb' 0 4, bfmt := x.extractLsb' 4 4, aread := x.extractLsb' 8 4,
                          bread := x.extractLsb' 12 4, mprog := g.mat.mprog }
    ({ g with mat := m }, st)

/-! The shelf (R327, R328). -/

/-- A group holds a section. -/
def Core.holdsSec (c : Core) (g k : Nat) : Bool := c.sections.any fun e => e.index == k && e.group == g && e.valid
/-- Make a group the holder of sections, valid or not. -/
def Core.takeSecs (c : Core) (g lo hi : Nat) (valid : Bool) : Core :=
  { c with sections := (c.sections.filter fun e => !(lo ≤ e.index && e.index ≤ hi))
             ++ (List.range (hi + 1 - lo)).map fun k => { index := lo + k, group := g, valid } }
/-- Source bytes with their shelf offsets, in order. -/
def shelfBytes (fmt nb doff : Nat) (src scl : Int) : List (Option Int × Nat) :=
  (List.range nb).flatMap fun q =>
    let at0 := doff + mFp fmt * q
    if mIsBp fmt then
      (some (scl + q), at0) :: ((List.range 3).map fun k => (none, at0 + 1 + k))
        ++ (List.range (4 * mDepth fmt)).map fun k => (some (src + ((4 * mDepth fmt * q + k : Nat) : Int)), at0 + 4 + k)
    else (List.range (mFp fmt)).map fun k => (some (src + ((mFp fmt * q + k : Nat) : Int)), at0 + k)
/-- mshelf: the sections become the group's, and valid when the copy ends well; a cancelled one leaves them
invalid (R345). -/
def State.runMshelf (s : State) (c : Cmd) (g : Group) (scratch : Bool) (force : Option Dword) : State × Dword :=
  let fmt := g.mat.bfmt.toNat
  let x := wd c.run 2
  let nb := bits x 31 0
  let doff := bits x 48 32
  if nb == 0 then (s, statusOk 1 0 0)
  else if !mIsBp fmt && wd c.run 1 != 0 then (s, statusBad 0x86 2 0)
  else if bits x 63 49 != 0 || 131072 < doff + nb * mFp fmt then (s, statusBad 0x86 3 0)
  else if bits (wd c.run 0) 1 0 != 0 || doff % 4 != 0 then (s, statusBad 0x87 1 0)
  else
    let lo := doff / 4096
    let hi := (doff + nb * mFp fmt - 1) / 4096
    let s := s.modCore c.core fun k => k.takeSecs c.group lo hi false
    match force with
    | some st => (s, st)
    | none =>
      let r := (shelfBytes fmt nb doff (addrOf (wd c.run 0)) (addrOf (wd c.run 1))).foldl
        (fun (acc : State × Option Dword × Option Dword) p =>
          if acc.2.1.isSome then acc
          else match p.1 with
            | none => (acc.1.modCore c.core fun (k : Core) => { k with shelf := k.shelf.put p.2 (clean 0) }, acc.2)
            | some a =>
              let q := acc.1.place c scratch false a
              match q.2 with
              | .inl code => (q.1, some (failStatus scratch code 1 a), acc.2.2)
              | .inr e =>
                let b := q.1.getByte c e
                let bad := if b.2.bad && acc.2.2.isNone then some (failStatus scratch 0x82 1 a) else acc.2.2
                (b.1.modCore c.core fun (k : Core) => { k with shelf := k.shelf.put p.2 b.2 }, none, bad)) (s, none, none)
      match r.2.1 with
      | some st => (r.1, st)
      | none => (r.1.modCore c.core fun k => k.takeSecs c.group lo hi true, r.2.2.getD (statusOk 0 0 nb))

/-! Multiplication (R329 to R333). -/

/-- The run of mloop and mstep. -/
structure MulRun where
  abase : Int
  arow : Int
  astep : Int
  sbase : Int
  srow : Int
  steps : Nat
  m : Nat
  n : Nat
  tile : Nat
  klast : Nat
  boff : Int
  bstep : Int
  deriving DecidableEq, Repr
def mulRun (run : List Dword) : MulRun :=
  let x := wd run 2
  { abase := (bits (wd run 0) 31 0 : Nat), arow := strideHi (wd run 0), astep := strideLo (wd run 1),
    sbase := (bits (wd run 1) 63 32 : Nat), srow := (x.extractLsb' 48 16).toInt, steps := bits x 15 0,
    m := bits x 22 16, n := bits x 30 24, tile := bits x 35 32, klast := bits x 44 40,
    boff := (bits (wd run 3) 31 0 : Nat), bstep := strideHi (wd run 3) }
/-- Addresses of the blocks read: A of row m and step j, its scale, B of column n and step j (R330). -/
def MulRun.aAt (r : MulRun) (m j : Nat) : Int := r.abase + m * r.arow + j * r.astep
def MulRun.sAt (r : MulRun) (m j : Nat) : Int := r.sbase + m * r.srow + j
def MulRun.bAt (r : MulRun) (fp n j : Nat) : Int := r.boff + j * r.bstep + n * fp
/-- Bytes of a block of A, and of B in shelf form, that a read at depth k reads. -/
def aBytes (fmt k : Nat) : Nat := if mIsBp fmt then 4 * k else 32 * mSize fmt
def bBytes (fmt k : Nat) : Nat := if mIsBp fmt then 4 + 4 * k else 32 * mSize fmt
/-- Lowest and highest byte of blocks at a base with two strides. -/
def spanOf (base : Int) (m : Nat) (sm : Int) (j : Nat) (sj : Int) (len : Nat) : Int × Int :=
  let a := sm * ((m : Int) - 1)
  let b := sj * ((j : Int) - 1)
  (base + min 0 a + min 0 b, base + max 0 a + max 0 b + (len : Int) - 1)
def MulRun.aSpan (r : MulRun) (len : Nat) : Int × Int := spanOf r.abase r.m r.arow r.steps r.astep len
def MulRun.sSpan (r : MulRun) : Int × Int := spanOf r.sbase r.m r.srow r.steps 1 1
def MulRun.bSpan (r : MulRun) (fp len : Nat) : Int × Int := spanOf r.boff r.n fp r.steps r.bstep len
def inSpan (p : Int × Int) (n : Nat) : Bool := 0 ≤ p.1 && p.2 < n

/-- The checks of R332 in their order: none when all pass. -/
def State.mulCheck (s : State) (c : Cmd) (g : Group) (shelf : Bool) : Option Dword :=
  let r := mulRun c.run
  let x := wd c.run 2
  let af := g.mat.afmt.toNat
  let bf := g.mat.bfmt.toNat
  let ak := mRead af g.mat.aread.toNat
  let bk := mRead bf g.mat.bread.toNat
  let fa : Int := if mIsBp af then 4 else mFa af
  let lenB := bBytes bf bk
  let span := s.groupSpan c.group
  if !mIsBp af && bits (wd c.run 1) 63 32 != 0 then some (statusBad 0x86 2 0)
  else if bit x 23 || bit x 31 || bits x 39 36 != 0 || bits x 47 45 != 0 || 64 < r.m || 64 < r.n
      || (!mIsBp af && bits x 63 48 != 0) then some (statusBad 0x86 3 0)
  else if r.abase % fa != 0 || r.arow % fa != 0 || r.astep % fa != 0 then some (statusBad 0x87 5 0)
  else if r.boff % 4 != 0 || r.bstep % 4 != 0 then some (statusBad 0x87 6 0)
  else if r.steps == 0 then none
  else if !inSpan (r.aSpan (aBytes af ak)) span || (mIsBp af && !inSpan r.sSpan span) then some (statusBad 0x81 5 0)
  else if !shelf then (if inSpan (r.bSpan (mFp bf) lenB) span then none else some (statusBad 0x81 6 0))
  else if !inSpan (r.bSpan (mFp bf) lenB) 131072 then some (statusBad 0x86 4 0)
  else
    let held := (List.range r.steps).all fun j => (List.range r.n).all fun n =>
      let a := (r.bAt (mFp bf) n j).toNat
      (s.core c.core).holdsSec c.group (a / 4096) && (s.core c.core).holdsSec c.group ((a + lenB - 1) / 4096)
    if held then none else some (statusBad 0x88 6 0)

/-- The block of A of row m and step j, and of B of column n: values and poison. -/
def mulA (g : Group) (r : MulRun) (m j : Nat) : List FVal × Bool :=
  let f := g.mat.afmt.toNat
  let k := mRead f g.mat.aread.toNat
  let bs := g.scratch.read (r.aAt m j).toNat (aBytes f k)
  if mIsBp f then
    let e := g.scratch.get (r.sAt m j).toNat
    (planeVals k e.v.toNat bs, anyBad bs || e.bad)
  else (floatVals f bs, anyBad bs)
def mulB (g : Group) (shelf : Option Store) (r : MulRun) (n j : Nat) : List FVal × Bool :=
  let f := g.mat.bfmt.toNat
  let k := mRead f g.mat.bread.toNat
  let at0 := (r.bAt (mFp f) n j).toNat
  let st := shelf.getD g.scratch
  if mIsBp f then
    let e := st.get at0
    let bs := st.read (at0 + 4) (4 * k)
    (planeVals k e.v.toNat bs, anyBad bs || e.bad)
  else
    let bs := st.read at0 (mFp f)
    (floatVals f bs, anyBad bs)

/-- One K-step of one accumulator word (R154). -/
def mulStep (n : NumCtx) (a b : List FVal) (kk : Nat) (c : Word) : NumCtx × Word :=
  let ps := (List.range 32).map fun e =>
    if e < kk then fmul (a.getD e (.num false 0)) (b.getD e (.num false 0)) else some (.num false 0)
  let x := n.sumTo fmF32 .rne false false ps
  let y := x.1.sumTo fmF32 .rne false false [some (fmF32.read false x.2), some (fmF32.read false c.toNat)]
  (y.1, BitVec.ofNat 32 y.2)

/-- The region of a tile cleared, poison with it. -/
def Group.clearTile (g : Group) (t m n : Nat) : Group :=
  (List.range m).foldl (fun g i => (List.range n).foldl (fun (g : Group) k => g.accPut t i k 0 false) g) g
/-- K-steps 0 to k − 1 of a multiplication: the group, the flags, and poison seen in A and in B. -/
def mulSteps (g : Group) (shelf : Option Store) (r : MulRun) (k : Nat) : Group × NumCtx × Bool × Bool :=
  (List.range k).foldl (fun (acc : Group × NumCtx × Bool × Bool) j =>
    let kk := if j + 1 == r.steps && r.klast != 0 then r.klast else 32
    let as := (List.range r.m).map fun m => mulA g r m j
    let bs := (List.range r.n).map fun n => mulB g shelf r n j
    let acc := (as.zipIdx).foldl (fun (acc : Group × NumCtx × Bool × Bool) a =>
      (bs.zipIdx).foldl (fun (acc : Group × NumCtx × Bool × Bool) b =>
        let old := acc.1.accGet r.tile a.2 b.2
        let v := mulStep acc.2.1 a.1.1 b.1.1 kk old.1
        (acc.1.accPut r.tile a.2 b.2 v.2 (old.2 || a.1.2 || b.1.2), v.1, acc.2.2)) acc) acc
    (acc.1, acc.2.1, acc.2.2.1 || as.any (fun a => a.2), acc.2.2.2 || bs.any (fun b => b.2))) (g, num0, false, false)

/-- mloop and mstep (R331, R345). -/
def State.runMul (s : State) (c : Cmd) (g : Group) (shelf zero : Bool) (force : Option Dword) : State × Dword :=
  let r := mulRun c.run
  let put (s : State) (g : Group) : State := s.modGroup c.group fun _ => g
  if r.m == 0 || r.n == 0 then (s, statusOk 1 0 0)
  else match s.mulCheck c g shelf with
    | some st => (s, st)
    | none =>
      let b := if shelf then some (s.core c.core).shelf else none
      let g0 := if zero then g.clearTile r.tile r.m r.n else g
      match force with
      | some st =>
        let f := s.free
        let k := Config.progress f.1 % (r.steps + 1)
        let g' := if k == 0 then g else (mulSteps g0 b r k).1
        (put f.2 { g' with mat := { g'.mat with mprog := BitVec.ofNat 40 k } }, st)
      | none =>
        let x := mulSteps g0 b r r.steps
        (put s x.1, if x.2.2.1 then statusBad 0x82 5 0 else if x.2.2.2 then statusBad 0x82 6 0 else okFlags x.2.1 r.steps)

/-! Tiles (R335, R336). -/

/-- mzero. -/
def runMzero (g : Group) (x : Dword) : Group × Dword :=
  if bits x 63 16 != 0 then (g, statusBad 0x86 1 0)
  else if x == 0 then (g, statusOk 1 0 0)
  else
    let ts := (List.range 16).filter fun t => bit x t
    let keep (k : Nat) : Bool := !ts.any fun t => t == k / 4096
    ({ g with acc := { cells := g.acc.cells.filter fun e => keep e.1, bad := g.acc.bad.filter keep } },
     statusOk 0 0 ts.length)

/-- The region of mget and mput: row stride, extents and tile; none when a field is out of range. -/
def moveRun (x : Dword) : Option (Int × Nat × Nat × Nat) :=
  if bit x 39 || bit x 47 || bits x 63 52 != 0 || 64 < bits x 38 32 || 64 < bits x 46 40 then none
  else some (strideLo x, bits x 38 32, bits x 46 40, bits x 51 48)
/-- Words of a region in their order: row, column, address. -/
def regionWords (base rowb : Int) (m n : Nat) : List (Nat × Nat × Int) :=
  (List.range m).flatMap fun (i : Nat) => (List.range n).map fun (k : Nat) => (i, k, base + i * rowb + 4 * k)
/-- The bytes of an accumulator word with its poison. -/
def accBytes (x : Word × Bool) : List PByte := (bytesOfNat 4 x.1.toNat).map fun b => { v := b, bad := x.2 }
/-- mget. -/
def State.runMget (s : State) (c : Cmd) (g : Group) (scratch : Bool) (force : Option Dword) : State × Dword :=
  match moveRun (wd c.run 1) with
  | none => (s, statusBad 0x86 2 0)
  | some (rowb, m, n, t) =>
    if m == 0 || n == 0 then (s, statusOk 1 0 0)
    else if bits (wd c.run 0) 1 0 != 0 || rowb % 4 != 0 then (s, statusBad 0x87 2 0)
    else
      let ms : List Mv := (regionWords (addrOf (wd c.run 0)) rowb m n).flatMap fun w =>
        (accBytes (g.accGet t w.1 w.2.1)).zipIdx.map fun b => { src := none, lit := b.1, dst := w.2.2 + b.2 }
      s.moveAll c false scratch false (m * n) force none ms
/-- mput. -/
def State.runMput (s : State) (c : Cmd) (scratch : Bool) (force : Option Dword) : State × Dword :=
  match moveRun (wd c.run 1) with
  | none => (s, statusBad 0x86 2 0)
  | some (rowb, m, n, t) =>
    if m == 0 || n == 0 then (s, statusOk 1 0 0)
    else if bits (wd c.run 0) 1 0 != 0 || rowb % 4 != 0 then (s, statusBad 0x87 1 0)
    else
      let ws := regionWords (addrOf (wd c.run 0)) rowb m n
      let fail := ws.foldl (fun (acc : State × Option Dword) w =>
        let r := acc.1.place c scratch false w.2.2
        match r.2 with
        | .inl k => (r.1, some (acc.2.getD (failStatus scratch k 1 w.2.2)))
        | .inr _ => (r.1, acc.2)) (s, force)
      let f := fail.1.free
      let s := if fail.2.isSome then f.2 else fail.1
      let r := ws.foldl (fun (acc : State × Option Dword) w =>
        if fail.2.isNone || Config.unitWritten f.1 (2 ^ 65 + accKey t w.1 w.2.1) then
          let r := (List.range 4).foldl (fun (q : State × Option (List PByte)) (k : Nat) =>
            match q.2 with
            | none => q
            | some bs =>
              let p := q.1.place c scratch false (w.2.2 + k)
              match p.2 with
              | .inl _ => (p.1, none)
              | .inr e =>
                let b := p.1.getByte c e
                (b.1, some (bs ++ [b.2]))) (acc.1, some [])
          match r.2 with
          | none => (r.1, acc.2)
          | some bs =>
            let s := r.1.modGroup c.group fun g => g.accPut t w.1 w.2.1 (BitVec.ofNat 32 (natOf bs)) (anyBad bs)
            (s, if anyBad bs && acc.2.isNone then some (failStatus scratch 0x82 1 w.2.2) else acc.2)
        else acc) (s, none)
      (r.1, fail.2.getD (r.2.getD (statusOk 0 0 (m * n))))

/-! Rotation (R337). -/

/-- Parity of the bits of i AND j. -/
def oddAnd (i j : Nat) : Bool := popN 32 (Nat.land i j) % 2 == 1
/-- One block of a row rotated. -/
def rotBlock (n : NumCtx) (h shift : Nat) (neg : Nat → Bool) (xs : List (Word × Bool)) : NumCtx × List (Word × Bool) :=
  let bad := xs.any fun x => x.2
  (List.range h).foldl (fun (acc : NumCtx × List (Word × Bool)) i =>
    let ts := (List.range h).map fun j =>
      let v := fmF32.read false (xs.getD j (0, false)).1.toNat
      let v := match v with | .num ng x => FVal.num ng (x * pow2 (-(shift : Int))) | y => y
      some (if oddAnd i j != neg j then v.negate else v)
    let y := acc.1.sumTo fmF32 .rne false false ts
    (y.1, acc.2 ++ [(BitVec.ofNat 32 y.2, bad)])) (n, [])
/-- Rows 0 to k − 1 of a region rotated. -/
def rotRows (g : Group) (t n h shift : Nat) (d : Dword) (k : Nat) : Group × NumCtx × Bool :=
  (List.range k).foldl (fun (acc : Group × NumCtx × Bool) m =>
    (List.range (n / h)).foldl (fun (acc : Group × NumCtx × Bool) b =>
      let xs := (List.range h).map fun j => acc.1.accGet t m (b * h + j)
      let r := rotBlock acc.2.1 h shift (fun j => bit d (b * h + j)) xs
      let g := r.2.zipIdx.foldl (fun (g : Group) y => g.accPut t m (b * h + y.2) y.1.1 y.1.2) acc.1
      (g, r.1, acc.2.2 || xs.any fun x => x.2)) acc) (g, num0, false)
/-- mrot. -/
def State.runMrot (s : State) (c : Cmd) (g : Group) (md : BitVec 7) (force : Option Dword) : State × Dword :=
  let x := wd c.run 0
  let h := 16 * 2 ^ bits md 1 0
  let m := bits x 14 8
  let n := bits x 22 16
  if bits x 7 4 != 0 || bit x 15 || bits x 63 23 != 0 || 64 < m || 64 < n || n % h != 0 then (s, statusBad 0x86 1 0)
  else if m == 0 || n == 0 then (s, statusOk 1 0 0)
  else
    let rows (k : Nat) := rotRows g (bits x 3 0) n h (bits md 6 2) (wd c.run 1) k
    match force with
    | some st =>
      let f := s.free
      let k := Config.progress f.1 % (m + 1)
      let g' := (rows k).1
      (f.2.modGroup c.group fun _ => { g' with mat := { g'.mat with mprog := BitVec.ofNat 40 k } }, st)
    | none =>
      let r := rows m
      (s.modGroup c.group fun _ => r.1, if r.2.2 then statusBad 0x82 7 0 else okFlags r.2.1 m)

/-! Scales and the drain (R338 to R341). -/

/-- ScaleFor of a magnitude for a target code and a margin (R338). -/
def scaleFor (a : FVal) (fmt : Nat) (g : Nat) : Nat :=
  match a with
  | .nan | .inf _ => 255
  | .num _ x =>
    if x == 0 then 0
    else
      let e := floorLog2 (if x < 0 then -x else x)
      let b : Int := if mIsBp fmt then e + 128 else if fmt == 2 then e + 119 else e + 112
      (saturate (b + g) 0 254).toNat
/-- The larger of two magnitudes, NaN when one is. -/
def maxMag (a b : FVal) : FVal :=
  match a, b with
  | .nan, _ | _, .nan => .nan
  | .inf _, _ | _, .inf _ => .inf false
  | .num _ x, .num _ y =>
    let x := if x < 0 then -x else x
    let y := if y < 0 then -y else y
    .num false (if x < y then y else x)
def magOf (xs : List FVal) : FVal := xs.foldl maxMag (.num false 0)
/-- The f32 word of a magnitude that an f32 word held. -/
def magWord (a : FVal) : Word :=
  match a with
  | .nan => 0x7FC00000
  | .inf _ => 0x7F800000
  | .num _ x => BitVec.ofNat 32 (fmF32.round .rne false 0 x).1

/-- An 8-bit element under a block scale, saturating (R338, R341, R343). -/
def scaledElem (n : NumCtx) (fm : Fm) (md : Rm) (e : Nat) (x : FVal) : NumCtx × Nat :=
  if e == 255 then n.putNan fm md fNV
  else match x with
    | .num neg v =>
      let d := n.drawIf md
      let u := v * pow2 (127 - (e : Int))
      if u == 0 then (d.2, fm.signBit neg)
      else
        let r := fm.round md false d.1 u
        if r.2 &&& fOF != 0 then (d.2.raise (fOF ||| fNX), fm.signBit neg + fm.top) else (d.2.raise r.2, r.1)
    | y => n.convTo fm md false y

/-- mscale (R339). -/
def runMscale (g : Group) (x : Dword) : Group × Dword :=
  if bits x 63 19 != 0 || bits x 7 6 == 3 then (g, statusBad 0x86 1 0)
  else
    (g.setTensor { g.tensor (bits x 5 0) with smode := BitVec.ofNat 8 (bits x 7 6), fixe := x.extractLsb' 8 8,
                                              margin := BitVec.ofNat 8 (bits x 18 16) }, statusOk 0 0 1)
/-- mhist (R340): clear, read or push. -/
def State.runMhist (s : State) (c : Cmd) (g : Group) : State × Dword :=
  let x := wd c.run 0
  let t := g.tensor (bits x 5 0)
  let put (t : Tensor) : State × Dword := (s.modGroup c.group fun _ => g.setTensor t, statusOk 0 0 t.ring.length)
  if bits x 63 8 != 0 then (s, statusBad 0x86 1 0)
  else match bits x 7 6 with
    | 0 => put { t with ring := [], oldest := 0 }
    | 1 =>
      let a := wd c.run 1
      if bits a 1 0 != 0 then (s, statusBad 0x87 2 0)
      else
        let ms : List Mv := (List.range 16).flatMap fun k =>
          (cleanBytes 4 (t.ring.getD k 0).toNat).zipIdx.map fun b => { src := none, lit := b.1, dst := addrOf a + 4 * k + b.2 }
        s.moveAll c false true false t.ring.length none none ms
    | 2 =>
      let w := (wd c.run 1).extractLsb' 0 32
      put (t.push (if (fmF32.read false w.toNat).isNan then 0x7FC00000 else w &&& 0x7FFFFFFF))
    | _ => (s, statusBad 0x86 1 0)

/-- Bytes that a drain writes for one row: offset from DST + m ROWB, bytes; scale bytes with their place. -/
structure DrainOut where
  n : NumCtx
  data : List (Nat × PByte)
  scales : List (Nat × PByte)
  bad : Bool
  deriving DecidableEq, Repr
def pb (bad : Bool) (x : Nat) (size : Nat) : List PByte := (bytesOfNat size x).map fun b => { v := b, bad }
/-- A block of 32 elements under a scale: an e4m3, e5m2 or bit-plane format. -/
def drainBlock (o : DrainOut) (fmt : Nat) (md : Rm) (e q row nblk : Nat) (xs : List (Word × Bool)) : DrainOut :=
  let vals := xs.map fun x => fmF32.read false x.1.toNat
  let anyb := xs.any fun x => x.2
  if mIsBp fmt then
    let b := mDepth fmt
    let r := vals.foldl (fun (acc : NumCtx × List Int) v =>
      let z := acc.1.quantise v b e md
      (z.1, acc.2 ++ [z.2])) (o.n, [])
    let plane (p : Nat) : Nat := (r.2.zipIdx.map fun m => if (truncN b m.1) / 2 ^ (b - 1 - p) % 2 == 1 then 2 ^ m.2 else 0).foldl (· + ·) 0
    let bytes := (List.range b).flatMap fun p => pb anyb (plane p) 4
    { n := r.1, data := o.data ++ bytes.zipIdx.map (fun x => (4 * b * q + x.2, x.1)),
      scales := o.scales ++ [(row * nblk + q, { v := BitVec.ofNat 8 e, bad := anyb })], bad := o.bad || anyb }
  else
    let fm := (mFm fmt).getD fmE4m3
    let r := (vals.zip xs).foldl (fun (acc : NumCtx × List PByte) v =>
      let z := scaledElem acc.1 fm md e v.1
      (z.1, acc.2 ++ pb v.2.2 z.2 1)) (o.n, [])
    { n := r.1, data := o.data ++ r.2.zipIdx.map (fun x => (32 * q + x.2, x.1)),
      scales := o.scales ++ [(row * nblk + q, clean (BitVec.ofNat 8 e))], bad := o.bad || anyb }
/-- One row of a drain. -/
def drainRow (o : DrainOut) (fmt : Nat) (md : Rm) (scale : List FVal → Nat) (row : Nat) (xs : List (Word × Bool)) : DrainOut :=
  if mScaled fmt then
    (List.range (xs.length / 32)).foldl (fun (o : DrainOut) q =>
      let blk := (xs.drop (32 * q)).take 32
      let vals := (blk.filter fun x => !x.2).map fun x => fmF32.read false x.1.toNat
      drainBlock o fmt md (scale vals) q row (xs.length / 32) blk) o
  else
    let fm := (mFm fmt).getD fmF32
    xs.zipIdx.foldl (fun (o : DrainOut) x =>
      let z := if fmt == 4 then (o.n, x.1.1.toNat) else o.n.convTo fm md false (fmF32.read false x.1.1.toNat)
      { n := z.1, data := o.data ++ (pb x.1.2 z.2 (mSize fmt)).zipIdx.map (fun b => (mSize fmt * x.2 + b.2, b.1)),
        scales := o.scales, bad := o.bad || x.1.2 }) o

/-- The rounding of a drain (R324). -/
def drainRm (k : Nat) : Rm := match k with | 2 => .rtz | 3 => .rdn | 4 => .rup | _ => .rne
/-- The scale that a tensor record gives a block, from the block's unpoisoned values (R341). -/
def Tensor.scale (t : Tensor) (fmt : Nat) (vals : List FVal) : Nat :=
  if t.smode == 2 then t.fixe.toNat
  else if t.smode == 1 && !t.ring.isEmpty then
    scaleFor (magOf (t.ring.map fun w => fmF32.read false w.toNat)) fmt t.margin.toNat
  else scaleFor (magOf vals) fmt t.margin.toNat
/-- mdrain. -/
def State.runMdrain (s : State) (c : Cmd) (g : Group) (md : BitVec 7) (force : Option Dword) : State × Dword :=
  let fmt := bits md 3 0
  let x := wd c.run 1
  let m := bits x 38 32
  let n := bits x 46 40
  let rowb := strideLo x
  let al : Nat := if mIsBp fmt then 4 else mSize fmt
  let dst := bits (wd c.run 0) 31 0
  let scl := bits (wd c.run 2) 31 0
  if bit x 39 || bit x 47 || bits x 63 58 != 0 || 64 < m || 64 < n || (mScaled fmt && n % 32 != 0) then
    (s, statusBad 0x86 2 0)
  else if !mScaled fmt && scl != 0 then (s, statusBad 0x86 3 0)
  else if m == 0 || n == 0 then (s, statusOk 1 0 0)
  else if dst % al != 0 || rowb % (al : Int) != 0 then (s, statusBad 0x87 2 0)
  else
    let t := g.tensor (bits x 57 52)
    let word (i k : Nat) := g.accGet (bits x 51 48) i k
    let rows := (List.range m).map fun i => (List.range n).map fun k => word i k
    let o0 : DrainOut := { n := num0, data := [], scales := [], bad := false }
    let r := rows.zipIdx.foldl (fun (acc : List Mv × DrainOut) row =>
      let o := drainRow { acc.2 with data := [], scales := [] } fmt (drainRm (bits md 6 4)) (t.scale fmt) row.2 row.1
      let base : Int := dst + row.2 * rowb
      (acc.1 ++ o.data.map (fun b => { src := none, lit := b.2, dst := base + b.1 })
         ++ o.scales.map (fun b => { src := none, lit := b.2, dst := ((scl + b.1 : Nat) : Int) }), o)) ([], o0)
    let q := s.moveAll c false true false (m * n) force none r.1
    let vals := ((rows.flatMap id).filter fun w => !w.2).map fun w => fmF32.read false w.1.toNat
    if force.isSome || (0x80 ≤ bits q.2 7 0 && bits q.2 7 0 != 0x82) then q
    else
      let s := if mScaled fmt then q.1.modGroup c.group fun g => g.setTensor (t.push (magWord (magOf vals))) else q.1
      (s, if r.2.bad then statusBad 0x82 7 0 else okFlags r.2.n (m * n))

/-! Commands (R292, R324, R325). -/

/-- A matrix command runs, or ends part-way with the status of its cancellation (R345). -/
def State.runMatrix (s : State) (c : Cmd) (force : Option Dword) : State × Dword :=
  match s.group? c.group with
  | none => (s, statusBad 0x89 0 0)
  | some g =>
    let acc := ((s.grid? g.grid).map fun r => r.kd.acc).getD false
    let put (r : Group × Dword) : State × Dword := (s.modGroup c.group fun _ => r.1, r.2)
    if !acc then (s, statusBad 0x89 0 0)
    else match c.op with
      | .mcfg _ _ => put (runMcfg g false (wd c.run 0))
      | .mcfgQ _ _ => put (runMcfg g true (wd c.run 0))
      | .mshelf _ o => s.runMshelf c g (bit o.md 0) force
      | .mloop _ o => s.runMul c g true (bit o.md 0) force
      | .mstep _ o => s.runMul c g false (bit o.md 0) force
      | .mzero _ _ => put (runMzero g (wd c.run 0))
      | .mrot _ o => s.runMrot c g o.md force
      | .mdrain _ o => s.runMdrain c g o.md force
      | .mscale _ _ => put (runMscale g (wd c.run 0))
      | .mhistClear _ _ | .mhistRead _ _ | .mhistPush _ _ => s.runMhist c g
      | .mget _ o => s.runMget c g (bit o.md 0) force
      | .mput _ o => s.runMput c (bit o.md 0) force
      | _ => (s, statusOk 0 0 0)

/-- Banks that mloop and mstep name: A, its scales, B of mstep, and both operand-buffer banks (R334). -/
def Group.mulBanks (g : Group) (shelf : Bool) (run : List Dword) : List Nat :=
  let r := mulRun run
  let af := g.mat.afmt.toNat
  let bf := g.mat.bfmt.toNat
  let one (p : Int × Int) : List Nat := g.banksOf p.1 p.2
  let sp : List Nat :=
    if r.steps == 0 || r.m == 0 || r.n == 0 then []
    else one (r.aSpan (mFa af)) ++ (if mIsBp af then one r.sSpan else []) ++ (if shelf then [] else one (r.bSpan (mFp bf) (mFp bf)))
  sp ++ g.obanks
/-- Banks that a matrix command names: its scratchpad ranges, and the operand-buffer banks where it uses tiles (R217,
R218, R334; R504 counts a drain so). -/
def Group.matBanks (g : Group) (i : Instr) (run : List Dword) : List Nat :=
  let one (p : Int × Int) : List Nat := g.banksOf p.1 p.2
  let base : Int := addrOf (wd run 0)
  let region (on : Bool) : List Nat :=
    match moveRun (wd run 1) with
    | some (rowb, m, n, _) => (if on && m != 0 && n != 0 then one (spanOf base m rowb 1 0 (4 * n)) else []) ++ g.obanks
    | none => g.obanks
  match i with
  | .mloop .. => g.mulBanks true run
  | .mstep .. => g.mulBanks false run
  | .mshelf _ o =>
    let nb := bits (wd run 2) 31 0
    let f := g.mat.bfmt.toNat
    if !bit o.md 0 || nb == 0 then []
    else one (base, base + ((if mIsBp f then 4 * mDepth f else mFp f) * nb : Nat) - 1)
      ++ (if mIsBp f then one (addrOf (wd run 1), addrOf (wd run 1) + (nb : Int) - 1) else [])
  | .mget _ o | .mput _ o => region (bit o.md 0)
  | .mdrain _ o =>
    let f := bits o.md 3 0
    let m := bits (wd run 1) 38 32
    let n := bits (wd run 1) 46 40
    let row := if mIsBp f then 4 * mDepth f * (n / 32) else mSize f * n
    let dst : Int := (bits (wd run 0) 31 0 : Nat)
    let scl : Int := (bits (wd run 2) 31 0 : Nat)
    (if m == 0 || n == 0 then [] else one (spanOf dst m (strideLo (wd run 1)) 1 0 row)
        ++ (if mScaled f then one (scl, scl + (m * (n / 32) : Nat) - 1) else []))
      ++ g.obanks
  | .mhistRead .. => one (addrOf (wd run 1), addrOf (wd run 1) + 63)
  | .mzero .. | .mrot .. => g.obanks
  | _ => []
def State.matBanks (s : State) (c : Ctx) (i : Instr) (o : EFmt) (n : Nat) : List Nat :=
  ((s.group? c.w.group).map fun g => g.matBanks i ((List.range n).map fun j => c.run? o j)).getD []

/-- mcfg (R326). -/
def execMcfg (h : Head) (o : EFmt) (s : State) : Host.Outcome State Fault Refusal :=
  slot h s fun c s => s.toMatrix c (.mcfg h o) o 1 (s.matBanks c (.mcfg h o) o 1)
/-- mcfg.q (R326). -/
def execMcfgQ (h : Head) (o : EFmt) (s : State) : Host.Outcome State Fault Refusal :=
  slot h s fun c s => s.toMatrix c (.mcfgQ h o) o 1 (s.matBanks c (.mcfgQ h o) o 1)
/-- mshelf (R328). -/
def execMshelf (h : Head) (o : EFmt) (s : State) : Host.Outcome State Fault Refusal :=
  slot h s fun c s => s.toMatrix c (.mshelf h o) o 3 (s.matBanks c (.mshelf h o) o 3)
/-- mloop (R331). -/
def execMloop (h : Head) (o : EFmt) (s : State) : Host.Outcome State Fault Refusal :=
  slot h s fun c s => s.toMatrix c (.mloop h o) o 4 (s.matBanks c (.mloop h o) o 4)
/-- mstep (R331). -/
def execMstep (h : Head) (o : EFmt) (s : State) : Host.Outcome State Fault Refusal :=
  slot h s fun c s => s.toMatrix c (.mstep h o) o 4 (s.matBanks c (.mstep h o) o 4)
/-- mzero (R335). -/
def execMzero (h : Head) (o : EFmt) (s : State) : Host.Outcome State Fault Refusal :=
  slot h s fun c s => s.toMatrix c (.mzero h o) o 1 (s.matBanks c (.mzero h o) o 1)
/-- mrot (R337). -/
def execMrot (h : Head) (o : EFmt) (s : State) : Host.Outcome State Fault Refusal :=
  slot h s fun c s => s.toMatrix c (.mrot h o) o 2 (s.matBanks c (.mrot h o) o 2)
/-- mdrain (R341). -/
def execMdrain (h : Head) (o : EFmt) (s : State) : Host.Outcome State Fault Refusal :=
  slot h s fun c s => s.toMatrix c (.mdrain h o) o 3 (s.matBanks c (.mdrain h o) o 3)
/-- mscale (R339). -/
def execMscale (h : Head) (o : EFmt) (s : State) : Host.Outcome State Fault Refusal :=
  slot h s fun c s => s.toMatrix c (.mscale h o) o 1 (s.matBanks c (.mscale h o) o 1)
/-- mhist, clear (R340). -/
def execMhistClear (h : Head) (o : EFmt) (s : State) : Host.Outcome State Fault Refusal :=
  slot h s fun c s => s.toMatrix c (.mhistClear h o) o 2 (s.matBanks c (.mhistClear h o) o 2)
/-- mhist, read (R340). -/
def execMhistRead (h : Head) (o : EFmt) (s : State) : Host.Outcome State Fault Refusal :=
  slot h s fun c s => s.toMatrix c (.mhistRead h o) o 2 (s.matBanks c (.mhistRead h o) o 2)
/-- mhist, push (R340). -/
def execMhistPush (h : Head) (o : EFmt) (s : State) : Host.Outcome State Fault Refusal :=
  slot h s fun c s => s.toMatrix c (.mhistPush h o) o 2 (s.matBanks c (.mhistPush h o) o 2)
/-- mget (R336). -/
def execMget (h : Head) (o : EFmt) (s : State) : Host.Outcome State Fault Refusal :=
  slot h s fun c s => s.toMatrix c (.mget h o) o 2 (s.matBanks c (.mget h o) o 2)
/-- mput (R336). -/
def execMput (h : Head) (o : EFmt) (s : State) : Host.Outcome State Fault Refusal :=
  slot h s fun c s => s.toMatrix c (.mput h o) o 2 (s.matBanks c (.mput h o) o 2)

/-! Block scales inside a wave (R342, R343). -/

/-- OpA of a lane with FZ32 input flushing. -/
def Ctx.f32A (c : Ctx) (o : VFmt) (i : Fin 32) : FVal := fmF32.read (fzOf c.w.r.mode .f32) ((c.va o).get i).toNat
/-- mamax: the scale of the largest magnitude of the running lanes (R342). -/
def execMamax (h : Head) (o : VFmt) (s : State) : Host.Outcome State Fault Refusal :=
  slot h s fun c s =>
    let e := scaleFor (magOf (c.run.list.map (c.f32A o))) (bits o.c 3 0) (bits o.c 6 4)
    s.emitV 4 o.d c.run (Line.fill (BitVec.ofNat 32 e))
/-- mcvt: lanes quantised under the scale of the lowest running lane (R343). -/
def execMcvt (h : Head) (o : VFmt) (s : State) : Host.Outcome State Fault Refusal :=
  slot h s fun c s =>
    let fmt := bits o.c 3 0
    let md := modeOf c.w.r.mode o.md
    let e := (c.run.lowest.map fun j => bits ((c.vb o).get j) 7 0).getD 0
    if mIsBp fmt then
      let b := mDepth fmt
      let r := c.run.list.foldl (fun (acc : NumCtx × List (Nat × Nat)) i =>
        let z := acc.1.quantise (c.f32A o i) b e md
        (z.1, acc.2 ++ [(i.val, truncN b z.2)])) (c.num, [])
      let plane (p : Nat) : Nat :=
        if p < b then (r.2.map fun x => if x.2 / 2 ^ (b - 1 - p) % 2 == 1 then 2 ^ x.1 else 0).foldl (· + ·) 0 else 0
      (s.putNum 4 r.1).emitV 4 o.d c.run (Line.build fun i => BitVec.ofNat 32 (plane i.val))
    else
      let fm := (mFm fmt).getD fmE4m3
      let r := laneFold c.run c.num fun n i =>
        let z := scaledElem n fm md e (c.f32A o i)
        (z.1, BitVec.ofNat 32 z.2)
      (s.putNum 4 r.1).emitV 4 o.d c.run r.2

end Sys2Proof.Machine
end

