-- ==== Sys2Proof/Machine/Ring.lean ====
section
/-! DEFINITION. The cluster ring (19_package_fabric_and_collectives.md R461 to R476): routed packets with send and
recv, the scheduled mode with barc, xmit and isel. -/
namespace Sys2Proof.Machine
open Sys2Proof

/-! Routed mode (R461 to R465). -/

/-- A flit of the packet has left its source. -/
def Packet.under (p : Packet) : Bool := p.flits.any fun f => f.place != .source
/-- Flits of a packet that leave the delivery buffer of their destination in a cycle, two cycles after they were sent at
the earliest (R463). -/
def Packet.arrived (p : Packet) (t : Nat) : List Nat :=
  (p.flits.zipIdx.filter fun f => f.1.place == .delivery && f.1.since < t).map fun f => f.2
/-- Flit j lies at stop k, outside the escape lane, and may leave it in cycle t: a flit that was sent in a cycle may leave
two cycles later (R463). -/
def Packet.flitAt (p : Packet) (j k t : Nat) : Bool :=
  (p.flits[j]?).any fun f => decide (f.since < t) && (match f.place with
    | .source => p.src == k
    | .slot st _ _ => st == k
    | _ => false)
/-- Routed packets of a cluster. -/
def State.packetsOf (s : State) (cluster : Nat) : List Packet := s.fab.packets.filter fun p => p.cluster == cluster
/-- The escape FIFO of a stop, first in first: its flits, each with its packet. -/
def State.escapeAt (s : State) (cluster st : Nat) : List (Packet × Nat × Nat) :=
  sortBy (fun a b => decide (a.2.2 ≤ b.2.2)) ((s.packetsOf cluster).flatMap fun p =>
    (p.flits.zipIdx.filter fun f => f.1.place == .escape st).map fun f => (p, f.2, f.1.since))
/-- A stop may inject: no section is open in its cluster and no group waits there for one to open (R473). -/
def State.mayInject (s : State) (g : Nat) : Bool :=
  let r := s.section (clusterOf g)
  r.t0.isNone && r.members.isEmpty && !r.opening.any fun u => (s.group? u).any fun x => x.core == g
/-- Whether the heads of the eight escape FIFOs leave in a cycle (R463): a head that may leave does when the next stop is its
destination or the next FIFO has room after this cycle's departures. The largest such choice: with every FIFO full, every
head leaves. -/
def State.escapeMoves (s : State) (cluster t : Nat) : List Bool :=
  let q := (List.range 8).map fun k => s.escapeAt cluster k
  let may (k : Nat) : Bool := ((q.getD k []).head?).any fun e => decide (e.2.2 < t)
  let fits (l : List Bool) (k : Nat) : Bool :=
    let nx := (k + 1) % 8
    ((q.getD k []).head?).any (fun e => e.1.dst == nx)
      || decide ((q.getD nx []).length - (if l.getD nx false then 1 else 0) < 2)
  (List.range 8).foldl (fun l _ => (List.range 8).map fun k => l.getD k false && fits l k) ((List.range 8).map may)
/-- The escape FIFO of a stop has a free slot after the cycle's departures (EscapeEntry, R462). -/
def State.escapeRoom (s : State) (cluster st : Nat) (moves : List Bool) : Bool :=
  decide ((s.escapeAt cluster st).length - (if moves.getD st false then 1 else 0) < 2)
/-- Slots that a packet has reserved at a stop and not yet taken: of a channel, or of the pool. -/
def Packet.reserved (p : Packet) (st : Nat) (vc : Option Nat) : Nat :=
  ((p.links.filter fun x => !x.esc && (x.stop + 1) % 8 == st).map fun x =>
    ((List.range p.n).filter fun j => x.sent ≤ j && (match vc with
      | some v => x.vc == v && j < x.priv
      | none => x.priv ≤ j)).length).foldl (· + ·) 0
/-- FreePriv and FreePool of a stop (R462). -/
def State.ringFree (s : State) (cluster st vc : Nat) : Nat × Nat :=
  let u := s.ringUse (8 * cluster + st)
  let kept (v : Option Nat) : Nat := ((s.packetsOf cluster).map fun p => p.reserved st v).foldl (· + ·) 0
  (4 - (if vc == 0 then u.1 else u.2.1) - kept (some vc), 16 - u.2.2.1 - kept none)

/-- What a link carries in a cycle: a flit of a packet, where it goes, and the transfer of its packet on the link. -/
structure LinkGrant where
  uid : Nat
  flit : Nat
  dest : FlitPlace
  link : Option LinkUse
  deriving DecidableEq, Repr
/-- A flit crosses a link: to delivery at its destination, else into the escape FIFO or the slot kept for it. -/
def Packet.cross (p : Packet) (x : LinkUse) : LinkGrant :=
  let nx := (x.stop + 1) % 8
  { uid := p.uid, flit := x.sent,
    dest := if p.dst == nx then .delivery else if x.esc then .escape nx else .slot nx x.vc (decide (x.priv ≤ x.sent)),
    link := some { x with sent := x.sent + 1 } }
/-- A packet that waits at stop k starts its transfer: on its channel where the next stop has slots for all of it, else
into the escape lane (R462). -/
def State.startHop (s : State) (p : Packet) (k : Nat) (moves : List Bool) : Option LinkGrant :=
  let nx := (k + 1) % 8
  let v := if p.vc == 1 || k == 7 then 1 else 0
  let u := s.ringFree p.cluster nx v
  if p.n ≤ u.1 + u.2 then some (p.cross { stop := k, vc := v, priv := min p.n u.1, sent := 0, esc := false })
  else if s.escapeRoom p.cluster nx moves then some (p.cross { stop := k, vc := p.vc, priv := 0, sent := 0, esc := true })
  else none
/-- The class of a packet that waits at a stop: VC1, VC0, injection (R463). -/
def Packet.rank (p : Packet) : Nat :=
  match p.flits with
  | { place := .slot _ vc _, since := _ } :: _ => if vc == 1 then 0 else 1
  | _ => 2
/-- What the link from stop k carries in cycle t, in the order of R463. -/
def State.linkGrant (s : State) (cluster k t : Nat) (moves : List Bool) : Option LinkGrant :=
  let nx := (k + 1) % 8
  let ps := s.packetsOf cluster
  match moves.getD k false, s.escapeAt cluster k with
  | true, (p, j, _) :: _ => some { uid := p.uid, flit := j, dest := if p.dst == nx then .delivery else .escape nx, link := none }
  | _, _ =>
    match ps.findSome? fun p => (p.links.find? fun x => x.stop == k).map fun x => (p, x) with
    | some (p, x) =>
      if p.flitAt x.sent k t && (!x.esc || s.escapeRoom cluster nx moves) then some (p.cross x) else none
    | none =>
      let ready := ps.filter fun p =>
        p.flitAt 0 k t && p.dst != k && (p.rank != 2 || s.mayInject (8 * cluster + k))
      (sortBy (fun a b => decide (a.rank < b.rank) || (a.rank == b.rank && decide (a.seq ≤ b.seq))) ready).findSome?
        fun p => s.startHop p k moves
/-- A packet after one of its flits has crossed a link in cycle t; a transfer ends with its last flit. -/
def Packet.moved (p : Packet) (g : LinkGrant) (t : Nat) : Packet :=
  let p := { p with flits := p.flits.set g.flit { place := g.dest, since := t + 1 } }
  match g.link with
  | none => p
  | some x =>
    let others := p.links.filter fun y => y.stop != x.stop
    { p with links := if x.sent < p.n then others ++ [x] else others,
             vc := if x.sent == 1 then x.vc else p.vc }
def State.putPacket (s : State) (p : Packet) : State :=
  { s with fab := { s.fab with packets := (s.fab.packets.filter fun q => q.uid != p.uid) ++ [p] } }
def State.modPacket (s : State) (u : Nat) (f : Packet → Packet) : State :=
  { s with fab := { s.fab with packets := s.fab.packets.map fun q => if q.uid == u then f q else q } }
def State.dropPacket (s : State) (u : Nat) : State :=
  { s with fab := { s.fab with packets := s.fab.packets.filter fun q => q.uid != u } }
def State.packet? (s : State) (cluster u : Nat) : Option Packet :=
  s.fab.packets.find? fun p => p.cluster == cluster && p.uid == u
/-- The flits that cross the links of a cluster in this cycle, each link's with its stop. -/
def State.linkGrants (s : State) (cluster : Nat) : List (Nat × LinkGrant) :=
  let moves := s.escapeMoves cluster s.cycle
  (List.range 8).filterMap fun k => (s.linkGrant cluster k s.cycle moves).map fun g => (k, g)
/-- A grant takes effect; a packet that enters the escape lane is counted at the stop that it leaves (R465). -/
def State.takeGrant (s : State) (cluster : Nat) (e : Nat × LinkGrant) : State :=
  let s := if e.2.link.any fun x => x.esc && x.sent == 1 then
      let st := s.stop (8 * cluster + e.1)
      s.setStop { st with escin := (st.escin + 1) % 65536 }
    else s
  s.modPacket e.2.uid fun p => p.moved e.2 s.cycle
/-- The counts that the cycle shows, before its links move (R461, R465). -/
def State.noteUse (s : State) (cluster : Nat) : State :=
  (List.range 8).foldl (fun s k =>
    let st := s.stop (8 * cluster + k)
    s.setStop { st with use := s.ringUse (8 * cluster + k), useAt := s.cycle + 1 }) s
/-! Delivery (R468 to R471). -/

/-- A slot lies between phase B of a switch out and its switch in (R447, R471). -/
def State.slotAway (s : State) (slot : Nat) : Bool :=
  s.sw.out.any (fun o => o.1 == slot) || (s.sw.slot == slot && !s.sw.service && (s.sw.phase == .b || s.sw.phase == .c))
/-- The receiving group: the group of the sender's grid on a core with the lowest linear index (R468). -/
def State.receiver (s : State) (grid core : Nat) (away : Bool) : Option Group :=
  (s.groups.filter fun g => g.grid == grid && g.core == core && (away || !g.saved)).foldl
    (fun (b : Option Group) g => match b with
      | none => some g
      | some x => if g.lin < x.lin then some g else some x) none
/-- A channel of a group counts an arrival (R469). -/
def Group.countArrival (x : Group) (ch : Nat) : Group :=
  { x with arrive := Vector.ofFn fun k =>
             let n := x.arrive.get k
             if k.val == ch && n != 0xFFFFFFFF then n + 1 else n }
/-- A flit's bytes. -/
def Packet.flitBytes (p : Packet) (j : Nat) : List PByte := (p.data.drop (32 * j)).take 32
/-- A flit reaches the group that takes its packet: it is written, or held for a switched group (R468, R471). The last one
is counted on its channel. -/
def Packet.deliver (p : Packet) (held : Bool) (j : Nat) (last : Bool) (x : Group) : Group :=
  let bs := p.flitBytes j
  if held then
    { x with heldFlits := x.heldFlits ++
        [{ data := BitVec.ofNat 256 (natOf bs), bad := Mask.build fun i => ((bs[i.val]?).map fun b => b.bad).getD false,
           dst := p.addr + 32 * j, ch := p.ch, last }] }
  else
    let x := { x with scratch := x.scratch.write (p.addr + 32 * j) bs }
    if last then x.countArrival p.ch else x
/-- What becomes of a packet at its stop: the sender's status, and the group that takes its flits (R467, R468). -/
def State.dispose (s : State) (p : Packet) : State × Dword × Option (Nat × Bool) :=
  let core := 8 * p.cluster + p.dst
  let away := s.slotAway p.slot || ((s.receiver p.grid core false).isNone && (s.receiver p.grid core true).isSome)
  let refuse (st : Dword) : State × Dword × Option (Nat × Bool) :=
    let x := s.stop core
    (s.setStop { x with norcv := (x.norcv + 1) % 65536 }, st, none)
  match s.receiver p.grid core away with
  | none => refuse (statusBad 0x8A 0 0)
  | some g =>
    if 131072 * g.sbanks.length < p.addr + 32 * p.n then refuse (statusBad 0x81 2 0)
    else (s, if p.data.any (fun b => b.bad) then statusBad 0x82 1 0 else statusOk 0 0 p.n, some (g.uid, away))
/-- Flits of a packet reach its taker, none where it was refused; `all` tells that the packet's last one is among them. -/
def State.takeFlits (s : State) (p : Packet) (js : List Nat) (all : Bool) : State :=
  match p.taker with
  | none => s
  | some (u, held) =>
    s.modGroup u fun (x : Group) =>
      js.foldl (fun (x : Group) j => p.deliver held j (all && some j == js.getLast?) x) x
/-- The command of a number. -/
def State.cmdOf (s : State) (core u : Nat) : Option Cmd :=
  let c := s.core core
  (c.copyQ ++ c.matQ ++ c.syncQ).find? fun k => k.uid == u
/-- A delivery write takes its bank's port in the cycle in which it leaves the delivery buffer (R468). -/
def State.claimDelivery (s : State) (cluster : Nat) (e : LinkGrant) : State :=
  match if e.dest == .delivery then s.packet? cluster e.uid else none with
  | none => s
  | some p =>
    match (match p.result with | some _ => p.taker | none => (s.dispose p).2.2) with
    | some (u, false) =>
      s.claim (8 * p.cluster + p.dst) ((s.bankAt u (p.addr + 32 * e.flit)).map fun b => (b, s.cycle + 2))
    | _ => s
/-- PACKET_HOP: each link of a cluster's ring carries at most one flit, once in a compute cycle (R462, R463). -/
def execPacketHop (s : State) : Host.Outcome State Fault Refusal :=
  let c := s.arg.a
  let r := s.section c
  .next (if s.cycle < r.hopAt || (s.packetsOf c).isEmpty then s
    else
      let gs := s.linkGrants c
      gs.foldl (fun s e => (s.takeGrant c e).claimDelivery c e.2) ((s.noteUse c).setSection { r with hopAt := s.cycle + 1 }))
/-- PACKET_ARRIVE: with its first flit a packet's outcome is decided; each flit is then written or held, and with the last
one the packet is counted and the sender's token completes (R468). -/
def execPacketArrive (s : State) : Host.Outcome State Fault Refusal :=
  .next (match s.packet? s.arg.a s.arg.b with
    | none => s
    | some p =>
      let js := p.arrived s.cycle
      if js.isEmpty then s
      else
        let r := match p.result with
          | some st => (s, st, p.taker)
          | none => s.dispose p
        let q : Packet := { p with result := some r.2.1, taker := r.2.2,
                                   flits := js.foldl (fun (l : List Flit) j => l.set j { place := .done, since := s.cycle }) p.flits }
        let all := q.flits.all fun f => f.place == .done
        let s := r.1.takeFlits q js all
        if !all then s.modPacket p.uid fun _ => q
        else
          let s := s.dropPacket p.uid
          match s.cmdOf (8 * p.cluster + p.src) p.cmd with
          | none => s
          | some c => s.finish c r.2.1)

/-! send and recv (R466, R467, R469). -/

/-- Banks of a scratchpad range. -/
def State.rangeBanks (s : State) (c : Ctx) (lo n : Nat) : List Nat :=
  if n == 0 then [] else ((s.group? c.w.group).map fun g => g.banksOf lo ((lo + n : Nat) - 1)).getD []
/-- Flits of a send. -/
def sendFlits (run : List Dword) : Nat := bits (wd run 1) 36 35 + 1
/-- send: at most four packets of a stop are on their way; none while a section is opening or open (R467, R473). -/
def State.startSend (s : State) (c : Cmd) (ch : Nat) : State × Option Dword :=
  let x := wd c.run 0
  let y := wd c.run 1
  let n := sendFlits c.run
  let d := bits y 34 32
  let addr := bits y 31 0
  if bits y 63 37 != 0 then (s, some (statusBad 0x86 2 0))
  else if bits x 4 0 != 0 then (s, some (statusBad 0x87 1 0))
  else if addr % 32 != 0 then (s, some (statusBad 0x87 2 0))
  else if s.groupSpan c.group < x.toNat + 32 * n then (s, some (statusBad 0x81 1 0))
  else
    let out := ((s.packetsOf (clusterOf c.core)).filter fun p => p.src == stopOf c.core).length
    if c.started || 4 ≤ out || (d != stopOf c.core && !s.mayInject c.core) then (s, none)
    else
      let data := ((s.group? c.group).map fun g => g.scratch.read x.toNat (32 * n)).getD []
      let k := s.fresh
      let p : Packet :=
        { uid := k.1, cluster := clusterOf c.core, src := stopOf c.core, dst := d,
          flits := List.replicate n { place := .source, since := s.cycle }, links := [], vc := 0, n, data, addr, ch,
          grid := ((s.group? c.group).map fun g => g.grid).getD 0, slot := s.cmdSlot c, cmd := c.uid, group := c.group,
          seq := s.seq, result := none }
      let s := (({ k.2 with seq := k.2.seq + 1 } : State).claimCmd c).fenceCore c.core false true 3 (BitVec.allOnes 16)
      if d == stopOf c.core then
        let r := s.dispose p
        (r.1.takeFlits { p with taker := r.2.2 } (List.range n) true, some r.2.1)
      else
        let start (e : Cmd) : Cmd := if e.uid == c.uid then { e with started := true } else e
        ((s.modCore c.core fun (e : Core) => { e with copyQ := e.copyQ.map start }).putPacket p, none)
/-- recv: served in issue order once its channel has counted enough (R469). What follows the first read of its token comes
after what the senders did before their sends, at cluster scope (R470). -/
def State.runRecv (s : State) (c : Cmd) (ch : Nat) : State × Option Dword :=
  let x := wd c.run 0
  let m := bits x 31 0
  if bits x 63 32 != 0 then (s, some (statusBad 0x86 1 0))
  else if m == 0 then (s, some (statusOk 1 0 0))
  else
    let same (e : Cmd) : Bool := match e.op with
      | .recv _ o => bits o.md 2 0 == ch && bits (wd e.run 0) 31 0 != 0 && bits (wd e.run 0) 63 32 == 0
      | _ => false
    let earlier := ((s.core c.core).copyQ.takeWhile fun e => e.uid != c.uid).any fun e =>
      e.group == c.group && e.ready && !e.depFailed && same e
    let n := ((s.group? c.group).map fun g => (g.arrive.toList.getD ch 0).toNat).getD 0
    if earlier || n < m then (s, none)
    else ((s.fenceCore c.core true false 3 (BitVec.allOnes 16)).modGroup c.group fun (g : Group) =>
            { g with arrive := Vector.ofFn fun k => if k.val == ch then g.arrive.get k - BitVec.ofNat 32 m else g.arrive.get k },
          some (statusOk 0 0 m))
/-- send (R466). -/
def execSend (h : Head) (o : EFmt) (s : State) : Host.Outcome State Fault Refusal :=
  slot h s fun c s =>
    s.toCopy c (.send h o) o 2 (s.rangeBanks c (c.run? o 0).toNat (32 * sendFlits [c.run? o 0, c.run? o 1]))
/-- recv (R466). -/
def execRecv (h : Head) (o : EFmt) (s : State) : Host.Outcome State Fault Refusal :=
  slot h s fun c s => s.toCopy c (.recv h o) o 1 []

/-! Scheduled mode (R472 to R476). -/

/-- barc: arrival, as at bar but at cluster scope (R195, R472). -/
def State.arriveBarc (s : State) (c : Ctx) (close : Bool) : State :=
  (s.fenceCore c.core false true 3 (BitVec.allOnes 16)).pushWait
    { m := c.run, kind := .barc, pd := 0, vform := if close then 1 else 0, votes := 0, cycles := 0 }
/-- barc (R472). -/
def execBarc (h : Head) (_ : YgFmt) (s : State) : Host.Outcome State Fault Refusal :=
  slot h s fun c s => s.arriveBarc c false
/-- barc.close (R472). -/
def execBarcClose (h : Head) (_ : YgFmt) (s : State) : Host.Outcome State Fault Refusal :=
  slot h s fun c s => s.arriveBarc c true

/-- The section cycle of now. -/
def State.secCycle (s : State) (r : RingSection) : Option Int :=
  r.t0.map fun t => ((s.now : Int) - t) / 40
/-- Groups of a section go on from their barc (R472, R473). -/
def State.releaseBarc (s : State) (gs : List Nat) (close : Bool) : State :=
  let go (w : Wave) : Wave :=
    let m := Mask.build fun i => (w.threads.get i).close == close && (w.waitersOf .barc).has i
    if gs.any (fun g => g == w.group) && !w.surveyor && m != 0 then
      let w := w.wake m
      { w with c := { w.c with wdog := 0 } }
    else w
  let s := { s with waves := s.waves.map go }
  gs.foldl (fun s g => match s.group? g with
    | some x => s.fenceCore x.core true false 3 (BitVec.allOnes 16)
    | none => s) s
/-- SECTION_OPEN (R473): with one group at each stop and the ring drained, T0 is set; at T0 the section opens. -/
def execSectionOpen (s : State) : Host.Outcome State Fault Refusal :=
  let c := s.arg.a
  let r := s.section c
  let at' (k : Nat) : Option Nat := r.opening.find? fun g => (s.group? g).any fun x => x.core == 8 * c + k
  let firsts := (List.range 8).filterMap at'
  let drained := (s.packetsOf c).all fun p => !p.under
  .next (match r.t0 with
    | none =>
      if firsts.length == 8 && drained && r.members.isEmpty then
        s.setSection { r with t0 := some ((s.now / 40 + 16) * 40), members := firsts,
                              opening := r.opening.filter fun g => !firsts.any fun u => u == g }
      else s
    | some t =>
      let waiting := r.members.filter fun g => (s.group? g).any fun x => !x.inSection
      if t ≤ s.now && !waiting.isEmpty then
        let s := waiting.foldl (fun s g => s.modGroup g fun (x : Group) => { x with inSection := true }) s
        s.releaseBarc waiting false
      else s)
/-- An xmit or isel of a group of the section has not completed: one that has started, or one that still waits for a
token (R473). -/
def State.secPending (s : State) (r : RingSection) : Bool :=
  !r.cmds.isEmpty || r.members.any fun u => (s.group? u).any fun x => (s.core x.core).copyQ.any fun c =>
    c.group == u && (match c.op with | .xmit .. | .isel .. => true | _ => false)
/-- SECTION_CLOSE (R473). -/
def execSectionClose (s : State) : Host.Outcome State Fault Refusal :=
  let r := s.section s.arg.a
  .next (if r.t0.isSome && r.members.all (fun g => r.closing.any fun u => u == g) && !s.secPending r
      && r.members.all (fun g => (s.group? g).any fun x => x.inSection) then
      let gs := r.members
      let s := r.flits.foldl (fun s f =>
        let x := s.stop (8 * r.cluster + f.stop)
        s.setStop { x with sdrop := min (x.sdrop + 1) 65535 }) s
      let s := s.setSection { r with members := [], t0 := none, closing := [], cmds := [], flits := [] }
      let s := gs.foldl (fun s g => s.modGroup g fun (x : Group) => { x with inSection := false }) s
      s.releaseBarc gs true
    else s)

/-- A section cycle lies in a command. -/
def SecCmd.covers (c : SecCmd) (e : Int) : Bool := decide ((c.c : Int) ≤ e) && decide (e < c.c + c.k)
def SecCmd.acts (c : SecCmd) (e : Int) : Bool := c.covers e && !c.lost.any fun j => decide ((j : Int) = e - c.c)
/-- Offsets that a command loses to those before it, or an xmit to a forward (R476). -/
def lostOf (cs : List SecCmd) (c : SecCmd) : List Nat :=
  (List.range c.k).filter fun j =>
    let e : Int := c.c + j
    cs.any fun d => d.gcore == c.gcore && d.acts e
      && (if c.isel then d.isel else if d.isel then decide (2 ≤ d.sel) else true)
/-- A forward takes the link from the xmits that had claimed it (R476). -/
def yieldTo (d : SecCmd) (c : SecCmd) : SecCmd :=
  if d.isel && 2 ≤ d.sel && !c.isel && c.gcore == d.gcore then
    { c with lost := (c.lost ++ (List.range c.k).filter fun j => d.acts (c.c + j : Nat)).eraseDups }
  else c
/-- A scheduled command takes the ports of its banks in its section cycles: an xmit for its reads, an isel for its delivery
writes (R218, R475). A flit need not come in a cycle that a delivering isel covers; the port is taken all the same
(DEDUCED, log entry 17). -/
def State.claimSec (s : State) (r : RingSection) (d : SecCmd) : State :=
  if d.isel && d.sel % 2 == 0 then s
  else
    s.claim d.gcore ((List.range d.k).flatMap fun j =>
      if d.acts (d.c + j : Nat) then
        (s.bankAt d.group (d.addr + 32 * j)).map fun b => (b, r.t0.getD 0 / 40 + d.c + j)
      else [])
/-- Start a scheduled command: the status with which it ends at once, or none (R474, R476). -/
def State.startSec (s : State) (c : Cmd) (isel : Bool) : State × Option Dword :=
  let x := wd c.run 0
  let k := bits x 47 32
  let sel := bits x 49 48
  let a := (wd c.run 1).toNat
  let r := s.section (clusterOf c.core)
  let uses := !isel || sel == 1 || sel == 3
  let bad := if isel then bits x 63 50 != 0 else bits x 63 48 != 0
  if bad then (s, some (statusBad 0x86 1 0))
  else if k == 0 then (s, some (statusOk 1 0 0))
  else if uses && a % 32 != 0 then (s, some (statusBad 0x87 (if isel then 2 else 1) 0))
  else if uses && s.groupSpan c.group < a + 32 * k then (s, some (statusBad 0x81 (if isel then 2 else 1) 0))
  else
    match s.secCycle r with
    | none => (s, some (statusBad 0x8B 3 0))
    | some e =>
      if !r.members.any (fun g => g == c.group) then (s, some (statusBad 0x8B 3 0))
      else if (bits x 31 0 : Int) - (if isel then 2 else 4) < e then (s, some (statusBad 0x8B 1 0))
      else
        let d : SecCmd := { cmd := c.uid, gcore := c.core, isel, c := bits x 31 0, k, sel, addr := a, lost := [], group := c.group }
        let d := { d with lost := lostOf r.cmds d }
        ((s.setSection { r with cmds := r.cmds.map (yieldTo d) ++ [d] }).claimSec r d, none)
/-- A scheduled command ends once its last cycle has passed (R475). -/
def State.endSec (s : State) (c : Cmd) : State × Option Dword :=
  let r := s.section (clusterOf c.core)
  match r.cmds.find? fun d => d.cmd == c.uid with
  | none => (s, some (statusBad 0x8B 3 0))
  | some d =>
    match s.secCycle r with
    | none => (s, some (statusBad 0x8B 3 0))
    | some e =>
      if (d.c + d.k : Int) ≤ e then
        (s.setSection { r with cmds := r.cmds.filter fun x => x.cmd != c.uid },
         some (if d.lost.isEmpty then statusOk 0 0 d.k else statusBad 0x8B 2 0))
      else (s, none)
/-- One stop of a section in one section cycle: the flit at its multiplexer, then its own xmits (R475). -/
def State.secStop (s : State) (cluster st : Nat) (e : Nat) : State :=
  let g := 8 * cluster + st
  let r := s.section cluster
  let here := r.flits.find? fun f => f.stop == st && f.cycle == e
  let s := s.setSection { r with flits := r.flits.filter fun f => !(f.stop == st && f.cycle == e) }
  let send (s : State) (bs : List PByte) : State :=
    let r := s.section cluster
    s.setSection { r with flits := r.flits ++ [{ stop := (st + 1) % 8, cycle := e + 2, data := bs }] }
  let s := match here with
    | none => s
    | some f =>
      match r.cmds.find? fun c => c.gcore == g && c.isel && c.acts e with
      | none =>
        let x := s.stop g
        s.setStop { x with sdrop := min (x.sdrop + 1) 65535 }
      | some c =>
        let s := if c.sel % 2 == 1 then
            s.modGroup c.group fun (x : Group) => { x with scratch := x.scratch.write (c.addr + 32 * (e - c.c)) f.data }
          else s
        if 2 ≤ c.sel then send s f.data else s
  match r.cmds.find? fun c => c.gcore == g && !c.isel && c.acts e with
  | none => s
  | some c => send s (((s.group? c.group).map fun x => x.scratch.read (c.addr + 32 * (e - c.c)) 32).getD [])
/-- The compute cycle t passes in the open sections. -/
def State.secTick (s : State) (t : Nat) : State :=
  s.fab.sections.foldl (fun s r =>
    match r.t0 with
    | none => s
    | some t0 =>
      if r.cmds.isEmpty && r.flits.isEmpty then s
      else if t0 ≤ 40 * t then
        (List.range 8).foldl (fun s st => s.secStop r.cluster st (t - t0 / 40)) s
      else s) s

/-- Hand on a scheduled command, which starts at once when it waits for no token. -/
def State.toSec (s : State) (c : Ctx) (i : Instr) (o : EFmt) (isel : Bool) (banks : List Nat) : State :=
  let r := s.newCmd c i o 2 banks
  let s := r.1.modCore c.core fun (x : Core) => { x with copyQ := x.copyQ ++ [r.2] }
  if !r.2.ready || r.2.depFailed then s
  else
    let q := s.startSec r.2 isel
    let mark (e : Cmd) : Cmd :=
      if e.uid == r.2.uid then { e with started := true, aux := e.aux ++ (q.2.toList.map fun x => x.toNat) } else e
    q.1.modCore c.core fun (x : Core) => { x with copyQ := x.copyQ.map mark }
/-- xmit (R474). -/
def execXmit (h : Head) (o : EFmt) (s : State) : Host.Outcome State Fault Refusal :=
  slot h s fun c s =>
    s.toSec c (.xmit h o) o false (s.rangeBanks c (c.run? o 1).toNat (32 * bits (c.run? o 0) 47 32))
/-- isel (R474). -/
def execIsel (h : Head) (o : EFmt) (s : State) : Host.Outcome State Fault Refusal :=
  slot h s fun c s =>
    let del := bits (c.run? o 0) 49 48 % 2 == 1
    s.toSec c (.isel h o) o true (if del then s.rangeBanks c (c.run? o 1).toNat (32 * bits (c.run? o 0) 47 32) else [])
/-- What an xmit or isel comes to now. -/
def State.runSec (s : State) (c : Cmd) (isel : Bool) : State × Option Dword :=
  if !c.started then
    let q := s.startSec c isel
    let mark (e : Cmd) : Cmd := if e.uid == c.uid then { e with started := true } else e
    match q.2 with
    | some st => (q.1, some st)
    | none => (q.1.modCore c.core fun (x : Core) => { x with copyQ := x.copyQ.map mark }, none)
  else match c.aux[2]? with
    | some st => (s, some (BitVec.ofNat 64 st))
    | none => s.endSec c

end Sys2Proof.Machine
end

