-- ==== Sys2Proof/Machine/Coll.lean ====
section
/-! DEFINITION. Collectives, command queues and peers (19_package_fabric_and_collectives.md R477 to R484). -/
namespace Sys2Proof.Machine
open Sys2Proof

/-! Collectives (R477 to R479). -/

/-- Element size of a TY field. -/
def collSize (ty : Nat) : Nat := if ty == 3 then 2 else 4
/-- The live count of a scope for an issuing wave (R478). -/
def State.liveCount (s : State) (c : Ctx) (sc : Nat) : Nat :=
  match (s.gridOf c.w), (s.effWave c.w).2 with
  | some gr, some e =>
    let cs := ((s.groupsUnder e.slot gr.region).map fun g => clusterOf g.core).eraseDups
    let cs := if sc == 0 then cs.filter fun k => k / 12 == dieOf c.core else cs
    let ports := (s.hub.peers.filter fun p => p.en && p.link && p.coll).length
    cs.length + (if sc == 2 then 96 * ports else 0)
  | _, _ => 0
/-- coll: the live count is taken at issue (R478). -/
def execColl (h : Head) (o : EFmt) (s : State) : Host.Outcome State Fault Refusal :=
  slot h s fun c s =>
    let l := s.liveCount c (bits o.md 6 5)
    let r := s.newCmd c (.coll h o) o 3 []
    let cmd : Cmd := { r.2 with aux := r.2.aux ++ [l, s.seq] }
    let s := { r.1 with seq := r.1.seq + 1 }
    s.modCore c.core fun (x : Core) => { x with copyQ := x.copyQ ++ [cmd] }

/-- Fields of a coll command: elements, participants, tag. -/
def collN (run : List Dword) : Nat := bits (wd run 2) 31 0
def collP (run : List Dword) : Nat := bits (wd run 2) 39 32
def collTag (run : List Dword) : Nat := bits (wd run 2) 55 40
/-- A participant joins the instance of its slot, tag and scope instance that still gathers, or starts one (R478). -/
def State.joinColl (s : State) (slot tag sc die need : Nat) (part : CollPart) : State :=
  let fits (i : CollInst) : Bool :=
    i.slot == slot && i.tag == tag && i.sc == sc && i.die == die && decide (i.parts.length < i.need)
  match s.fab.colls.find? fits with
  | some i =>
    let i : CollInst := { i with parts := i.parts ++ [part] }
    let s := { s with fab := { s.fab with colls := upd (fun j => j.uid == i.uid) i s.fab.colls } }
    if i.parts.length == i.need then s.post .collInstanceComplete i.uid else s
  | none =>
    let k := s.fresh
    let i : CollInst := { uid := k.1, slot, tag, sc, die, need, parts := [part] }
    { k.2 with fab := { k.2.fab with colls := k.2.fab.colls ++ [i] } }
/-- A coll command arrives: a status, or it joins its instance (R478). -/
def State.runColl (s : State) (c : Cmd) (o : EFmt) : State × Option Dword :=
  let size := collSize (bits o.md 4 3)
  let n := collN c.run
  let p := collP c.run
  let sc := bits o.md 6 5
  let a := addrOf (wd c.run 0)
  let b := addrOf (wd c.run 1)
  if c.started then (s, none)
  else if bits (wd c.run 2) 63 56 != 0 then (s, some (statusBad 0x86 3 0))
  else if (wd c.run 0).toNat % size != 0 then (s, some (statusBad 0x87 1 0))
  else if (wd c.run 1).toNat % size != 0 then (s, some (statusBad 0x87 2 0))
  else if p == 0 then (s, some (statusOk 1 0 0))
  else if c.aux.getD 2 0 < p then (s, some (statusOk 2 0 0))
  else if n == 0 then (s, some (statusOk 1 0 0))
  else if p == 1 then
    let ms : List Mv := (List.range (n * size)).map fun (k : Nat) => { src := some (a + k), lit := clean 0, dst := b + k }
    let r := s.moveAll c false false false n none none ms
    (r.1, some r.2)
  else
    let slot := s.cmdSlot c
    let die := if sc == 0 then dieOf c.core else 0
    let start (e : Cmd) : Cmd := if e.uid == c.uid then { e with started := true } else e
    let s := s.modCore c.core fun (e : Core) => { e with copyQ := e.copyQ.map start }
    (s.joinColl slot (collTag c.run) sc die p { core := c.core, cmd := c.uid, seq := c.aux.getD 3 0 }, none)

/-- Bytes of an element of a participant, each as it stands now or as it stood before the instance wrote (R479), or the
code of a fault. -/
def State.collRead (s : State) (old : State) (k : Nat) (c : Cmd) (a : Int) (n : Nat) : State × (Nat × Int ⊕ List PByte) :=
  (List.range n).foldl (fun (acc : State × (Nat × Int ⊕ List PByte)) (i : Nat) =>
    match acc.2 with
    | .inl e => (acc.1, .inl e)
    | .inr bs =>
      let r := acc.1.place c false false (a + i)
      match r.2 with
      | .inl code => (r.1, .inl (code, a + i))
      | .inr e =>
        let now := r.1.getByte c e
        let was := old.getByte c e
        let key := match e with | .mem pa _ => pa | .scratch x => x
        (now.1, .inr (bs ++ [if Config.overlapNew (k + key) then now.2 else was.2]))) (s, .inr [])
/-- Write an element of a participant; bytes that fault are left. -/
def State.collWrite (s : State) (c : Cmd) (a : Int) (bs : List PByte) : State × Option (Nat × Int) :=
  bs.zipIdx.foldl (fun (acc : State × Option (Nat × Int)) b =>
    let r := acc.1.place c false true (a + b.2)
    match r.2 with
    | .inl code => (r.1, some (acc.2.getD (code, a + b.2)))
    | .inr e => (r.1.putByte c false e b.1, acc.2)) (s, none)

/-- The combination of one element over all sources (R479). -/
def collCombine (n : NumCtx) (op ty : Nat) (xs : List Nat) : NumCtx × Nat :=
  let iTy : Ty := if ty == 0 then .i32 else .n32
  let fm := if ty == 3 then fmBf16 else fmF32
  let fold (f : Nat → Nat → Nat) : Nat := match xs with | [] => 0 | x :: t => t.foldl f x
  match op with
  | 0 =>
    if ty ≤ 1 then (n, fold (fun a b => (a + b) % 2 ^ 32))
    else n.sumTo fm .rne false false (xs.map fun x => some (fm.read false x))
  | 1 => (n, fold fun a b => if ty ≤ 1 then (if iv iTy a ≤ iv iTy b then a else b) else fltPick fm false false a b)
  | 2 => (n, fold fun a b => if ty ≤ 1 then (if iv iTy b ≤ iv iTy a then a else b) else fltPick fm false true a b)
  | 3 => (n, fold fun a b => a &&& b)
  | 4 => (n, fold fun a b => a ||| b)
  | _ => (n, fold fun a b => a ^^^ b)

/-- Participants of an instance in the order of their ranks: device, die, cluster and core, then issue (R479). -/
def CollInst.ranked (i : CollInst) (dev : Nat) : List CollPart :=
  let key (p : CollPart) : List Nat := match p.far with
    | none => [dev, p.core, p.seq]
    | some f => [f.dev, f.place, p.seq]
  sortBy (fun a b => decide (key a ≤ key b)) i.parts
/-- A participant's source: a command here, or the bytes that another device sent. -/
abbrev CollSrc := Cmd ⊕ FarPart
/-- N, OP with TY, and P of a participant. -/
def collKey : CollSrc → Option (Nat × Nat × Nat)
  | .inr f => some (f.n, f.op, f.need)
  | .inl c => match c.op with
    | .coll _ o => some (collN c.run, bits o.md 4 0, collP c.run)
    | _ => none
/-- The first place at which a participant's accesses fault, or else that of its first poisoned source byte (R293). -/
def State.collCheck (s : State) (c : Cmd) (n size rep : Nat) : State × Option Dword × Option Dword :=
  let one (acc : State × Option Dword × Option Dword) (write : Bool) (detail : Nat) (base : Int) (len : Nat) :=
    (List.range len).foldl (fun (acc : State × Option Dword × Option Dword) (b : Nat) =>
      if acc.2.1.isSome then acc
      else
        let r := acc.1.place c false write (base + b)
        match r.2 with
        | .inl code => (r.1, some (failStatus false code detail (base + b)), acc.2.2)
        | .inr e =>
          if write || acc.2.2.isSome then (r.1, none, acc.2.2)
          else
            let x := r.1.getByte c e
            (x.1, none, if x.2.bad then some (statusBad 0x82 detail (base + b)) else none)) acc
  one (one (s, none, none) false 1 (addrOf (wd c.run 0)) (n * size)) true 2 (addrOf (wd c.run 1)) (n * size * rep)
/-- Whether any participant's accesses fault, and the first error by rank (R479). -/
def State.collScan (s : State) (cs : List CollSrc) (n size rep : Nat) : State × Bool × Option Dword :=
  cs.foldl (fun (acc : State × Bool × Option Dword) c =>
    match c with
    | .inr _ => acc
    | .inl c =>
      let r := acc.1.collCheck c n size rep
      (r.1, acc.2.1 || r.2.1.isSome, acc.2.2.or (r.2.1.or r.2.2))) (s, false, none)
/-- Element j of every source, in rank order. -/
def State.collElems (s : State) (old : State) (k : Nat) (cs : List CollSrc) (j size : Nat) : State × List (List PByte) :=
  cs.foldl (fun (g : State × List (List PByte)) c =>
    match c with
    | .inr f => (g.1, g.2 ++ [(List.range size).map fun b => clean (f.data.getD (j * size + b) 0)])
    | .inl c =>
      let x := g.1.collRead old k c (addrOf (wd c.run 0) + (j * size : Nat)) size
      (x.1, g.2 ++ [match x.2 with | .inl _ => List.replicate size (clean 0) | .inr bs => bs])) (s, [])
/-- An element of the result goes to every destination here; where an access faults, each unit is written or not (R256). -/
def State.collPut (s : State) (k : Nat) (fault : Bool) (cs : List CollSrc) (e size : Nat) (bs : List PByte) : State :=
  cs.foldl (fun s c =>
    match c with
    | .inr _ => s
    | .inl c =>
      let at0 := addrOf (wd c.run 1) + (size * e : Nat)
      if !fault || Config.unitWritten k (at0.toNat / 8) then (s.collWrite c at0 bs).1 else s) s
/-- The accesses of the participants here happen before what follows the first read of any participant's token, at the
instance's scope (R479): each core and die performs them for the scope and lets go of what is older. -/
def State.collOrder (s : State) (cs : List CollSrc) (sc : Nat) : State :=
  cs.foldl (fun s c => match c with
    | .inr _ => s
    | .inl c => s.fenceCore c.core true true (4 + sc) (BitVec.allOnes 16)) s
/-- COLL_INSTANCE_COMPLETE (R478, R479). -/
def execCollInstanceComplete (s : State) : Host.Outcome State Fault Refusal :=
  .next (match s.fab.colls.find? fun i => i.uid == s.arg.a with
    | none => s
    | some i =>
      if i.parts.length < i.need then s
      else
        let s := { s with fab := { s.fab with colls := s.fab.colls.filter fun j => j.uid != i.uid } }
        let cs : List CollSrc := (i.ranked s.hub.devId.toNat).filterMap fun p =>
          match p.far with
          | some f => some (.inr f)
          | none => (s.cmdOf p.core p.cmd).map .inl
        let all (s : State) (st : Dword) : State :=
          cs.foldl (fun s c => match c with | .inl c => s.finish c st | .inr _ => s) s
        match cs with
        | [] => s
        | c0 :: _ =>
          if cs.any fun c => collKey c != collKey c0 then all s (statusBad 0x8C 0 0)
          else match collKey c0 with
            | none => s
            | some (n, op, p) =>
              let ty := op / 8
              let size := collSize ty
              let gather := op % 8 == 6
              let scan := s.collScan cs n size (if gather then p else 1)
              let f := scan.1.free
              let old := f.2
              let r := (List.range n).foldl (fun (acc : State × NumCtx) j =>
                let got := acc.1.collElems old f.1 cs j size
                if gather then
                  (got.2.zipIdx.foldl (fun s x => s.collPut f.1 scan.2.1 cs (x.2 * n + j) size x.1) got.1, acc.2)
                else
                  let bad := got.2.any anyBad
                  let z := collCombine acc.2 (op % 8) ty (got.2.map natOf)
                  let bs := (bytesOfNat size z.2).map fun b => ({ v := b, bad } : PByte)
                  (got.1.collPut f.1 scan.2.1 cs j size bs, z.1)) (f.2, numNone)
              all (r.1.collOrder cs i.sc) (scan.2.2.getD (statusOk 0 r.2.flags.toNat n)))

/-! Command queues (R480 to R483). -/

/-- The queue is enabled with a legal size (R480). -/
def CmdQueue.up (q : CmdQueue) : Bool := bit q.ctl 0 && 4 ≤ bits q.ctl 5 1 && bits q.ctl 5 1 ≤ 16
/-- CQ_CTL: a write of one of the three registers (R480). -/
def execCqCtl (s : State) : Host.Outcome State Fault Refusal :=
  .next (s.cqWrite s.arg.a s.arg.b s.arg.x)

/-- The physical address of packet NEXT. -/
def CmdQueue.packetAt (q : CmdQueue) : Nat := q.base.toNat + 64 * (q.next % 2 ^ bits q.ctl 5 1)
/-- The eight words of packet NEXT when it is valid; a packet outside device memory or poisoned is a fault (R482). -/
def State.cqPacket (s : State) (q : CmdQueue) : Option (Nat ⊕ List Dword) :=
  if !q.up then none
  else if !s.inMem q.packetAt 64 then some (.inl 0x81)
  else
    let bs := s.llcBytes q.packetAt 64
    let ws := wordsOf 8 bs
    if (bs.take 8).any (fun b => b.bad) then some (.inl 0x82)
    else if (wd ws 0).toNat == q.next + 1 then (if anyBad bs then some (.inl 0x82) else some (.inr ws)) else none
/-- A reserved field of a packet is set. -/
def cqReserved (ws : List Dword) : Bool :=
  bits (wd ws 1) 63 20 != 0 || (ws.drop 4).any fun w => w != 0
/-- The queue arms its monitor on a packet that is not yet valid (R482). -/
def State.cqArm (s : State) (q : CmdQueue) : State := s.setQueue { q with state := .armed (q.packetAt / 128) }
/-- Packet NEXT has been taken. -/
def State.cqTaken (s : State) (q : Nat) : State :=
  let x := s.queue q
  s.setQueue { x with next := (x.next + 1) % 2 ^ 32, state := .reading, timer := none }
/-- A faulting packet: its record and its entry, and the packet is taken (R429, R483); the next one is read in a later
tick. -/
def State.cqFault (s : State) (q : CmdQueue) (code : Nat) (addr : Nat) : State :=
  let s := s.frontFault 0 0 (trapOfCode code) 4 (BitVec.ofNat 64 addr)
  let s := (s.cqEntry q.id q.next (statusBad code 4 0)).cqTaken q.id
  s.setQueue { s.queue q.id with readAt := s.now + 1 }
/-- The packet of a queue for a step that carries out operation `op`; a queue whose packet is not valid arms its
monitor. -/
def State.cqStep (s : State) (op : Nat) (f : CmdQueue → List Dword → State) : State :=
  let q := s.queue s.arg.a
  if !q.up then s
  else match s.cqPacket q with
    | none => s.cqArm q
    | some (.inl code) => s.cqFault q code q.packetAt
    | some (.inr ws) => if bits (wd ws 1) 7 0 == op && !cqReserved ws then f q ws else s
/-- CQ_NOP (R483). -/
def execCqNop (s : State) : Host.Outcome State Fault Refusal :=
  .next (s.cqStep 0 fun q _ => (s.cqEntry q.id q.next (statusOk 0 0 0)).cqTaken q.id)
/-- CQ_LAUNCH (R303, R483). -/
def execCqLaunch (s : State) : Host.Outcome State Fault Refusal :=
  .next (s.cqStep 1 fun q ws =>
    let r := s.launchQueue q.id (bits (wd ws 1) 19 8) (wd ws 2)
    if r.2 then r.1.cqTaken q.id else r.1)
/-- CQ_SIGNAL (R483). -/
def execCqSignal (s : State) : Host.Outcome State Fault Refusal :=
  .next (s.cqStep 2 fun q ws =>
    let a := (wd ws 2).toNat
    if !q.live.isEmpty then s
    else if a % 8 != 0 then ((s.frontFault 0 0 0x04 4 (wd ws 2)).cqEntry q.id q.next (statusBad 0x87 4 0)).cqTaken q.id
    else if !s.inMem a 8 then
      ((s.frontFault 0 0 0x05 4 (wd ws 2)).cqEntry q.id q.next (statusBad 0x81 4 a)).cqTaken q.id
    else
      let s := s.purgePutWord a (wd ws 3)
      (s.cqEntry q.id q.next (statusOk 0 0 0)).cqTaken q.id)
/-- CQ_WAIT (R483). -/
def execCqWait (s : State) : Host.Outcome State Fault Refusal :=
  .next (s.cqStep 3 fun q ws =>
    let a := (wd ws 2).toNat
    if a % 8 != 0 then ((s.frontFault 0 0 0x04 4 (wd ws 2)).cqEntry q.id q.next (statusBad 0x87 4 0)).cqTaken q.id
    else if !s.inMem a 8 then
      ((s.frontFault 0 0 0x05 4 (wd ws 2)).cqEntry q.id q.next (statusBad 0x81 4 a)).cqTaken q.id
    else
      let s := s.touchView (a / 128)
      let bs := s.llcBytes a 8
      if anyBad bs then
        ((s.frontFault 0 0 0x08 4 (wd ws 2)).cqEntry q.id q.next (statusBad 0x82 4 a)).cqTaken q.id
      else if (wd ws 3).toNat ≤ natOf bs then (s.cqEntry q.id q.next (statusOk 0 0 0)).cqTaken q.id
      else s.setQueue { q with state := .waiting (a / 128) })
/-- CQ_SWITCH (R445, R483). -/
def execCqSwitch (s : State) : Host.Outcome State Fault Refusal :=
  .next (s.cqStep 4 fun q ws =>
    if 16 ≤ s.sw.queue.length then s
    else
      let s := { s with sw := { s.sw with queue := s.sw.queue ++ [(keepBits (wd ws 2) 51 6, some q.id)] } }
      (s.cqEntry q.id q.next (statusOk 0 0 0)).cqTaken q.id)
/-- CQ_INVALID (R483). -/
def execCqInvalid (s : State) : Host.Outcome State Fault Refusal :=
  let q := s.queue s.arg.a
  .next (if !q.up then s
    else match s.cqPacket q with
      | none => s.cqArm q
      | some (.inl code) => s.cqFault q code q.packetAt
      | some (.inr ws) =>
        if 4 < bits (wd ws 1) 7 0 || cqReserved ws then (s.cqEntry q.id q.next (statusBad 0x86 0 0)).cqTaken q.id else s)
/-- KICK: packet NEXT is read again; still invalid, it starts the stale timer (R482). -/
def execKick (s : State) : Host.Outcome State Fault Refusal :=
  let q := s.queue s.arg.a
  .next (if !q.up then s
    else match q.state, s.cqPacket q with
      | .waiting _, _ => s
      | _, none =>
        let t := match q.timer with | some t => some t | none => some (s.now + 72000000)
        s.setQueue { q with timer := t, state := .armed (q.packetAt / 128) }
      | _, some _ => s.setQueue { q with state := .reading })
/-- KICK_TIMER_EXPIRE (R482). -/
def execKickTimerExpire (s : State) : Host.Outcome State Fault Refusal :=
  let q := s.queue s.arg.a
  .next (match q.timer with
    | none => s
    | some t =>
      if s.now < t then s
      else if (s.cqPacket q).isNone then s.setQueue { q with stale := min (q.stale + 1) 65535, timer := none }
      else s.setQueue { q with timer := none })

/-! Peers (R481, R484). -/

/-- An inbound address is accepted: the port enabled, its page in the window, in device memory (R484). -/
def State.inboundOk (s : State) (p : PeerPort) (o n : Nat) : Bool :=
  p.en && p.link && decide (p.win.toNat / 4096 ≤ o / 4096) && decide ((o + n - 1) / 4096 ≤ p.lim.toNat / 4096)
    && s.inMem o n && !s.life.min
/-- PEER_ACCESS: an accepted access performs at the LLC as a sys agent's; a refused one has no effect here (R484). A
participant of a sys collective joins its instance where the port takes part in collectives (R478, R481). -/
def execPeerAccess (port : Nat) (a : PeerOp) (s : State) : Host.Outcome State Fault Refusal :=
  let p := s.peer port
  .next (match a with
    | .read o n => if s.inboundOk p o n then (linesOf o n).foldl (fun s l => s.touchView l) s else s
    | .write o data =>
      if data.isEmpty then s else if s.inboundOk p o data.length then s.llcWrite none o (data.map clean) else s
    | .atomic o ty aop x k =>
      let n := ty.width / 8
      if aopOk ty aop && o % n == 0 && s.inboundOk p o n then
        (s.atomLlc o n fun old => aopNew ty aop old (x.toNat % 2 ^ (8 * n)) (k.toNat % 2 ^ (8 * n))).1
      else s
    | .coll slot tag f =>
      if p.en && p.link && p.coll && !s.life.min then
        { s.joinColl slot tag 2 0 f.need { core := 0, cmd := 0, seq := s.seq, far := some f } with seq := s.seq + 1 }
      else s)
/-- PEER_LINK_TRAINED (R481). -/
def execPeerLinkTrained (s : State) : Host.Outcome State Fault Refusal :=
  .next (if s.arg.a < 16 && !s.life.min then s.setPeer { s.peer s.arg.a with link := true } else s)
/-- PEER_LINK_DOWN (R484). -/
def execPeerLinkDown (s : State) : Host.Outcome State Fault Refusal :=
  .next (if s.arg.a < 16 then s.setPeer { s.peer s.arg.a with link := false } else s)

end Sys2Proof.Machine
end

