-- ==== Sys2Proof/Machine/Texture.lean ====
section
/-! DEFINITION. Texture sampling: resources, filtering, residency with fall-back and the survey ring
(14_graphics_pipeline.md R364 to R378), and mapsync (R379). -/
namespace Sys2Proof.Machine
open Sys2Proof

/-! Resources and samplers (R364 to R366). -/

/-- A resource: its fields, and the offsets of its levels and of its packed tail. -/
structure TexRes where
  base : Dword
  w : Nat
  h : Nat
  lm : Nat
  tail : Nat
  fmt : Nat
  map : Dword
  ring : Dword
  rid : Word
  deriving DecidableEq, Repr

/-- Extents of a level, bytes of a texel and texels of a tile (R364). -/
def TexRes.wl (r : TexRes) (l : Nat) : Nat := max 1 (r.w / 2 ^ l)
def TexRes.hl (r : TexRes) (l : Nat) : Nat := max 1 (r.h / 2 ^ l)
def TexRes.bytes (r : TexRes) : Nat := if r.fmt == 1 then 8 else if r.fmt == 3 then 1 else 4
def TexRes.tw (r : TexRes) : Nat := if r.fmt == 3 then 256 else 128
def TexRes.th (r : TexRes) : Nat := if r.fmt == 3 then 256 else if r.fmt == 1 then 64 else 128
def ceilDiv (a b : Nat) : Nat := (a + b - 1) / b
/-- Tiles of a row and of a column of a level. -/
def TexRes.tx (r : TexRes) (l : Nat) : Nat := ceilDiv (r.wl l) r.tw
def TexRes.ty (r : TexRes) (l : Nat) : Nat := ceilDiv (r.hl l) r.th
/-- MOFF and TOFF of a level (R364, R365). -/
def TexRes.moff (r : TexRes) (l : Nat) : Nat := ((List.range l).map fun k => r.tx k * r.ty k).foldl (· + ·) 0
def TexRes.toff (r : TexRes) (l : Nat) : Nat :=
  ((List.range (l - r.tail)).map fun k =>
    256 * ceilDiv (r.bytes * r.wl (r.tail + k) * r.hl (r.tail + k)) 256).foldl (· + ·) 0
/-- The tile of a texel: (0, 0) in the packed tail (R375). -/
def TexRes.tileOf (r : TexRes) (l x y : Nat) : Nat × Nat := if l < r.tail then (x / r.tw, y / r.th) else (0, 0)
/-- The address of a texel (R365). -/
def TexRes.texel (r : TexRes) (l x y : Nat) : Dword :=
  r.base + BitVec.ofNat 64 (
    if l < r.tail then
      65536 * (r.moff l + (y / r.th) * r.tx l + x / r.tw) + r.bytes * ((y % r.th) * r.tw + x % r.tw)
    else 65536 * r.moff r.tail + r.toff l + r.bytes * (y * r.wl l + x))
/-- The address of a tile's residency byte (R365). -/
def TexRes.mapByte (r : TexRes) (l : Nat) (t : Nat × Nat) : Dword :=
  r.map + BitVec.ofNat 64 (r.moff l + t.2 * r.tx l + t.1)
/-- The resource that a descriptor holds, none when it is invalid (R364, R365). -/
def TexRes.parse (ws : List Dword) : Option TexRes :=
  let a := wd ws 1
  let r : TexRes :=
    { base := wd ws 0, w := bits a 15 0 + 1, h := bits a 31 16 + 1, lm := bits a 35 32, tail := bits a 39 36,
      fmt := bits a 43 40, map := wd ws 2, ring := wd ws 3, rid := (wd ws 4).setWidth 32 }
  if bits a 63 44 == 0 && bits (wd ws 4) 63 32 == 0 && (ws.drop 5).all (fun x => x == 0) && r.fmt ≤ 3 && r.tail ≤ r.lm
      && bits r.base 15 0 == 0 && r.toff (r.lm + 1) ≤ 65536
  then some r else none

/-- A sampler word (R366). -/
structure Sampler where
  au : Nat
  av : Nat
  filt : Nat
  amax : Nat
  bias : Int
  minl : Nat
  maxl : Nat
  deriving DecidableEq, Repr
def Sampler.parse (x : Dword) : Option Sampler :=
  if bits x 1 0 == 3 || bits x 3 2 == 3 || bits x 63 50 != 0 then none
  else some { au := bits x 1 0, av := bits x 3 2, filt := bits x 5 4, amax := bits x 9 6,
              bias := sInt 16 (bits x 25 10), minl := bits x 37 26, maxl := bits x 49 38 }

/-! Levels and taps (R367, R368). -/

/-- The texels of one tap, in the order x0 y0, x1 y0, x0 y1, x1 y1 or a single one, with the fractions. -/
structure Tap where
  at' : List (Nat × Nat)
  fx : Nat
  fy : Nat
  deriving DecidableEq, Repr
/-- What a lane asks for: its wanted level and fraction, its filter, and its taps at a level. -/
structure Want where
  lw : Nat
  f8 : Nat
  /-- 0 nearest, 1 weighted, 2 a single unfiltered texel. -/
  kind : Nat
  pts : List (Rat × Rat)
  smp : Sampler
  x : Nat
  y : Nat
  deriving DecidableEq, Repr

/-- A float operand: NaN and infinities read as 0 (R367). -/
def texReal (x : Word) : Rat := match fmF32.read false x.toNat with | .num _ v => v | _ => 0
/-- Binary digits of log2 of a number in [1, 2). -/
def logDigits : Nat → Rat → Nat → Nat
  | 0, _, acc => acc
  | n + 1, m, acc => let q := m * m; if 2 ≤ q then logDigits n (q / 2) (2 * acc + 1) else logDigits n q (2 * acc)
/-- Floor(128 · Log2 x) of a positive x. -/
def log128 (x : Rat) : Int := let k := floorLog2 x; 128 * k + (logDigits 7 (x * pow2 (-k)) 0 : Nat)
/-- The least n from `k` on with n² ≥ x. -/
def ceilRoot (x : Rat) : Nat := let k := isqrt x.floor.toNat; if ((k * k : Nat) : Rat) < x then k + 1 else k

/-- The clamp of λ, and the level and fraction that follow (R367). -/
def Sampler.level (p : Sampler) (lm : Nat) (lam : Option Int) : Nat × Nat :=
  let hi : Int := min (p.maxl : Int) (256 * lm)
  let x : Int := min (match lam with | some l => max l p.minl | none => p.minl) hi
  if p.filt < 2 then (((x + 128) / 256).toNat, 0) else ((x / 256).toNat, (x % 256).toNat)
/-- tex.l: one tap. -/
def wantL (r : TexRes) (p : Sampler) (u v lod : Rat) : Want :=
  let l := p.level r.lm (some ((256 * lod).floor + p.bias))
  { lw := l.1, f8 := l.2, kind := if p.filt == 0 then 0 else 1, pts := [(u, v)], smp := p, x := 0, y := 0 }
/-- tex.g: taps along the major axis. -/
def wantG (r : TexRes) (p : Sampler) (u v dudx dvdx dudy dvdy : Rat) : Want :=
  let sq (a b : Rat) : Rat := (a * r.w) * (a * r.w) + (b * r.h) * (b * r.h)
  let qx := sq dudx dvdx
  let qy := sq dudy dvdy
  let top := if qy ≤ qx then qx else qy
  let low := if qy ≤ qx then qy else qx
  let n := if p.filt != 3 then 1 else if low == 0 then p.amax + 1 else min (p.amax + 1) (ceilRoot (top / low))
  let lam := if top == 0 then none else some (log128 (top / ((n * n : Nat) : Rat)) + p.bias)
  let l := p.level r.lm lam
  let d := if qy ≤ qx then (dudx, dvdx) else (dudy, dvdy)
  let pts := (List.range n).map fun (k : Nat) =>
    let c := mkRat (2 * k + 1) (2 * n) - mkRat 1 2
    (u + c * d.1, v + c * d.2)
  { lw := l.1, f8 := l.2, kind := if p.filt == 0 then 0 else 1, pts, smp := p, x := 0, y := 0 }

/-- The coordinate that an addressing mode gives (R368). -/
def wrapCoord (mode n : Nat) (c : Int) : Nat :=
  match mode with
  | 0 => (c % n).toNat
  | 1 => (saturate c 0 (n - 1)).toNat
  | _ => let m := (c % (2 * n)).toNat; if m < n then m else 2 * n - 1 - m
/-- The taps of a lane at a level (R368, R376). -/
def Want.taps (q : Want) (r : TexRes) (l : Nat) : List Tap :=
  let w := r.wl l
  let h := r.hl l
  let wr : Rat := ((w : Nat) : Rat)
  let hr : Rat := ((h : Nat) : Rat)
  if q.kind == 2 then [{ at' := [(q.x / 2 ^ (l - q.lw), q.y / 2 ^ (l - q.lw))], fx := 0, fy := 0 }]
  else q.pts.map fun t =>
    if q.kind == 0 then
      { at' := [(wrapCoord q.smp.au w (t.1 * wr).floor, wrapCoord q.smp.av h (t.2 * hr).floor)], fx := 0, fy := 0 }
    else
      let x8 := saturate ((256 * (t.1 * wr - mkRat 1 2)).floor) (-(2 ^ 40)) (2 ^ 40)
      let y8 := saturate ((256 * (t.2 * hr - mkRat 1 2)).floor) (-(2 ^ 40)) (2 ^ 40)
      let xs := (wrapCoord q.smp.au w (x8 / 256), wrapCoord q.smp.au w (x8 / 256 + 1))
      let ys := (wrapCoord q.smp.av h (y8 / 256), wrapCoord q.smp.av h (y8 / 256 + 1))
      { at' := [(xs.1, ys.1), (xs.2, ys.1), (xs.1, ys.2), (xs.2, ys.2)], fx := (x8 % 256).toNat, fy := (y8 % 256).toNat }

/-! Reading map bytes and texels (R371, R373). -/

/-- Who samples: core, context slot, privilege, and whether surveys are made. -/
structure Sampled where
  core : Nat
  slot : Nat
  priv : Bool
  ns : Bool
  deriving DecidableEq, Repr

/-- Bytes of one line through a core's map cache or texel cache; none when translation, permission or range
fails. Pages that are not cacheable are read as a load reads them. A line that enters one of these caches leaves L1 and the
other, so that none can give a thread an older value than another gave it (R251); a hit needs the page that the tables now
give (R236). -/
def State.texRead (s : State) (k : Sampled) (texel : Bool) (va : Dword) (n : Nat) : State × Option (List PByte) :=
  let r := s.checkVa k.core k.slot k.priv .load n false va
  match r.2 with
  | .ok pa mt =>
    let s := r.1
    if s.range pa != .mem || mt != 0 then
      let b := s.loadPa k.core mt false pa n
      (b.1, some b.2)
    else
      let vl := va.toNat / 128
      let get (l : MapLine) : List PByte := (List.range n).map fun i =>
        { v := lineByte l.data (pa % 128 + i), bad := l.bad.getLsbD (pa % 128 + i) }
      let same (l : MapLine) : Bool := l.core == k.core && l.slot == k.slot && l.texel == texel && l.vline == vl && l.pline == pa / 128
      match s.tex.lines.find? fun l => same l && (texel || s.cycle < l.filled + 65536) with
      | some l => (s, some (get l))
      | none =>
        let s := s.wcFlushLine k.core (pa / 128)
        let s := (s.l1Drop k.core (pa / 128)).l2Fill (dieOf k.core) (pa / 128)
        let d := buildLine fun i => s.dieByte (dieOf k.core) (128 * (pa / 128) + i)
        let l : MapLine := { core := k.core, slot := k.slot, vline := vl, pline := pa / 128, data := d.1, bad := d.2, filled := s.cycle, texel }
        ({ s with tex := { s.tex with lines := (s.tex.lines.filter fun m => !same { m with pline := pa / 128 }) ++ [l] } }, some (get l))
  | _ => (r.1, none)

/-- The four channels of a texel with their poison (R369, R377). -/
def TexRes.channels (r : TexRes) (bs : List PByte) : List (Word × Bool) :=
  let b (k : Nat) : PByte := bs.getD k (clean 0)
  let one : Word × Bool := (0x3F800000, false)
  let zero : Word × Bool := (0, false)
  let unorm (x : PByte) : Word × Bool :=
    (BitVec.ofNat 32 (fmF32.round .rne false 0 (mkRat x.v.toNat 255)).1, x.bad)
  let half (k : Nat) : Word × Bool :=
    let x := (b (2 * k)).v.toNat + 256 * (b (2 * k + 1)).v.toNat
    (BitVec.ofNat 32 (NumCtx.convTo { flags := 0, st := { x := 0, y := 0, z := 0, w := 0 } } fmF32 .rne false
        (fmF16.read false x)).2,
     (b (2 * k)).bad || (b (2 * k + 1)).bad)
  match r.fmt with
  | 0 => [unorm (b 0), unorm (b 1), unorm (b 2), unorm (b 3)]
  | 1 => [half 0, half 1, half 2, half 3]
  | 2 => [(BitVec.ofNat 32 (natOf (bs.take 4)), anyBad (bs.take 4)), zero, zero, one]
  | _ => [unorm (b 0), zero, zero, one]

/-! Filtering (R370). -/

/-- RNE32 of a sum of words with rational weights. -/
def weighted (ts : List (Word × Rat)) : Word :=
  BitVec.ofNat 32 (NumCtx.sumTo { flags := 0, st := { x := 0, y := 0, z := 0, w := 0 } } fmF32 .rne false false
    (ts.map fun t => fmul (fmF32.read false t.1.toNat) (.num false t.2))).2
/-- One channel of a level from the taps' texels. -/
def levelChannel (kind : Nat) (ts : List (Tap × List Word)) : Word :=
  let acc := ts.foldl (fun (acc : Word) t =>
    let x (k : Nat) : Word := t.2.getD k 0
    let gx : Rat := ((256 - t.1.fx : Nat) : Rat)
    let fx : Rat := ((t.1.fx : Nat) : Rat)
    let bil :=
      if kind == 0 then x 0
      else
        let row0 := weighted [(x 0, gx), (x 1, fx)]
        let row1 := weighted [(x 2, gx), (x 3, fx)]
        weighted [(row0, mkRat (256 - t.1.fy : Nat) 65536), (row1, mkRat t.1.fy 65536)]
    weighted [(acc, 1), (bil, 1)]) 0
  weighted [(acc, mkRat 1 ts.length)]

/-! The survey ring (R374, R375). -/

/-- Survey(tile, code). -/
def State.survey (s : State) (k : Sampled) (r : TexRes) (l : Nat) (t : Nat × Nat) (code : Nat) : State :=
  let key : SurveyKey := { core := k.core, rid := r.rid, level := l, tx := t.1, ty := t.2 }
  if k.ns || r.ring == 0 || s.tex.survey.any (fun e => e == key) || bits r.ring 5 0 != 0 then s
  else
    let h := s.checkVa k.core k.slot k.priv .load 64 false r.ring
    match h.2 with
    | .ok pa _ =>
      if h.1.range pa != .mem then h.1
      else
        let s := (linesOf pa 64).foldl (fun s n => (s.purgeLine n).touchView n) h.1
        let bs := s.llcBytes pa 64
        let ws := wordsOf 8 bs
        let lg := bits (wd ws 1) 4 0
        if anyBad bs || bits (wd ws 1) 63 5 != 0 || (ws.drop 5).any (fun x => x != 0) || lg < 4 || 20 < lg then s
        else
          let wh := s.checkVa k.core k.slot k.priv .store 64 false r.ring
          let head := wd ws 2
          let tail := wd ws 3
          match wh.2 with
          | .ok _ _ =>
            if (tail - head).toNat < 2 ^ lg then
              let ea := wd ws 0 + BitVec.ofNat 64 (16 * (tail.toNat % 2 ^ lg))
              let e := wh.1.checkVa k.core k.slot k.priv .store 16 (bits ea 3 0 != 0) ea
              match e.2 with
              | .ok epa _ =>
                if e.1.range epa != .mem then e.1
                else
                  let x := r.rid.toNat + 2 ^ 32 * (l % 16) + 2 ^ 36 * code + 2 ^ 40 * (t.1 % 4096) + 2 ^ 52 * (t.2 % 4096)
                  let s := (linesOf epa 16).foldl (fun s n => s.purgeLine n) e.1
                  let s := s.llcWrite none epa (cleanBytes 8 x ++ cleanBytes 8 (tail + 1).toNat)
                  let s := s.llcPutWord (pa + 0x18) (tail + 1)
                  let mine := s.tex.survey.filter fun y => y.core == k.core
                  let keep := match mine with
                    | old :: _ => if mine.length < 64 then s.tex.survey else s.tex.survey.erase old
                    | [] => s.tex.survey
                  { s with tex := { s.tex with survey := keep ++ [key] } }
              | _ => e.1
            else wh.1.llcPutWord (pa + 0x20) (wd ws 4 + 1)
          | _ => wh.1
    | _ => h.1

/-! Residency and fall-back (R371). -/

/-- The first tile of a level's taps that is not map-resident; none when the level is resident. -/
def State.mapMiss (s : State) (k : Sampled) (r : TexRes) (q : Want) (l : Nat) : State × Option (Nat × Nat) :=
  if r.tail ≤ l then (s, none)
  else
    let tiles := (q.taps r l).flatMap fun t => t.at'.map fun p => r.tileOf l p.1 p.2
    tiles.foldl (fun (acc : State × Option (Nat × Nat)) t =>
      if acc.2.isSome then acc
      else
        let b := acc.1.texRead k false (r.mapByte l t) 1
        let ok := match b.2 with
          | some bs => !anyBad bs && bs.any fun x => bit x.v 0
          | none => false
        (b.1, if ok then none else some t)) (s, none)
/-- The least resident level above `l`; the last level when the search runs out. -/
def State.nextRes (s : State) (k : Sampled) (r : TexRes) (q : Want) : Nat → Nat → State × Nat
  | 0, _ => (s, r.lm)
  | n + 1, l =>
    if r.lm ≤ l + 1 then (s, r.lm)
    else
      let m := s.mapMiss k r q (l + 1)
      match m.2 with
      | none => (m.1, l + 1)
      | some _ => m.1.nextRes k r q n (l + 1)
/-- The channels of every texel of a level's taps, or the first tile that fails. -/
def State.fetchLevel (s : State) (k : Sampled) (r : TexRes) (q : Want) (l : Nat) :
    State × (Nat × Nat ⊕ List (Tap × List (List (Word × Bool)))) :=
  (q.taps r l).foldl (fun (acc : State × (Nat × Nat ⊕ List (Tap × List (List (Word × Bool))))) t =>
    match acc.2 with
    | .inl _ => acc
    | .inr done =>
      let one := t.at'.foldl (fun (a : State × (Nat × Nat ⊕ List (List (Word × Bool)))) p =>
        match a.2 with
        | .inl _ => a
        | .inr cs =>
          let b := a.1.texRead k true (r.texel l p.1 p.2) r.bytes
          match b.2 with
          | none => (b.1, .inl (r.tileOf l p.1 p.2))
          | some bs => (b.1, .inr (cs ++ [r.channels bs]))) (acc.1, .inr [])
      (one.1, match one.2 with | .inl e => .inl e | .inr cs => .inr (done ++ [(t, cs)]))) (s, .inr [])
/-- The texels at Lu, and at Lu + 1 when the levels blend. -/
def State.fetchBoth (s : State) (k : Sampled) (r : TexRes) (q : Want) (l : Nat) (bl : Bool) :
    State × ((Nat × Nat × Nat) ⊕ List (List (Tap × List (List (Word × Bool))))) :=
  let a := s.fetchLevel k r q l
  match a.2 with
  | .inl t => (a.1, .inl (l, t))
  | .inr x =>
    if bl then
      let b := a.1.fetchLevel k r q (l + 1)
      (b.1, match b.2 with | .inl t => .inl (l + 1, t) | .inr y => .inr [x, y])
    else (a.1, .inr [x])

/-- Result of a lane: channels, and the status word (R372). -/
structure TexOut where
  ch : List (Word × Bool)
  status : Word
  deriving DecidableEq, Repr
def texStatus (code delta : Nat) : Word := BitVec.ofNat 32 (code + 16 * min 15 delta)
/-- The result of an invalid descriptor, sampler or coordinate (R376, R377). -/
def TexOut.invalid : TexOut := { ch := List.replicate 4 (0, false), status := 7 }

/-- The result from fetched levels. -/
def Want.result (q : Want) (lu code : Nat) (ls : List (List (Tap × List (List (Word × Bool))))) : TexOut :=
  let lev (l : List (Tap × List (List (Word × Bool)))) (c : Nat) : Word × Bool :=
    let x (e : List (Word × Bool)) : Word × Bool := e.getD c (0, false)
    let bad := l.any fun t => t.2.any fun e => (x e).2
    if q.kind == 2 then ((l.head?.bind fun t => t.2.head?).map x).getD (0, false)
    else (levelChannel q.kind (l.map fun t => (t.1, t.2.map fun e => (x e).1)), bad)
  let ch := (List.range 4).map fun c =>
    match ls with
    | [a, b] =>
      let p := lev a c
      let w := lev b c
      (weighted [(p.1, mkRat (256 - q.f8 : Nat) 256), (w.1, mkRat q.f8 256)], p.2 || w.2)
    | a :: _ => lev a c
    | [] => (0, false)
  { ch, status := texStatus code (lu - q.lw) }

/-- The loop of R371 over the levels. -/
def State.texWalk (s : State) (k : Sampled) (r : TexRes) (q : Want) : Nat → Nat → Nat → Bool → State × TexOut
  | 0, lu, _, _ => (s, { ch := List.replicate 4 (0, false), status := texStatus 3 (lu - q.lw) })
  | n + 1, lu, code, bl =>
    let f := s.fetchBoth k r q lu bl
    match f.2 with
    | .inr ls => (f.1, q.result lu code ls)
    | .inl t =>
      let s := f.1.survey k r t.1 t.2 2
      if lu == r.lm then (s, { ch := List.replicate 4 (0, false), status := texStatus 3 (lu - q.lw) })
      else
        let m := s.nextRes k r q 16 lu
        m.1.texWalk k r q n m.2 2 false
/-- One lane's sample. -/
def State.sample (s : State) (k : Sampled) (r : TexRes) (q : Want) : State × TexOut :=
  let bl := q.f8 != 0
  let a := s.mapMiss k r q q.lw
  let b := match a.2 with
    | some t => (a.1, some (q.lw, t))
    | none =>
      if bl then let m := a.1.mapMiss k r q (q.lw + 1); (m.1, m.2.map fun t => (q.lw + 1, t)) else (a.1, none)
  match b.2 with
  | none => b.1.texWalk k r q 17 q.lw 0 bl
  | some (l, t) =>
    let s := b.1.survey k r l t 1
    let m := s.nextRes k r q 16 q.lw
    m.1.texWalk k r q 17 m.2 1 false

/-! tex and tld (R376, R377). -/

/-- Write the lanes' results, five registers (R376). -/
def State.emitTex (s : State) (d : BitVec 7) (m : Mask) (rs : List (Fin 32 × TexOut)) : State :=
  let out (i : Fin 32) : TexOut := ((rs.find? fun e => e.1 == i).map fun e => e.2).getD TexOut.invalid
  let s := (List.range 4).foldl (fun (s : State) c =>
    s.emit 1 (.v (d + BitVec.ofNat 7 c) m (Line.build fun i => ((out i).ch.getD c (0, false)).1)
      (Mask.build fun i => m.has i && ((out i).ch.getD c (0, false)).2))) s
  s.emit 1 (.v (d + 4) m (Line.build fun i => (out i).status) 0)
/-- The access to the descriptor of a tex or tld (R376). -/
def Ctx.descAcc (c : Ctx) (o : TFmt) : List MemAcc :=
  let a := c.w.r.sc o.res.toNat
  c.single 64 a (a.toNat % 64 != 0)
/-- The descriptor, read once as a load of 64 bytes; none when invalid or poisoned. -/
def State.texDesc (s : State) (c : Ctx) (o : TFmt) : State × Option TexRes :=
  match c.descAcc o with
  | [] => (s, none)
  | a :: _ =>
    let r := s.placeAcc c (.mem .load) (s.priv c.w) a
    match r.2 with
    | .ok pa mt =>
      let b := r.1.loadPa c.core mt false pa 64
      (b.1, if anyBad b.2 then none else TexRes.parse (wordsOf 8 b.2))
    | _ => (r.1, none)
/-- Sample every running lane in increasing order. -/
def State.sampleLanes (s : State) (c : Ctx) (o : TFmt) (r : TexRes) (f : Fin 32 → Option Want) : State :=
  let k : Sampled := { core := c.core, slot := s.slotOf c.w, priv := s.priv c.w, ns := bit o.md 1 }
  let rs := c.run.list.foldl (fun (acc : State × List (Fin 32 × TexOut)) i =>
    match f i with
    | none => (acc.1, acc.2 ++ [(i, TexOut.invalid)])
    | some q => let t := acc.1.sample k r q; (t.1, acc.2 ++ [(i, t.2)])) (s, [])
  rs.1.emitTex o.d c.run rs.2
/-- tex. -/
def execTex (h : Head) (o : TFmt) (s : State) : Host.Outcome State Fault Refusal :=
  slot h s fun c s =>
    let r := s.texDesc c o
    match r.2, Sampler.parse (c.w.r.sc o.smp.toNat) with
    | some d, some p =>
      let x (k : Nat) (i : Fin 32) : Rat := texReal ((c.w.r.vec (srcNum o.a + k)).get i)
      r.1.sampleLanes c o d fun i =>
        some (if bit o.md 0 then wantG d p (x 0 i) (x 1 i) (x 2 i) (x 3 i) (x 4 i) (x 5 i)
              else wantL d p (x 0 i) (x 1 i) (x 2 i))
    | _, _ => r.1.emitTex o.d c.run []
/-- tld: one texel, unchanged. -/
def execTld (h : Head) (o : TFmt) (s : State) : Host.Outcome State Fault Refusal :=
  slot h s fun c s =>
    let r := s.texDesc c o
    match r.2 with
    | some d =>
      let x (k : Nat) (i : Fin 32) : Word := (c.w.r.vec (srcNum o.a + k)).get i
      let p : Sampler := { au := 0, av := 0, filt := 0, amax := 0, bias := 0, minl := 0, maxl := 0 }
      r.1.sampleLanes c o d fun i =>
        let l := (x 2 i).toNat
        let xx := (x 0 i).toInt
        let yy := (x 1 i).toInt
        if d.lm < l || xx < 0 || (d.wl l : Int) ≤ xx || yy < 0 || (d.hl l : Int) ≤ yy then none
        else some { lw := l, f8 := 0, kind := 2, pts := [], smp := p, x := xx.toNat, y := yy.toNat }
    | none => r.1.emitTex o.d c.run []

/-! mapsync and the expiry of map lines (R373, R379). -/

/-- MAP_CACHE_EXPIRE: a map line whose 65,536 cycles have passed. -/
def execMapCacheExpire (s : State) : Host.Outcome State Fault Refusal :=
  let old (l : MapLine) : Bool := l.core == s.arg.a && l.vline == s.arg.b && !l.texel && l.filled + 65536 ≤ s.cycle
  .next { s with tex := { s.tex with lines := s.tex.lines.filter fun l => !old l } }
/-- The lines that the map caches and the texel caches still hold take their present values, and leave L1: what is read
through them from then on is no older than any write before (R373; DEDUCED, log entry 61). -/
def State.texRefresh (s : State) : State :=
  let s := s.tex.lines.foldl (fun s l => s.l1Only l.core l.pline) s
  let now (l : MapLine) : MapLine :=
    let d := buildLine fun i => s.dieByte (dieOf l.core) (128 * l.pline + i)
    { l with data := d.1, bad := d.2 }
  { s with tex := { s.tex with lines := s.tex.lines.map now } }
/-- mapsync runs: what its core has stored is released; lines of the slot that overlap the range go, on every core, and the
filters empty (R373, R379). -/
def State.runMapsync (s : State) (c : Cmd) : State × Option Dword :=
  let a := (wd c.run 0).toNat
  let n := (wd c.run 1).toNat
  if n == 0 then (s, some (statusOk 1 0 0))
  else
    let slot := s.cmdSlot c
    let hit (l : MapLine) : Bool := l.slot == slot && decide (a < 128 * l.vline + 128) && decide (128 * l.vline < a + n)
    let s := (s.wcFlush c.core (BitVec.allOnes 16)).writeBackDie (dieOf c.core)
    (({ s with tex := { lines := s.tex.lines.filter fun l => !hit l, survey := [] } } : State).texRefresh, some (statusOk 0 0 n))
/-- mapsync. -/
def execMapsync (h : Head) (o : EFmt) (s : State) : Host.Outcome State Fault Refusal :=
  slot h s fun c s => s.toSync c (.mapsync h o) o 2

end Sys2Proof.Machine
end

