-- ==== Sys2Proof/Machine/Graphics.lean ====
section
/-! DEFINITION. Meshlets and visibility: emit, the cull unit, binning, the resolver's raster rules, decoupled
sampling and the shading grid (14_graphics_pipeline.md R349 to R363). -/
namespace Sys2Proof.Machine
open Sys2Proof

/-! Draw and meshlet records (R349, R350). -/

/-- The fields of a draw record. -/
structure DrawRec where
  vw : Nat
  vh : Nat
  s : Nat
  revz : Bool
  cullb : Bool
  dsc : Bool
  srate : Nat
  tbk : Nat
  plev : Nat
  pyr : Dword
  vis : Dword
  rlist : Dword
  rcap : Nat
  rcount : Dword
  dscout : Dword
  shade : Dword
  deriving DecidableEq, Repr
def DrawRec.parse (ws : List Dword) : DrawRec :=
  let a := wd ws 0
  { vw := bits a 15 0 + 1, vh := bits a 31 16 + 1, s := 2 ^ bits a 33 32, revz := bit a 34, cullb := bit a 35,
    dsc := bit a 36, srate := bits a 38 37, tbk := bits a 41 39, plev := bits a 45 42, pyr := wd ws 1, vis := wd ws 2,
    rlist := wd ws 3, rcap := bits (wd ws 4) 19 0, rcount := wd ws 5, dscout := wd ws 6, shade := wd ws 7 }
/-- Tiles of a row and of a column of the viewport. -/
def DrawRec.tx (d : DrawRec) : Nat := ceilDiv d.vw 32
def DrawRec.ty (d : DrawRec) : Nat := ceilDiv d.vh 32

/-- A draw counts as open: its close has not launched its grid (R351). -/
def Draw.isOpen (d : Draw) : Bool := d.grid.isNone && !d.spent
/-- The open draw of a record on a die. -/
def State.openDraw (s : State) (die slot : Nat) (a : Dword) : Option Draw :=
  s.draws.find? fun d => d.die == die && d.slot == slot && d.addr == a && d.isOpen
def State.modDraw (s : State) (u : Nat) (f : Draw → Draw) : State :=
  { s with draws := s.draws.map fun d => if d.uid == u then f d else d }
def State.cull (s : State) (die : Nat) : CullUnit := getOr (fun c => c.die == die) { die, queue := [] } s.culls
def State.setCull (s : State) (c : CullUnit) : State := { s with culls := upd (fun d => d.die == c.die) c s.culls }

/-- A record is open on one of the dies: its draw is one draw, whichever dies its emits come from (R351, R357). -/
def State.drawOpen (s : State) (slot : Nat) (a : Dword) : Bool := s.draws.any fun d => d.slot == slot && d.addr == a && d.isOpen
/-- A draw record is closed and its grid launched, and no emit has opened it again: a close of it is ignored (R356). -/
def State.drawClosed (s : State) (slot : Nat) (a : Dword) : Bool :=
  !s.drawOpen slot a && s.culls.any fun u => u.closed.any fun x => x == (slot, a)
/-- A close of the record has been taken and its grid not launched yet. -/
def State.drawClosing (s : State) (slot : Nat) (a : Dword) : Bool :=
  s.draws.any fun d => d.slot == slot && d.addr == a && d.isOpen && d.closed
/-- The cull unit of a die takes these requests of a group, closes among them, in their order. A close that is ignored
takes no place, and opens no draw (R351, R356). -/
def State.cullRoom (s : State) (die slot : Nat) (as : List (Bool × Dword)) : Bool :=
  let opens (k : Nat) (a : Dword) : Bool := (as.take k).any fun x => !x.1 && x.2 == a
  let reqs := (as.zipIdx.filter fun e => !(e.1.1 && s.drawClosed slot e.1.2 && !opens e.2 e.1.2)).map fun e => e.1.2
  let new := (reqs.filter fun a => (s.openDraw die slot a).isNone).eraseDups
  (s.cull die).queue.length + reqs.length ≤ 64 && (s.draws.filter fun d => d.die == die && d.isOpen).length + new.length ≤ 16

/-- A draw record receives an emit: it is open from then on (R351). -/
def State.openFor (s : State) (die slot : Nat) (a region : Dword) (priv spent : Bool) : State :=
  let k := s.fresh
  { k.2 with draws := k.2.draws ++
      [{ uid := k.1, die, slot, addr := a, region, priv, words := [], tris := [], closed := false, grid := none,
         finals := [], dsc := [], spent }] }
/-- Draws that only held triangles go when none is left. -/
def State.tidyDraws (s : State) : State := { s with draws := s.draws.filter fun d => !(d.spent && d.tris.isEmpty) }
/-- The draw has no further use but for its triangles (R355). -/
def State.spendDraw (s : State) (u : Nat) : State :=
  ({ s with draws := s.draws.map fun (d : Draw) => if d.uid == u then { d with spent := true } else d }).tidyDraws
/-- The draw's grid is launched or refused: what the other dies hold of the record is open no longer, and its triangles are
still resolved (R351, R357). Threads that wait for room on those dies look again. -/
def State.spendOthers (s : State) (x : Draw) : State :=
  let same (d : Draw) : Bool := d.slot == x.slot && d.addr == x.addr && d.isOpen && d.uid != x.uid
  let dies := (s.draws.filter same).map fun d => d.die
  let s := ({ s with draws := s.draws.map fun (d : Draw) => if same d then { d with spent := true } else d }).tidyDraws
  s.wakeKind .cull fun w => dies.any fun k => k == dieOf (s.coreOf w)
/-- An emit opens a closed record again: nothing remembers the close (R356). -/
def State.forgetClose (s : State) (slot : Nat) (a : Dword) : State :=
  if s.drawOpen slot a then s
  else { s with culls := s.culls.map fun (u : CullUnit) => { u with closed := u.closed.filter fun x => x != (slot, a) } }
/-- Hand a request to the cull unit of the die, a release of the package (R258, R351). -/
def State.emitReq (s : State) (c : Ctx) (kind : Nat) (meshlet draw : Dword) : State :=
  let die := dieOf c.core
  let slot := s.slotOf c.w
  let s := (s.wcFlush c.core (BitVec.allOnes 16)).writeBackDie die
  let region := s.regionOf c.w
  let priv := s.priv c.w
  if kind == 2 && s.drawClosed slot draw then s
  else
    let new := (s.openDraw die slot draw).isNone
    let s := if new then (s.forgetClose slot draw).openFor die slot draw region priv false else s
    let u := s.cull die
    let q : CullReq := { slot, kind, meshlet, draw, region, priv, gcore := c.core, wave := c.w.uid }
    s.setCull { u with queue := u.queue ++ [q] }
/-- emit. -/
def execEmit (h : Head) (o : YgFmt) (s : State) : Host.Outcome State Fault Refusal :=
  slot h s fun c s => s.emitReq c 0 (c.w.r.sc o.a.toNat) (c.w.r.sc o.b.toNat)
/-- emit.retest. -/
def execEmitRetest (h : Head) (o : YgFmt) (s : State) : Host.Outcome State Fault Refusal :=
  slot h s fun c s => s.emitReq c 1 (c.w.r.sc o.a.toNat) (c.w.r.sc o.b.toNat)
/-- emit.close. -/
def execEmitClose (h : Head) (o : YgFmt) (s : State) : Host.Outcome State Fault Refusal :=
  slot h s fun c s => s.emitReq c 2 0 (c.w.r.sc o.b.toNat)

/-! Reads and writes of the units (R351, R355). -/

/-- Bytes read at the LLC, or the fault that the front end reports. -/
def State.unitRead (s : State) (slot : Nat) (priv : Bool) (va : Dword) (n : Nat) : State × (Nat ⊕ List PByte) :=
  let r := (List.range n).foldl (fun (acc : State × (Nat ⊕ List PByte)) (i : Nat) =>
    match acc.2 with
    | .inl c => (acc.1, .inl c)
    | .inr bs =>
      let a := acc.1.engineAddr none slot priv false ((va.toNat : Int) + i)
      match a.2 with
      | .inl c => (a.1, .inl c)
      | .inr p => let b := a.1.engineByte none p.1 p.2; (b.1, .inr (bs ++ [b.2]))) (s, .inr [])
  (r.1, match r.2 with
    | .inl c => .inl c
    | .inr bs => if anyBad bs then .inl 0x82 else .inr bs)
/-- The first n bytes of each element of an array, or the fault of an element's access with its address (R351, R429). -/
def State.unitReads (s : State) (slot : Nat) (priv : Bool) (va : Dword) (size n count : Nat) :
    State × ((Nat × Dword) ⊕ List PByte) :=
  (List.range count).foldl (fun (acc : State × ((Nat × Dword) ⊕ List PByte)) j =>
    match acc.2 with
    | .inl e => (acc.1, .inl e)
    | .inr bs =>
      let at0 := va + BitVec.ofNat 64 (size * j)
      let r := acc.1.unitRead slot priv at0 n
      (r.1, match r.2 with | .inl c => .inl (c, at0) | .inr b => .inr (bs ++ b))) (s, .inr [])
/-- Bytes written at the LLC; the fault code of the first that cannot be. -/
def State.unitWrite (s : State) (slot : Nat) (priv : Bool) (va : Dword) (bs : List PByte) : State × Option Nat :=
  let r := bs.zipIdx.foldl (fun (acc : State × (Nat ⊕ List (Nat × PByte))) (b : PByte × Nat) =>
    match acc.2 with
    | .inl c => (acc.1, .inl c)
    | .inr l =>
      let a := acc.1.engineAddr none slot priv true ((va.toNat : Int) + b.2)
      (a.1, match a.2 with | .inl c => .inl c | .inr p => .inr (l ++ [(p.1, b.1)]))) (s, .inr [])
  match r.2 with
  | .inl c => (r.1, some c)
  | .inr l => (l.foldl (fun s p => if s.range p.1 == .mem then s.llcWrite none p.1 [p.2] else s) r.1, none)
/-- A fault of a unit's access is told to the region's fault domain (R351, R429). -/
def State.unitFault (s : State) (slot : Nat) (region : Dword) (code : Nat) (va : Dword) : State :=
  s.frontFault slot region (trapOfCode code) 0 va

/-! The tests of a meshlet (R352). -/

/-- a ≤ b of extended reals; none when one is NaN. -/
def fvalLe (a b : FVal) : Option Bool :=
  match a, b with
  | .nan, _ | _, .nan => none
  | .inf true, _ => some true
  | _, .inf false => some true
  | .inf false, _ => some false
  | _, .inf true => some false
  | .num _ x, .num _ y => some (decide (x ≤ y))
def fvalLt (a b : FVal) : Bool := match fvalLe b a with | some x => !x | none => false
def f32Of (x : Nat) : FVal := fmF32.read false (x % 2 ^ 32)

/-- The cone test rejects; `free` decides for an infinite apex. -/
def coneRejects (ws : List Dword) (free : Bool) : Bool :=
  let z := wd ws 5
  let i8 (k : Nat) : Rat := mkRat (sInt 8 (bits z (k + 7) k)) 1
  let cut := sInt 8 (bits z 63 56)
  let p := [f32Of (bits (wd ws 6) 31 0), f32Of (bits (wd ws 6) 63 32), f32Of (bits (wd ws 7) 31 0)]
  if cut == -128 || p.any FVal.isNan then false
  else
    let v (k : Nat) : Rat := match p.getD k .nan with | .num _ x => x | _ => 0
    if p.any fun x => match x with | .inf _ => true | _ => false then free
    else
      let d := v 0 * i8 32 + v 1 * i8 40 + v 2 * i8 48
      let p2 := v 0 * v 0 + v 1 * v 1 + v 2 * v 2
      let a2 := i8 32 * i8 32 + i8 40 * i8 40 + i8 48 * i8 48
      let c := mkRat cut 127
      let q := c * c * p2 * a2
      p2 != 0 && (if 0 ≤ c then decide (0 ≤ d) && decide (q ≤ d * d) else decide (0 ≤ d) || decide (d * d ≤ q))
/-- Screen bounds of a meshlet, and its nearest depth. -/
def mshBound (ws : List Dword) (k : Nat) : Int := sInt 32 (bits (wd ws (3 + k / 2)) (32 * (k % 2) + 31) (32 * (k % 2)))
/-- The frustum test rejects; a NaN depth passes it. -/
def frustumRejects (d : DrawRec) (ws : List Dword) : Bool :=
  let z := f32Of (bits (wd ws 5) 31 0)
  !z.isNan && (mshBound ws 2 < 0 || mshBound ws 3 < 0 || (256 * d.vw : Nat) ≤ mshBound ws 0 || (256 * d.vh : Nat) ≤ mshBound ws 1
    || (if d.revz then fvalLt z (.num false 0) else fvalLt (.num false 1) z))
/-- Block indices of a level of the pyramid. -/
def DrawRec.blocks (d : DrawRec) (ws : List Dword) (k : Nat) : Int × Int × Int × Int :=
  let sh (x : Int) : Int := x / 256 / (8 * 2 ^ k)
  (sh (max (mshBound ws 0) 0), sh (min (mshBound ws 2) (256 * d.vw - 1)),
   sh (max (mshBound ws 1) 0), sh (min (mshBound ws 3) (256 * d.vh - 1)))
/-- Extents of a level and the offset of a level (R349). -/
def DrawRec.bx (d : DrawRec) (k : Nat) : Nat := ceilDiv d.vw (8 * 2 ^ k)
def DrawRec.by' (d : DrawRec) (k : Nat) : Nat := ceilDiv d.vh (8 * 2 ^ k)
def DrawRec.poff (d : DrawRec) (k : Nat) : Nat := ((List.range k).map fun j => d.bx j * d.by' j).foldl (· + ·) 0
/-- Integers from a to b. -/
def intRange (a b : Int) : List Int := (List.range (b + 1 - a).toNat).map fun (k : Nat) => a + k
/-- The pyramid test rejects, or the fault of a read. -/
def State.pyramidRejects (s : State) (d : DrawRec) (ws : List Dword) (slot : Nat) (priv : Bool) :
    State × ((Nat × Dword) ⊕ Bool) :=
  let fits (k : Nat) : Bool := let b := d.blocks ws k; b.2.1 - b.1 ≤ 1 && b.2.2.2 - b.2.2.1 ≤ 1
  match (List.range d.plev).find? fits with
  | none => (s, .inr false)
  | some k =>
    let b := d.blocks ws k
    let z := f32Of (bits (wd ws 5) 31 0)
    let cells := (intRange b.2.2.1 b.2.2.2).flatMap fun y => (intRange b.1 b.2.1).map fun x => (x, y)
    cells.foldl (fun (acc : State × ((Nat × Dword) ⊕ Bool)) p =>
      match acc.2 with
      | .inl e => (acc.1, .inl e)
      | .inr rej =>
        let va := d.pyr + BitVec.ofInt 64 (4 * (d.poff k + p.2 * d.bx k + p.1))
        let r := acc.1.unitRead slot priv va 4
        match r.2 with
        | .inl c => (r.1, .inl (c, va))
        | .inr bs =>
          let v := f32Of (natOf bs)
          (r.1, .inr (rej && (if d.revz then fvalLt z v else fvalLt v z)))) (s, .inr (!z.isNan))

/-! Binning (R354, R358). -/

/-- A vertex: x and y in 16.8 fixed point and the depth word. -/
structure Vtx where
  x : Int
  y : Int
  z : Word
  deriving DecidableEq, Repr
/-- The edge function. -/
def edgeFn (ax ay bx yb px py : Int) : Int := (bx - ax) * (py - ay) - (yb - ay) * (px - ax)
/-- A triangle of a passing meshlet enters every tile that its bounding box touches. -/
def DrawRec.bin (d : DrawRec) (a b c : Vtx) (prim : Word) : List BinTri :=
  let out (v : Vtx) : Bool :=
    v.x < -(2 ^ 23) || 2 ^ 23 - 1 < v.x || v.y < -(2 ^ 23) || 2 ^ 23 - 1 < v.y || (f32Of v.z.toNat).isNan
  let area := edgeFn a.x a.y b.x b.y c.x c.y
  if out a || out b || out c || area == 0 || (d.cullb && area < 0) then []
  else
    let b' := if area < 0 then c else b
    let c' := if area < 0 then b else c
    let lo (p q r : Int) : Int := max (min p (min q r) / 256) 0
    let hi (p q r : Int) (n : Nat) : Int := min (max p (max q r) / 256) (n - 1)
    let x0 := lo a.x b.x c.x
    let x1 := hi a.x b.x c.x d.vw
    let y0 := lo a.y b.y c.y
    let y1 := hi a.y b.y c.y d.vh
    if x1 < x0 || y1 < y0 then []
    else
      (intRange (y0 / 32) (y1 / 32)).flatMap fun ty => (intRange (x0 / 32) (x1 / 32)).map fun tx =>
        { tx := tx.toNat, ty := ty.toNat, ax := a.x, ay := a.y, az := a.z, bx := b'.x, byy := b'.y, bz := b'.z, cx := c'.x,
          cy := c'.y, cz := c'.z, prim }
/-- Bin a meshlet; the fault of a read drops it and names the element (DEDUCED, log entry 110). The last four bytes of a
vertex are not read (R350). -/
def State.binMeshlet (s : State) (u : Nat) (d : DrawRec) (q : CullReq) (ws : List Dword) : State :=
  let nv := bits (wd ws 2) 5 0 + 1
  let nt := bits (wd ws 2) 12 6 + 1
  let v := s.unitReads q.slot q.priv (wd ws 0) 16 12 nv
  match v.2 with
  | .inl (c, va) => v.1.unitFault q.slot q.region c va
  | .inr vb =>
    let t := v.1.unitReads q.slot q.priv (wd ws 1) 3 3 nt
    match t.2 with
    | .inl (c, va) => t.1.unitFault q.slot q.region c va
    | .inr tb =>
      let vtx (j : Nat) : Vtx :=
        let w (k : Nat) : Nat := natOf ((vb.drop (12 * j + 4 * k)).take 4)
        { x := sInt 32 (w 0), y := sInt 32 (w 1), z := BitVec.ofNat 32 (w 2) }
      let tri (i : Nat) : List BinTri :=
        let ix (k : Nat) : Nat := (tb.getD (3 * i + k) (clean 0)).v.toNat
        if nv ≤ ix 0 || nv ≤ ix 1 || nv ≤ ix 2 then []
        else d.bin (vtx (ix 0)) (vtx (ix 1)) (vtx (ix 2)) (BitVec.ofNat 32 (bits (wd ws 2) 63 32 + i))
      t.1.modDraw u fun (x : Draw) =>
        { x with tris := x.tris ++ ((List.range nt).flatMap tri).map fun b => { b with late := x.closed || x.spent } }

/-! The cull unit (R351 to R353). -/

/-- The retest count's arrival for recording and replay, as that of a device agent (R509). -/
def State.retestArrival (s : State) (q : CullReq) (d : DrawRec) : Option (Nat × Nat × Nat) :=
  match (s.engineAddr none q.slot q.priv true (d.rcount.toNat : Int)).2 with
  | .inr (pa, _) => if s.range pa == .mem then some (2304 + s.channel pa / 6, arriveWord 0x3FF 0 0, q.draw.toNat % 2 ^ 47) else none
  | .inl _ => none
/-- A meshlet enters the retest list. -/
def State.retest (s : State) (q : CullReq) (d : DrawRec) : State :=
  let a := s.engineAddr none q.slot q.priv true (d.rcount.toNat : Int)
  match a.2 with
  | .inl c => a.1.unitFault q.slot q.region c d.rcount
  | .inr (pa, _) =>
    if a.1.range pa != .mem then a.1
    else
      let e := a.1.retestArrival q d
      let r := a.1.atomLlc pa 4 fun x => (x + 1) % 2 ^ 32
      let s := match e with | some e => r.1.repArrived q.slot e | none => r.1
      if r.2.2 then s.unitFault q.slot q.region 0x82 d.rcount
      else if d.rcap ≤ r.2.1 then s
      else
        let va := d.rlist + BitVec.ofNat 64 (8 * r.2.1)
        let w := s.unitWrite q.slot q.priv va (cleanBytes 8 q.meshlet.toNat)
        match w.2 with
        | some c => w.1.unitFault q.slot q.region c va
        | none => w.1
/-- The oldest request leaves its queue; threads that wait for room look again. -/
def State.popCull (s : State) (die : Nat) : State :=
  let u := s.cull die
  (s.setCull { u with queue := u.queue.drop 1 }).wakeKind .cull fun w => dieOf (s.coreOf w) == die
/-- What the cull unit does with a meshlet; none while the retest count must wait its turn in a replay. -/
def State.cullOne (s : State) (q : CullReq) (x : Draw) : Nat ⊕ State :=
  let r := s.unitRead q.slot q.priv q.draw 64
  match r.2 with
  | .inl c => .inr (r.1.unitFault q.slot q.region c q.draw)
  | .inr db =>
    let dw := wordsOf 8 db
    let d := DrawRec.parse dw
    let s := r.1.modDraw x.uid fun (y : Draw) => { y with words := dw }
    let m := s.unitRead q.slot q.priv q.meshlet 64
    match m.2 with
    | .inl c => .inr (m.1.unitFault q.slot q.region c q.meshlet)
    | .inr mb =>
      let ws := wordsOf 8 mb
      let f := m.1.free
      if q.kind == 0 && (coneRejects ws (Config.coneReject f.1) || frustumRejects d ws) then .inr f.2
      else
        let p := f.2.pyramidRejects d ws q.slot q.priv
        match p.2 with
        | .inl (c, va) => .inr (p.1.unitFault q.slot q.region c va)
        | .inr false => .inr (p.1.binMeshlet x.uid d q ws)
        | .inr true =>
          if q.kind != 0 then .inr p.1
          else match p.1.repArrive q.slot (p.1.retestArrival q d).toList with
            | some u => .inl u
            | none => .inr (p.1.retest q d)
/-- The draw that takes a meshlet: the open one, or where its grid was launched since the emit, one that only holds its
triangles. -/
def State.drawFor (s : State) (die : Nat) (q : CullReq) : State × Option Draw :=
  match s.openDraw die q.slot q.draw with
  | some x => (s, some x)
  | none =>
    let t := s.openFor die q.slot q.draw q.region q.priv true
    (t, t.draws.getLast?)
/-- MESHLET_CULL: the oldest request of a die's cull unit; a close closes its draw and launches the grid. -/
def execMeshletCull (s : State) : Host.Outcome State Fault Refusal :=
  .next (match (s.cull s.arg.a).queue with
    | [] => s
    | q :: _ =>
      if q.kind == 2 then
        match s.openDraw s.arg.a q.slot q.draw with
        | none => s.popCull s.arg.a
        | some x =>
          if s.drawClosing q.slot q.draw then s.popCull s.arg.a
          else
            let s := (s.modDraw x.uid fun (y : Draw) => { y with closed := true }).popCull s.arg.a
            let u := s.cull s.arg.a
            (s.setCull { u with closed := u.closed ++ [(q.slot, q.draw)] }).post (.launchAccept (.shade x.uid))
      else
        let d := s.drawFor s.arg.a q
        match d.2 with
        | none => s
        | some x => match d.1.cullOne q x with
          | .inl u => s.repWait u
          | .inr t => (t.popCull s.arg.a).tidyDraws)

/-! The shading grid (R356). -/

/-- Launch the grid of a closed draw. A draw whose grid is refused is open no longer, and its meshlets are still resolved
(R355, R356). -/
def State.launchShade (s : State) (u : Nat) : State :=
  match s.draws.find? fun x => x.uid == u with
  | none => s
  | some x =>
    if !x.closed || !x.isOpen then s
    else
      let drop (s : State) : State :=
        ((s.spendOthers x).spendDraw u).wakeKind .cull fun w => dieOf (s.coreOf w) == x.die
      let r := s.unitRead x.slot x.priv x.addr 64
      match r.2 with
      | .inl c => drop (r.1.unitFault x.slot x.region c x.addr)
      | .inr db =>
        let dw := wordsOf 8 db
        let d := DrawRec.parse dw
        let l := r.1.tryLaunch (.shade u) none x.slot d.shade (.shade u) none (some (d.tx - 1, d.ty - 1))
        match l.2 with
        | .held => { s with lrateQ := l.1.lrateQ }
        | .refused why => drop (l.1.frontFault x.slot x.region 0x84 why d.shade)
        | .ok g _ =>
          ((l.1.spendOthers x).modDraw u fun (y : Draw) => { y with grid := some g, words := dw }).wakeKind .cull
            fun w => dieOf (s.coreOf w) == x.die

/-! Rasterising (R355, R358 to R361). -/

/-- Sample offsets (R360). -/
def sampleOffsets (n : Nat) : List (Int × Int) :=
  match n with
  | 1 => [(128, 128)]
  | 2 => [(64, 96), (192, 160)]
  | 4 => [(80, 48), (208, 80), (48, 176), (176, 208)]
  | _ => [(40, 104), (104, 232), (168, 56), (232, 168), (8, 200), (72, 24), (136, 136), (200, 8)]
/-- An edge takes a sample: inside, or on a top or left edge (R359). -/
def edgeTakes (ex ey fx fy px py : Int) : Bool :=
  let v := edgeFn ex ey fx fy px py
  0 < v || (v == 0 && ((ey == fy && ex < fx) || fy < ey))
def BinTri.covers (t : BinTri) (px py : Int) : Bool :=
  edgeTakes t.ax t.ay t.bx t.byy px py && edgeTakes t.bx t.byy t.cx t.cy px py && edgeTakes t.cx t.cy t.ax t.ay px py
/-- The depth word at a covered sample (R361). -/
def BinTri.depth (t : BinTri) (px py : Int) (free : Word) : Word :=
  match f32Of t.az.toNat, f32Of t.bz.toNat, f32Of t.cz.toNat with
  | .num _ za, .num _ zb, .num _ zc =>
    let area := edgeFn t.ax t.ay t.bx t.byy t.cx t.cy
    let w (x : Int) : Rat := mkRat x 1
    let z := (za * w (edgeFn t.bx t.byy t.cx t.cy px py) + zb * w (edgeFn t.cx t.cy t.ax t.ay px py)
      + zc * w (edgeFn t.ax t.ay t.bx t.byy px py)) / w area
    let z := if z < 0 then 0 else if 1 < z then 1 else z
    BitVec.ofNat 32 (fmF32.round .rne false 0 z).1
  | _, _, _ => free
/-- The least key of a tile's triangles at sample m of the tile (R355, R361). -/
def DrawRec.sampleKey (d : DrawRec) (tx ty m free : Nat) (ts : List BinTri) : Option Nat :=
  let pix := m / d.s
  let px := 32 * tx + pix % 32
  let py := 32 * ty + pix / 32
  if d.vw ≤ px || d.vh ≤ py then none
  else
    let o := (sampleOffsets d.s).getD (m % d.s) (0, 0)
    let x : Int := 256 * px + o.1
    let y : Int := 256 * py + o.2
    (ts.filterMap fun t =>
      if t.covers x y then
        let z := t.depth x y (Config.depthWord free ((py * d.vw + px) * d.s + m % d.s))
        some ((if d.revz then ~~~z else z).toNat * 2 ^ 32 + t.prim.toNat)
      else none).min?
/-- The covered samples of a tile with their keys, in order. -/
def DrawRec.tileKeys (d : DrawRec) (tx ty free : Nat) (ts : List BinTri) : List (Nat × Nat) :=
  (List.range (1024 * d.s)).filterMap fun m => (d.sampleKey tx ty m free ts).map fun k => (m, k)

/-! Decoupled sampling (R363). -/

/-- A key of the sampling cache, and a way of one of its sets. -/
structure DscKey where
  id : Nat
  sx : Nat
  sy : Nat
  tb : Nat
  deriving DecidableEq, Repr
structure DscWay where
  set : Nat
  key : DscKey
  idx : Nat
  deriving DecidableEq, Repr
/-- The sampling cache of a tile: ways, most recently used first, and the keys indexed so far. -/
structure DscCache where
  ways : List DscWay
  keys : List DscKey
  deriving DecidableEq, Repr
/-- The set of a key. -/
def DscKey.set (k : DscKey) : Nat :=
  (k.id * 0x85EBCA6B + k.sx * 0xC2B2AE35 + k.sy * 0x27D4EB2F + k.tb * 0x165667B1) % 2 ^ 32 / 2 ^ 22
/-- One covered sample looks up its shading index. -/
def DscCache.look (c : DscCache) (k : DscKey) : DscCache × Nat :=
  match c.ways.find? fun w => w.key == k with
  | some w => ({ c with ways := w :: c.ways.erase w }, w.idx)
  | none =>
    let n := c.keys.length
    if 4094 ≤ n then (c, 0xFFFE)
    else
      let mine := c.ways.filter fun w => w.set == k.set
      let kept := if mine.length < 4 then c.ways else (mine.getLast?).elim c.ways fun w => c.ways.erase w
      ({ ways := { set := k.set, key := k, idx := n } :: kept, keys := c.keys ++ [k] }, n)
/-- The output of a tile: offset and bytes. -/
def DrawRec.dscTile (d : DrawRec) (tx ty : Nat) (ks : List (Nat × Nat)) : List (Nat × List PByte) :=
  let r := ks.foldl (fun (acc : DscCache × List (Nat × Nat)) k =>
    let pix := k.1 / d.s
    let px := 32 * tx + pix % 32
    let py := 32 * ty + pix / 32
    let q := acc.1.look
      { id := k.2 % 2 ^ 32, sx := px / 2 ^ d.srate, sy := py / 2 ^ d.srate, tb := k.1 % d.s % (d.tbk + 1) }
    (q.1, acc.2 ++ [(k.1, q.2)])) ({ ways := [], keys := [] }, [])
  let idx (m : Nat) : Nat := ((r.2.find? fun e => e.1 == m).map fun e => e.2).getD 0xFFFF
  [(0, cleanBytes 4 r.1.keys.length)]
    ++ r.1.keys.zipIdx.map (fun e => (16 + 8 * e.2,
        cleanBytes 4 e.1.id ++ cleanBytes 4 (e.1.sx % 4096 + 2 ^ 12 * (e.1.sy % 4096) + 2 ^ 24 * e.1.tb)))
    ++ (List.range (1024 * d.s)).map fun m => (32768 + 2 * m, cleanBytes 2 (idx m))

/-! Resolving tiles (R355, R356). -/

/-- The minimum at a sample's key in the visibility buffer; the fault of the access. -/
def State.visMin (s : State) (x : Draw) (va : Dword) (key : Nat) : State × Option Nat :=
  let a := s.engineAddr none x.slot x.priv true (va.toNat : Int)
  match a.2 with
  | .inl c => (a.1, some c)
  | .inr (pa, _) =>
    if a.1.range pa != .mem then (a.1, none)
    else let r := a.1.atomLlc pa 8 fun o => min o key; (r.1, none)
/-- The draw of a step of the resolver or of finality, with its record. -/
def State.resolveArg (s : State) : Option (Draw × DrawRec × Nat × Nat) :=
  (s.draws.find? fun x => x.uid == s.arg.b).bind fun x =>
    let d := DrawRec.parse x.words
    if x.words.length == 8 && x.die == s.arg.a && s.arg.c < d.tx * d.ty then some (x, d, s.arg.c % d.tx, s.arg.c / d.tx) else none
/-- Triangles of a tile that its finality waits for are left: the requests that reached the unit before the close have all
been taken once the draw is closed (R356). -/
def Draw.waitsFor (x : Draw) (tx ty : Nat) : Bool := !x.closed || x.tris.any fun t => t.tx == tx && t.ty == ty && !t.late
/-- The least keys of a tile so far, with more of them, by sample. -/
def Draw.mergeKeys (x : Draw) (tile : Nat) (ks : List (Nat × Nat)) : List (Nat × Nat × Nat) :=
  let mine := ((x.keys.filter fun e => e.1 == tile).map fun e => e.2) ++ ks
  (x.keys.filter fun e => e.1 != tile) ++ (mine.map fun e => e.1).eraseDups.filterMap fun m =>
    ((mine.filter fun e => e.1 == m).map fun e => e.2).min?.map fun k => (tile, m, k)
/-- The keys of a tile in the order of its samples. -/
def Draw.tileKeys (x : Draw) (tile : Nat) : List (Nat × Nat) :=
  (List.range 8192).filterMap fun m => (x.keys.find? fun e => e.1 == tile && e.2.1 == m).map fun e => e.2
/-- The shading indices of a tile are written, once (R363). -/
def State.putDsc (s : State) (x : Draw) (d : DrawRec) (tx ty tile : Nat) : State :=
  let base := d.dscout + BitVec.ofNat 64 (65536 * tile)
  let w := (d.dscTile tx ty (x.tileKeys tile)).foldl (fun (acc : State × Bool) e =>
    let r := acc.1.unitWrite x.slot x.priv (base + BitVec.ofNat 64 e.1) e.2
    match r.2 with
    | some c => (if acc.2 then r.1 else r.1.unitFault x.slot x.region c (base + BitVec.ofNat 64 e.1), true)
    | none => (r.1, acc.2)) (s, false)
  w.1.modDraw x.uid fun (y : Draw) => { y with dsc := y.dsc ++ [(tx, ty)], keys := y.keys.filter fun e => e.1 != tile }
/-- TILE_RESOLVE: the triangles binned to a tile; with decoupled sampling, then its shading indices, once every triangle
that its finality waits for has been resolved. -/
def execTileResolve (s : State) : Host.Outcome State Fault Refusal :=
  .next (match s.resolveArg with
    | none => s
    | some (x, d, tx, ty) =>
      let here (t : BinTri) : Bool := t.tx == tx && t.ty == ty
      let tile := s.arg.c
      if !x.tris.any here then
        if d.dsc && !x.spent && !x.waitsFor tx ty && !x.dsc.any (fun t => t == (tx, ty)) then s.putDsc x d tx ty tile else s
      else
        let f := s.free
        let ks := d.tileKeys tx ty f.1 (x.tris.filter here)
        let s := f.2.modDraw x.uid fun (y : Draw) =>
          { y with tris := y.tris.filter fun t => !here t,
                   keys := if d.dsc && !y.spent && !y.dsc.any (fun t => t == (tx, ty)) then y.mergeKeys tile ks else y.keys }
        let sample (m : Nat) : Nat :=
          let pix := m / d.s
          ((32 * ty + pix / 32) * d.vw + (32 * tx + pix % 32)) * d.s + m % d.s
        let s := ks.foldl (fun (acc : State × Bool) k =>
          let va := d.vis + BitVec.ofNat 64 (8 * sample k.1)
          let r := acc.1.visMin x va k.2
          match r.2 with
          | some c => (if acc.2 then r.1 else r.1.unitFault x.slot x.region c va, true)
          | none => (r.1, acc.2)) (s, false)
        s.1.tidyDraws)
/-- TILE_FINAL: every triangle of the tile has been resolved, so its group may be placed. -/
def execTileFinal (s : State) : Host.Outcome State Fault Refusal :=
  .next (match s.resolveArg with
    | none => s
    | some (x, d, tx, ty) =>
      if x.spent || x.waitsFor tx ty || x.finals.any (fun t => t == (tx, ty))
          || (d.dsc && !x.dsc.any fun t => t == (tx, ty)) then s
      else s.modDraw x.uid fun (y : Draw) => { y with finals := y.finals ++ [(tx, ty)] })

end Sys2Proof.Machine
end

