-- ==== Sys2Proof/Machine/DisplayOps.lean ====
section
/-! DEFINITION. The operations of profile D (15_display_processor.md R402 to R411): the vector additions, frame
fetch, the display matrix engine's commands and the E slot's additions, with the instants of a head. -/
namespace Sys2Proof.Machine
open Sys2Proof

/-! Reals of the display processor (R408). -/

/-- The real that an f32 word holds; a NaN and an infinity hold none. -/
def realOf (x : Word) : Option Rat := match fmF32.read false x.toNat with | .num _ v => some v | _ => none
def halfOf (x : Nat) : Option Rat := match fmF16.read false x with | .num _ v => some v | _ => none
/-- RNE32 of a real, the canonical NaN where there is none; an exact zero is +0. -/
def rne32 (x : Option Rat) : Word :=
  match x with
  | none => 0x7FC00000
  | some v => if v == 0 then 0 else BitVec.ofNat 32 (fmF32.round .rne false 0 v).1
/-- RNE32 of a real, read again. -/
def rneReal (x : Option Rat) : Option Rat := realOf (rne32 x)
/-- Arithmetic on reals that may be absent; a division by zero gives none. -/
def oAdd (a b : Option Rat) : Option Rat := match a, b with | some x, some y => some (x + y) | _, _ => none
def oSub (a b : Option Rat) : Option Rat := match a, b with | some x, some y => some (x - y) | _, _ => none
def oMul (a b : Option Rat) : Option Rat := match a, b with | some x, some y => some (x * y) | _, _ => none
def oDiv (a b : Option Rat) : Option Rat :=
  match a, b with | some x, some y => if y == 0 then none else some (x / y) | _, _ => none
def oNeg (a : Option Rat) : Option Rat := match a with | some x => some (-x) | none => none

/-- RotQ of a quaternion and a vector. -/
def rotQ (x y z w : Option Rat) (v : List (Option Rat)) : List Word :=
  let one : Option Rat := some 1
  let two (a : Option Rat) : Option Rat := oMul (some 2) a
  let m : List (List (Option Rat)) :=
    [[oSub one (two (oAdd (oMul y y) (oMul z z))), two (oSub (oMul x y) (oMul z w)), two (oAdd (oMul x z) (oMul y w))],
     [two (oAdd (oMul x y) (oMul z w)), oSub one (two (oAdd (oMul x x) (oMul z z))), two (oSub (oMul y z) (oMul x w))],
     [two (oSub (oMul x z) (oMul y w)), two (oAdd (oMul y z) (oMul x w)), oSub one (two (oAdd (oMul x x) (oMul y y)))]]
  m.map fun row =>
    rne32 ((row.zip v).foldl (fun (a : Option Rat) e => oAdd a (oMul (rneReal e.1) e.2)) (some 0))
/-- QMul: the Hamilton product of x, y, z, w quadruples (R413). -/
def qMul (a b : List (Option Rat)) : List (Option Rat) :=
  let p (l : List (Option Rat)) (k : Nat) : Option Rat := (l[k]?).getD none
  let m (i j : Nat) : Option Rat := oMul (p a i) (p b j)
  [rneReal (oSub (oAdd (oAdd (m 3 0) (m 0 3)) (m 1 2)) (m 2 1)),
   rneReal (oAdd (oAdd (oSub (m 3 1) (m 0 2)) (m 1 3)) (m 2 0)),
   rneReal (oAdd (oSub (oAdd (m 3 2) (m 0 1)) (m 1 0)) (m 2 3)),
   rneReal (oSub (oSub (oSub (m 3 3) (m 0 0)) (m 1 1)) (m 2 2))]

/-- The largest values of the four fields of a pixel word, and their places (R386 PFMT). -/
def pixTops (pfmt : Nat) : List (Nat × Nat) :=
  if pfmt == 0 then [(255, 0), (255, 8), (255, 16), (255, 24)] else [(1023, 0), (1023, 10), (1023, 20), (3, 30)]
/-- A pixel word from four channels (R408 vpxpk). -/
def packPixel (pfmt : Nat) (ch : List Word) : Word :=
  BitVec.ofNat 32 (((ch.zip (pixTops pfmt)).map fun e =>
    let v : Int := match realOf e.1 with
      | none => 0
      | some x => saturate (roundInt (x * ((e.2.1 : Nat) : Rat)) .rne 0) 0 e.2.1
    v.toNat * 2 ^ e.2.2).foldl (· + ·) 0)
/-- The channels of a pixel word (R408 vpxup). -/
def unpackPixel (pfmt : Nat) (x : Word) : List Word :=
  (pixTops pfmt).map fun e => rne32 (some (mkRat (x.toNat / 2 ^ e.2 % (e.1 + 1) : Nat) e.1))

/-! Vector additions (R408). -/

/-- A V operation of profile D that writes a run of registers lane by lane. -/
def vecRun (h : Head) (o : VFmt) (lat n : Nat) (s : State) (f : Ctx → Fin 32 → List Word) :
    Host.Outcome State Fault Refusal :=
  slot h s fun c s =>
    s.emits lat ((List.range n).map fun k =>
      .v (o.d + BitVec.ofNat 7 k) c.run (Line.build fun i => (f c i).getD k 0) 0)
/-- The reals of a run of registers in a lane. -/
def Ctx.reals (n : Nat) (f : Nat → Line) (i : Fin 32) : List (Option Rat) :=
  (List.range n).map fun k => realOf ((f k).get i)
/-- An element of a list of reals. -/
def rAt (l : List (Option Rat)) (k : Nat) : Option Rat := (l[k]?).getD none

/-- vqrot (R408). -/
def execVqrot (h : Head) (o : VFmt) (s : State) : Host.Outcome State Fault Refusal :=
  vecRun h o 8 3 s fun c i =>
    let q := Ctx.reals 4 (fun k => c.vc o k) i
    rotQ (rAt q 0) (rAt q 1) (rAt q 2) (rAt q 3) (Ctx.reals 3 (fun k => c.va o k) i)
/-- vproj (R408). -/
def execVproj (h : Head) (o : VFmt) (s : State) : Host.Outcome State Fault Refusal :=
  vecRun h o 12 2 s fun c i =>
    let p := Ctx.reals 3 (fun k => c.va o k) i
    let k := Ctx.reals 4 (fun k => c.vc o k) i
    let pz : Option Rat := match rAt p 2 with | some z => if z ≤ 0 then none else some z | none => none
    [rne32 (oAdd (oDiv (oMul (rAt k 0) (rAt p 0)) pz) (rAt k 2)), rne32 (oAdd (oDiv (oMul (rAt k 1) (rAt p 1)) pz) (rAt k 3))]
/-- vwarp (R408). -/
def execVwarp (h : Head) (o : VFmt) (s : State) : Host.Outcome State Fault Refusal :=
  vecRun h o 12 2 s fun c i =>
    let p := Ctx.reals 2 (fun k => c.va o k) i
    let m := Ctx.reals 9 (fun k => c.vc o k) i
    let row (r : Nat) : Option Rat :=
      oAdd (oAdd (oMul (rAt m (3 * r)) (rAt p 0)) (oMul (rAt m (3 * r + 1)) (rAt p 1))) (rAt m (3 * r + 2))
    [rne32 (oDiv (row 0) (row 2)), rne32 (oDiv (row 1) (row 2))]
/-- vextr (R408). -/
def execVextr (h : Head) (o : VFmt) (s : State) : Host.Outcome State Fault Refusal :=
  vecRun h o 4 2 s fun c i =>
    let p := Ctx.reals 2 (fun k => c.va o k) i
    let mv := ((c.vb o).get i).toNat
    let t := realOf ((c.vc o).get i)
    [rne32 (oAdd (rAt p 0) (oMul t (halfOf (mv % 65536)))), rne32 (oAdd (rAt p 1) (oMul t (halfOf (mv / 65536))))]
/-- vblend (R408). -/
def execVblend (h : Head) (o : VFmt) (s : State) : Host.Outcome State Fault Refusal :=
  vecRun h o 4 4 s fun c i =>
    let a := Ctx.reals 4 (fun k => c.va o k) i
    let b := Ctx.reals 4 (fun k => c.vb o k) i
    let w := realOf ((c.vc o).get i)
    (List.range 4).map fun k => rne32 (oAdd (rAt a k) (oMul w (oSub (rAt b k) (rAt a k))))
/-- The magnitude of a rational. -/
def absRat (x : Rat) : Rat := if x < 0 then -x else x
/-- vdisoc (R408). -/
def execVdisoc (h : Head) (o : VFmt) (s : State) : Host.Outcome State Fault Refusal :=
  slot h s fun c s =>
    let f (i : Fin 32) : Bool :=
      match realOf ((c.va o).get i), realOf ((c.vb o).get i), realOf ((c.vc o).get i) with
      | some a, some b, some t =>
        let m := if absRat a < absRat b then absRat b else absRat a
        decide (t * m < absRat (a - b))
      | _, _, _ => true
    s.emitP 4 (o.d.setWidth 5) c.run (Mask.build f)
/-- vpxpk (R408). -/
def execVpxpk (h : Head) (o : VFmt) (s : State) : Host.Outcome State Fault Refusal :=
  vecRun h o 4 1 s fun c i => [packPixel o.c.toNat ((List.range 4).map fun k => (c.va o k).get i)]
/-- vpxup (R408). -/
def execVpxup (h : Head) (o : VFmt) (s : State) : Host.Outcome State Fault Refusal :=
  vecRun h o 4 4 s fun c i => unpackPixel o.c.toNat ((c.va o).get i)

/-! Frame fetch (R406, R407). -/

/-- A failed check of an access: its order in R266, its trap and its display address. -/
structure DFail where
  order : Nat
  code : Byte
  va : Dword
  deriving DecidableEq, Repr

/-- Bytes that a line core reads at a display address. -/
def State.fdRead (s : State) (k : Nat) (va : Dword) (n : Nat) : State × (DFail ⊕ List PByte) :=
  match (s.line k).look va with
  | .inl code =>
    (s, .inl (if bits va 63 31 != 0 then { order := 2, code, va }
              else if va.toNat % n != 0 then { order := 3, code := 0x04, va } else { order := 5, code, va }))
  | .inr p =>
    if va.toNat % n != 0 then (s, .inl { order := 3, code := 0x04, va })
    else if !s.lineRange p.1 n false then (s, .inl { order := 6, code := 0x05, va })
    else
      let r := s.llcLoad p.1 n
      (r.1, .inr r.2)

/-- Fields of a present record (R392). -/
structure FrameRec where
  color : Dword
  depth : Dword
  motion : Dword
  finfo : Dword
  fw : Nat
  fh : Nat
  cfmt : Nat
  cpitch : Nat
  dpitch : Nat
  seq : Word
  deriving DecidableEq, Repr
def FrameRec.parse (ws : List Dword) : FrameRec :=
  { color := wd ws 0, depth := wd ws 1, motion := wd ws 2, finfo := wd ws 3, fw := bits (wd ws 4) 15 0 + 1,
    fh := bits (wd ws 4) 31 16 + 1, cfmt := bits (wd ws 4) 33 32, cpitch := bits (wd ws 5) 31 0,
    dpitch := bits (wd ws 5) 63 32, seq := (wd ws 6).setWidth 32 }
/-- A record is valid (R392). -/
def frameOk (ws : List Dword) : Bool :=
  let r := FrameRec.parse ws
  r.cfmt ≤ 1 && bits (wd ws 4) 63 34 == 0 && bits (wd ws 6) 63 32 == 0 && wd ws 7 == 0
    && bits r.color 7 0 == 0 && bits r.depth 7 0 == 0 && bits r.motion 7 0 == 0 && bits r.finfo 5 0 == 0
    && r.cpitch % 64 == 0 && r.dpitch % 64 == 0
/-- Clamp(j, n) of R407. -/
def clampTo (j : Int) (n : Nat) : Nat := (saturate j 0 ((n : Int) - 1)).toNat
/-- Places of a colour texel, a depth word and a motion word. -/
def FrameRec.texelAt (r : FrameRec) (x y : Nat) : Dword :=
  r.color + BitVec.ofNat 64 (y * r.cpitch + x * (if r.cfmt == 0 then 4 else 8))
def FrameRec.depthAt (r : FrameRec) (x y : Nat) : Dword := r.depth + BitVec.ofNat 64 (y * r.dpitch + 4 * x)
def FrameRec.motionAt (r : FrameRec) (x y : Nat) : Dword := r.motion + BitVec.ofNat 64 (y * r.dpitch + 4 * x)
/-- The four channels of a texel's bytes (R369). -/
def texelChannels (cfmt : Nat) (bs : List PByte) : List (Word × Bool) :=
  TexRes.channels { base := 0, w := 1, h := 1, lm := 0, tail := 0, fmt := cfmt, map := 0, ring := 0, rid := 0 } bs

/-- The frame-fetch operations. -/
inductive FdKind where
  | bil | near | depth | motion
  deriving DecidableEq, Repr

/-- A coordinate operand: NaN and infinities read as 0. -/
def coordOf (x : Word) : Rat := (realOf x).getD 0
/-- The motion word at a pixel: its halves, and its poison. -/
def State.motAt (s : State) (k : Nat) (r : FrameRec) (x y : Rat) : State × (DFail ⊕ Nat × Nat × Bool) :=
  let b := s.fdRead k (r.motionAt (clampTo x.floor r.fw) (clampTo y.floor r.fh)) 4
  match b.2 with
  | .inl f => (b.1, .inl f)
  | .inr bs => (b.1, .inr (natOf bs % 65536, natOf bs / 65536, anyBad bs))
/-- Of two failed accesses of a lane the one with the lowest-numbered check counts, the first among equals (R266). -/
def DFail.first (f g : DFail) : DFail := if g.order < f.order then g else f
/-- The channels of several texels. -/
def State.texelsAt (s : State) (k : Nat) (r : FrameRec) (ps : List (Nat × Nat)) :
    State × (DFail ⊕ List (List (Word × Bool))) :=
  ps.foldl (fun (acc : State × (DFail ⊕ List (List (Word × Bool)))) p =>
    let b := acc.1.fdRead k (r.texelAt p.1 p.2) (if r.cfmt == 0 then 4 else 8)
    (b.1, match acc.2, b.2 with
      | .inl e, .inl f => .inl (e.first f)
      | .inl e, .inr _ => .inl e
      | .inr _, .inl f => .inl f
      | .inr l, .inr bs => .inr (l ++ [texelChannels r.cfmt bs]))) (s, .inr [])
/-- The words that a lane gets, or the check that fails. -/
def State.fdLane (s : State) (k : Nat) (r : FrameRec) (kind : FdKind) (x y : Rat) (t : Option Rat) :
    State × (DFail ⊕ List (Word × Bool)) :=
  let m : State × (DFail ⊕ Nat × Nat × Bool) :=
    if kind == .motion || t.isSome then s.motAt k r x y else (s, .inr (0, 0, false))
  match m.2 with
  | .inl f => (m.1, .inl f)
  | .inr (mx, my, bad) =>
    if kind == .motion then
      let f (q : Nat) : Word :=
        BitVec.ofNat 32 (NumCtx.convTo { flags := 0, st := { x := 0, y := 0, z := 0, w := 0 } } fmF32 .rne false
          (fmF16.read false q)).2
      (m.1, .inr [(f mx, bad), (f my, bad)])
    else
      let tv := t.getD 0
      let qx := x - tv * (halfOf mx).getD 0
      let qy := y - tv * (halfOf my).getD 0
      let near := (clampTo qx.floor r.fw, clampTo qy.floor r.fh)
      let soil (l : List (Word × Bool)) : List (Word × Bool) := l.map fun e => (e.1, e.2 || bad)
      match kind with
      | .depth =>
        let b := m.1.fdRead k (r.depthAt near.1 near.2) 4
        (b.1, match b.2 with
          | .inl f => .inl f
          | .inr bs => .inr (soil [(BitVec.ofNat 32 (natOf bs), anyBad bs)]))
      | .near =>
        if 1 < r.cfmt then (m.1, .inr (soil (List.replicate 4 (0, false))))
        else
          let b := m.1.texelsAt k r [near]
          (b.1, match b.2 with | .inl f => .inl f | .inr l => .inr (soil (l.headD [])))
      | _ =>
        if 1 < r.cfmt then (m.1, .inr (soil (List.replicate 4 (0, false))))
        else
          let x8 := saturate (256 * (qx - mkRat 1 2)).floor (-(2 ^ 40)) (2 ^ 40)
          let y8 := saturate (256 * (qy - mkRat 1 2)).floor (-(2 ^ 40)) (2 ^ 40)
          let xs := (clampTo (x8 / 256) r.fw, clampTo (x8 / 256 + 1) r.fw)
          let ys := (clampTo (y8 / 256) r.fh, clampTo (y8 / 256 + 1) r.fh)
          let b := m.1.texelsAt k r [(xs.1, ys.1), (xs.2, ys.1), (xs.1, ys.2), (xs.2, ys.2)]
          (b.1, match b.2 with
            | .inl f => .inl f
            | .inr l =>
              let fx := (x8 % 256).toNat
              let fy := (y8 % 256).toNat
              .inr (soil ((List.range 4).map fun ch =>
                let e (j : Nat) : Word × Bool := (l.getD j []).getD ch (0, false)
                let gx : Rat := ((256 - fx : Nat) : Rat)
                let hx : Rat := ((fx : Nat) : Rat)
                let row0 := weighted [((e 0).1, gx), ((e 1).1, hx)]
                let row1 := weighted [((e 2).1, gx), ((e 3).1, hx)]
                (weighted [(row0, mkRat (256 - fy : Nat) 65536), (row1, mkRat fy 65536)],
                 (e 0).2 || (e 1).2 || (e 2).2 || (e 3).2))))

/-- Format FD's operands: the kind, the fields, and whether motion compensates. -/
def Instr.fetch : Instr → Option (FdKind × FdFmt)
  | .ffet _ o => some (.bil, o)
  | .ffetd _ o => some (.depth, o)
  | .ffetm _ o => some (.motion, o)
  | .fnear _ o => some (.near, o)
  | _ => none
/-- All running lanes of a frame fetch, in lane order: the record's own check, each lane's answer. -/
def State.fdLanes (s : State) (c : Ctx) (kind : FdKind) (o : FdFmt) :
    State × (DFail ⊕ List (Fin 32 × (DFail ⊕ List (Word × Bool)))) :=
  let a := c.w.r.sc o.frm.toNat
  if a.toNat % 64 != 0 then (s, .inl { order := 3, code := 0x04, va := a })
  else if 393216 < a.toNat + 64 then (s, .inl { order := 4, code := 0x05, va := a })
  else
    let b := s.scratchRead c a.toNat 64
    let r := FrameRec.parse (wordsOf 8 b.2)
    let rb := anyBad b.2
    let out := c.run.list.foldl (fun (acc : State × List (Fin 32 × (DFail ⊕ List (Word × Bool)))) i =>
      let at' (n : Nat) : Rat := coordOf ((c.w.r.vec n).get i)
      let t := if kind != .motion && bit o.md 0 then some (at' (srcNum o.b)) else none
      let q := acc.1.fdLane c.core r kind (at' (srcNum o.a)) (at' (srcNum o.a + 1)) t
      let v : DFail ⊕ List (Word × Bool) := match q.2 with
        | .inl f => .inl f
        | .inr l => .inr (l.map fun e => (e.1, e.2 || rb))
      (q.1, acc.2 ++ [(i, v)])) (b.1, [])
    (out.1, .inr out.2)
/-- The effect of a frame fetch. -/
def fetchOp (h : Head) (o : FdFmt) (kind : FdKind) (lat n : Nat) (s : State) : Host.Outcome State Fault Refusal :=
  slot h s fun c s =>
    let r := s.fdLanes c kind o
    match r.2 with
    | .inl _ => r.1
    | .inr l =>
      let word (i : Fin 32) (k : Nat) : Word × Bool :=
        match l.find? fun e => e.1 == i with
        | some (_, .inr ws) => ws.getD k (0, false)
        | _ => (0, false)
      r.1.emits lat ((List.range n).map fun k =>
        .v (o.d + BitVec.ofNat 7 k) c.run (Line.build fun i => (word i k).1)
          (Mask.build fun i => c.run.has i && (word i k).2))
/-- ffet (R407). -/
def execFfet (h : Head) (o : FdFmt) (s : State) : Host.Outcome State Fault Refusal := fetchOp h o .bil 48 4 s
/-- ffetd (R407). -/
def execFfetd (h : Head) (o : FdFmt) (s : State) : Host.Outcome State Fault Refusal := fetchOp h o .depth 40 1 s
/-- ffetm (R407). -/
def execFfetm (h : Head) (o : FdFmt) (s : State) : Host.Outcome State Fault Refusal := fetchOp h o .motion 40 2 s
/-- fnear (R407). -/
def execFnear (h : Head) (o : FdFmt) (s : State) : Host.Outcome State Fault Refusal := fetchOp h o .near 40 4 s

/-! A head's descriptor and instants (R386, R387). -/

def HeadUnit.width (x : HeadUnit) : Nat := bits (wd x.desc 0) 15 0 + 1
def HeadUnit.vact (x : HeadUnit) : Nat := bits (wd x.desc 0) 31 16 + 1
def HeadUnit.vtot (x : HeadUnit) : Nat := bits (wd x.desc 0) 47 32 + 1
def HeadUnit.ltime (x : HeadUnit) : Nat := bits (wd x.desc 0) 63 48
def HeadUnit.lead (x : HeadUnit) : Nat := bits (wd x.desc 1) 5 0 + 1
def HeadUnit.bh (x : HeadUnit) : Nat := bits (wd x.desc 1) 11 6 + 1
def HeadUnit.pfmt (x : HeadUnit) : Nat := bits (wd x.desc 1) 12 12
def HeadUnit.lbclr (x : HeadUnit) : Bool := bit (wd x.desc 1) 13
def HeadUnit.fill (x : HeadUnit) : Word := (wd x.desc 1).extractLsb' 32 32
def HeadUnit.cmask (x : HeadUnit) : Dword := wd x.desc 2
def HeadUnit.evt (x : HeadUnit) : Nat := (wd x.desc 7).toNat
/-- A line of a frame, counted over all lines from line 0 of the base frame. -/
def HeadUnit.lineNo (x : HeadUnit) (f : Nat) (y : Int) : Int := ((f : Int) - x.baseFrame) * x.vtot + y
/-- Scan start of a line so counted; deadline and latch follow from it. -/
def HeadUnit.start (x : HeadUnit) (n : Int) : Int := x.f0 + n * x.ltime
def HeadUnit.scanAt (x : HeadUnit) (f : Nat) (y : Int) : Int := x.start (x.lineNo f y)
def HeadUnit.deadline (x : HeadUnit) (f : Nat) (y : Int) : Int := x.scanAt f y - 32
def HeadUnit.latchAt (x : HeadUnit) (f : Nat) (y : Int) : Int := x.scanAt f (y - x.lead)

/-- The head, the run and the cycle of the bundle that runs, for an operation of a line core. -/
structure LineCtx where
  k : Nat
  line : LineCore
  head : HeadUnit
  run : Run
  /-- Display cycle at which the bundle issues. -/
  at' : Int
  deriving DecidableEq, Repr
/-- The line core of an operation, none on a compute core or without a run. -/
def State.lineCtx (s : State) (c : Ctx) : Option LineCtx :=
  match c.fl.owner with
  | .wave _ => none
  | .line k =>
    let l := s.line k
    l.run.map fun r => { k, line := l, head := s.head r.head, run := r, at' := ((l.base + c.fl.cur.1 : Nat) : Int) }
/-- An operation of a line core. -/
def lineOp (h : Head) (s : State) (f : Ctx → LineCtx → State → State) : Host.Outcome State Fault Refusal :=
  slot h s fun c s =>
    match s.lineCtx c with
    | none => s
    | some l => f c l s
/-- The core stalls at the running operation, which runs again when the wait is over (R397). -/
def State.stall (s : State) (k : Nat) (w : LineWait) : State :=
  let fl := s.flight.map fun fl => { fl with todo := fl.cur :: fl.todo }
  ({ s with flight := none }).modLine k fun (l : LineCore) => { l with wait := some w, susp := fl }
/-- An operation that first waits for an instant to pass. Its bundle's own cycle counts: where the instant passes between
the group's first bundle and this one, the operation runs in its own cycle and nothing has stalled. -/
def State.afterPast (s : State) (l : LineCtx) (t : Int) (f : State → State) : State :=
  if t < s.dcycle then f s else s.stall l.k (.past t)

/-! X-slot commands (R409, R411). -/

/-- The input format after the queued commands: that of the last xcfg, else the engine's. -/
def LineCore.ifmtNext (l : LineCore) : Bool :=
  ((l.xq.reverse.findSome? fun (x : XCmd) => match x.op with | .xcfg .. => some (x.addr % 2 == 1) | _ => none)).getD l.dme.ifmt
/-- The input format that an operation's command will meet: an xcfg of an earlier bundle of its group comes before it. -/
def State.ifmtAt (s : State) (c : Ctx) : Bool :=
  let l := s.line c.core
  (List.range c.fl.cur.1).foldl (fun (f : Bool) b =>
    let fl := { c.fl with cur := (b, 3) }
    match (fl.bundles[b]?).bind fun x => decodeSlot .d 3 (Sys2Proof.slotOf x.bits 3) with
    | some (.xcfg h o) =>
      (match l.wave with
        | some w =>
          let r := (s.reader fl w).r
          if runMask r fl h == 0 then f else bit (r.sc o.s.toNat) 0
        | none => f)
    | _ => f) l.ifmtNext
/-- Rows of a command. -/
def xRows (o : XdFmt) : Nat := bits o.md 6 2 + 1
/-- Alignment and bytes of the range that a command touches; none when it touches nothing. -/
def xRange (i8 : Bool) (i : Instr) : Option (Nat × Nat) :=
  let es := if i8 then 1 else 2
  match i with
  | .xwld _ _ => some (es, 1024 * es)
  | .xmma _ o => some (es, 32 * xRows o * es)
  | .xact _ o => if bit o.md 7 then some (4, 128) else none
  | .xdrain _ o => let os := if bit o.md 7 then 4 else es; some (os, 32 * xRows o * os)
  | _ => none
/-- A command enters its core's queue, or the core stalls while the queue is full. -/
def xOp (h : Head) (o : XdFmt) (i : Instr) (s : State) : Host.Outcome State Fault Refusal :=
  lineOp h s fun c l s =>
    if 8 ≤ l.line.xq.length then s.stall l.k .xroom
    else
      let x : XCmd := { op := i, addr := (c.w.r.sc o.s.toNat).toNat }
      s.modLine l.k fun (y : LineCore) => { y with xq := y.xq ++ [x] }
/-- xcfg (R409). -/
def execXcfg (h : Head) (o : XdFmt) (s : State) : Host.Outcome State Fault Refusal := xOp h o (.xcfg h o) s
/-- xwld (R409). -/
def execXwld (h : Head) (o : XdFmt) (s : State) : Host.Outcome State Fault Refusal := xOp h o (.xwld h o) s
/-- xmma (R410). -/
def execXmma (h : Head) (o : XdFmt) (s : State) : Host.Outcome State Fault Refusal := xOp h o (.xmma h o) s
/-- xact (R409). -/
def execXact (h : Head) (o : XdFmt) (s : State) : Host.Outcome State Fault Refusal := xOp h o (.xact h o) s
/-- xdrain (R410). -/
def execXdrain (h : Head) (o : XdFmt) (s : State) : Host.Outcome State Fault Refusal := xOp h o (.xdrain h o) s
/-- xzero (R409). -/
def execXzero (h : Head) (o : XdFmt) (s : State) : Host.Outcome State Fault Refusal := xOp h o (.xzero h o) s

/-! Commands at the display matrix engine (R409, R410). -/

/-- An accumulator word and a weight with their poison. -/
def DmeState.accAt (d : DmeState) (k : Nat) : Word × Bool := (lookKey 0 k d.acc, inKeys k d.accBad)
def DmeState.setAcc (d : DmeState) (k : Nat) (x : Word) (bad : Bool) : DmeState :=
  { d with acc := putKey 0 k x d.acc, accBad := putKeySet k bad d.accBad }
def DmeState.weight (d : DmeState) (k : Nat) : Nat × Bool := ((lookKey 0 k d.weights).toNat, inKeys k d.wbad)
/-- Addition of two f32 words, rounded to nearest even. -/
def addRne (a b : Word) : Word :=
  BitVec.ofNat 32 (numNone.sumTo fmF32 .rne false false
    [some (fmF32.read false a.toNat), some (fmF32.read false b.toNat)]).2
/-- ⊕ of R409. -/
def DmeState.plus (d : DmeState) (a b : Word) : Word := if d.ifmt then a + b else addRne a b
/-- The sum of a row of inputs and a row of weights. -/
def DmeState.dot (d : DmeState) (ins ws : List Nat) : Word :=
  let ps := ins.zip ws
  if d.ifmt then BitVec.ofInt 32 (ps.foldl (fun (a : Int) p => a + sInt 8 p.1 * sInt 8 p.2) 0)
  else BitVec.ofNat 32 (numNone.sumTo fmF32 .rne false false
    (ps.map fun p => fmul (fmF16.read false p.1) (fmF16.read false p.2))).2
/-- Activations (R410). -/
def DmeState.act (d : DmeState) (fn : Nat) (x : Word) : Word :=
  if d.ifmt then
    if fn == 0 then x else if fn == 1 then (if 0 < x.toInt then x else 0) else BitVec.ofInt 32 (saturate x.toInt 0 1)
  else
    match fn, fmF32.read false x.toNat with
    | 0, _ => x
    | 1, .nan => 0x7FC00000
    | 1, .inf n => if n then 0 else x
    | 1, .num _ v => if 0 < v then x else 0
    | _, .nan => 0
    | _, .inf n => if n then 0 else 0x3F800000
    | _, .num _ v => if v < 0 then 0 else if 1 < v then 0x3F800000 else x
/-- Words of rows r < R changed one by one. -/
def DmeState.eachAcc (d : DmeState) (rows : Nat) (f : Nat → Nat → Word × Bool → Word × Bool) : DmeState :=
  (List.range (32 * rows)).foldl (fun (d : DmeState) k =>
    let e := f (k / 32) (k % 32) (d.accAt k)
    d.setAcc k e.1 e.2) d
/-- A command's effect on its core's engine state and line buffer. -/
def LineCore.runX (l : LineCore) (x : XCmd) : LineCore :=
  let d := l.dme
  let es := if d.ifmt then 1 else 2
  let el (k : Nat) : Nat × Bool := let bs := l.buf.read (x.addr + es * k) es; (natOf bs, anyBad bs)
  match x.op with
  | .xcfg .. => { l with dme := { d with ifmt := x.addr % 2 == 1, acc := [], accBad := [] } }
  | .xwld _ o =>
    let slot := bits o.md 1 0
    { l with dme := (List.range 1024).foldl (fun (d : DmeState) k =>
        let e := el k
        { d with weights := putKey 0 (1024 * slot + k) (BitVec.ofNat 16 e.1) d.weights,
                 wbad := putKeySet (1024 * slot + k) e.2 d.wbad }) d }
  | .xmma _ o =>
    let slot := bits o.md 1 0
    { l with dme := d.eachAcc (xRows o) fun r i a =>
        let ins := (List.range 32).map fun j => el (32 * r + j)
        let ws := (List.range 32).map fun j => d.weight (1024 * slot + 32 * i + j)
        (d.plus a.1 (d.dot (ins.map fun e => e.1) (ws.map fun e => e.1)),
         a.2 || ins.any (fun e => e.2) || ws.any (fun e => e.2)) }
  | .xact _ o =>
    { l with dme := d.eachAcc (xRows o) fun _ i a =>
        let bs := l.buf.read (x.addr + 4 * i) 4
        let b : Word × Bool := if bit o.md 7 then (BitVec.ofNat 32 (natOf bs), anyBad bs) else (0, false)
        (d.act (bits o.md 1 0) (d.plus a.1 b.1), a.2 || b.2) }
  | .xdrain _ o =>
    let os := if bit o.md 7 then 4 else es
    let out (a : Word) : Nat :=
      if bit o.md 7 then a.toNat
      else if d.ifmt then truncN 8 (saturate (a.toInt / 2 ^ bits o.md 12 8) (-128) 127)
      else (numNone.convTo fmF16 .rne false (fmF32.read false a.toNat)).2
    { l with buf := (List.range (32 * xRows o)).foldl (fun (b : Store) k =>
        let a := d.accAt k
        b.write (x.addr + os * k) ((cleanBytes os (out a.1)).map fun y => { y with bad := a.2 })) l.buf }
  | .xzero _ o => { l with dme := d.eachAcc (xRows o) fun _ _ _ => (0, false) }
  | _ => l
/-- DME_COMMAND_EXECUTE: the oldest command of a core runs whole (R411). -/
def execDmeCommandExecute (s : State) : Host.Outcome State Fault Refusal :=
  let l := s.line s.arg.a
  match l.xq with
  | [] => .next s
  | x :: t => .next (s.setLine ((({ l with xq := t }).settle l.cnt).runX x))

/-! The E slot (R402 to R405). -/

/-- A segment of a line gets its pixels (R403). -/
def HeadUnit.putSegment (x : HeadUnit) (f y seg : Nat) (ps : List (Nat × Word)) : HeadUnit :=
  let same (b : LineBuf) : Bool := b.frame == f && b.line == y
  let b := getOr same { frame := f, line := y, segs := [], pixels := [], taken := false } x.lines
  let px := ps.foldl (fun (l : List (Nat × Word)) p => putKey 0 p.1 p.2 l) b.pixels
  { x with lines := upd same { b with segs := putKeySet seg true b.segs, pixels := px } x.lines }
/-- A write of pixels [x0, x1) to a line of the band is accepted (R403). -/
def LineCtx.accepts (l : LineCtx) (y x0 x1 : Nat) : Bool :=
  l.run.first ≤ y && y < l.run.first + l.run.lines && x0 % 32 == 0 && x0 < min x1 l.head.width
    && l.at' ≤ l.head.deadline l.run.frame y - 2
/-- The predicate of an E-slot addition is written in every thread (R402). -/
def State.emitAll (s : State) (lat : Nat) (imm : BitVec 20) (v : Bool) : State :=
  s.emitP lat (imm.setWidth 5) (BitVec.allOnes 32) (if v then BitVec.allOnes 32 else 0)
/-- hemit (R403). -/
def execHemit (h : Head) (o : YgFmt) (s : State) : Host.Outcome State Fault Refusal :=
  lineOp h s fun c l s =>
    let a := c.w.r.sc o.a.toNat
    let y := bits a 15 0
    let x0 := bits a 31 16
    let ok := bits a 63 32 == 0 && l.accepts y x0 (x0 + 32)
    let s := if !ok then s
      else
        let ps := lanes.filterMap fun i =>
          if x0 + i.val < l.head.width then some (x0 + i.val, (c.w.r.vec o.d.toNat).get i) else none
        s.modHead l.run.head fun x => x.putSegment l.run.frame y (x0 / 32) ps
    s.emitAll 2 o.imm ok
/-- hfill (R403). -/
def execHfill (h : Head) (o : YgFmt) (s : State) : Host.Outcome State Fault Refusal :=
  lineOp h s fun c l s =>
    let a := c.w.r.sc o.a.toNat
    let y := bits a 15 0
    let x0 := bits a 31 16
    let x1 := bits a 47 32
    let ok := bits a 63 48 == 0 && l.accepts y x0 x1
    let word := (c.w.r.sc o.b.toNat).extractLsb' 0 32
    let w := l.head.width
    let s := if !ok then s
      else
        let segs := (List.range (ceilDiv (min x1 w) 32 - x0 / 32)).map fun k => x0 / 32 + k
        segs.foldl (fun s seg =>
          let ps := (List.range 32).filterMap fun k => if 32 * seg + k < w then some (32 * seg + k, word) else none
          s.modHead l.run.head fun x => x.putSegment l.run.frame y seg ps) s
    s.emitAll 2 o.imm ok
/-- pget: after the latch of its line (R404). -/
def execPget (h : Head) (o : YgFmt) (s : State) : Host.Outcome State Fault Refusal :=
  lineOp h s fun c l s =>
    let a := c.w.r.sc o.a.toNat
    let y : Int := (bits a 15 0 : Int)
    let give (p : Option Pose) (s : State) : State :=
      let s := s.emits 4 ((List.range 8).map fun k =>
        .s (o.d.setWidth 6 + BitVec.ofNat 6 k) ((p.map fun q => wd q.words k).getD 0) 0)
      s.emitAll 4 o.imm p.isSome
    if bits a 63 16 != 0 then give none s
    else
      s.afterPast l (l.head.latchAt l.run.frame y) fun s =>
        give (l.head.poses.find? fun p => p.line == l.head.lineNo l.run.frame y) s
/-- dqpop: after the promotion of its frame (R404). -/
def execDqpop (h : Head) (o : YgFmt) (s : State) : Host.Outcome State Fault Refusal :=
  lineOp h s fun c l s =>
    s.afterPast l (l.head.latchAt l.run.frame 0) fun s =>
      let r := l.head.cur.bind fun k => l.head.queue.find? fun p => p.order == k
      let a := (c.w.r.sc o.a.toNat).toNat
      let bs := match r with | some p => p.words.flatMap fun (w : Dword) => cleanBytes 8 w.toNat | none => cleanBytes 64 0
      let t := s.lineCycle c l.k + 7
      let s := s.modLine l.k fun (y : LineCore) =>
        { y with bufPend := y.bufPend ++ bs.zipIdx.map (fun b => (t, a + b.2, b.1)),
                 run := y.run.map fun q => { q with popped := r.map fun p => p.order } }
      s.emitAll 8 o.imm r.isSome
/-- The record that is CUR is in use no more: the last active line of its frame has had its deadline, and a newer valid
record that counts as queued at the next promotion will take its place (R393, R394; DEDUCED, log entry 112). -/
def HeadUnit.curOver (x : HeadUnit) : Bool :=
  (x.nextPromote - x.baseFrame) * x.vact ≤ x.nextTake
    && x.queue.any fun p => !p.removed && !p.used && frameOk p.words
         && decide (((p.done / 45 : Nat) : Int) < x.latchAt x.nextPromote 0)
/-- Retire records from the oldest on while none is in use (R394). -/
def HeadUnit.retires (x : HeadUnit) (held : List Nat) : List PresRec → List Word × List PresRec
  | [] => ([], [])
  | r :: t =>
    if (r.removed || r.used) && (x.cur != some r.order || x.curOver) && !held.any (fun k => k == r.order) then
      let q := x.retires held t
      ((FrameRec.parse r.words).seq :: q.1, q.2)
    else ([], r :: t)
/-- Retirement writes each SEQ to RETIRE (R394, R398). -/
def State.retire (s : State) (h : Nat) : State :=
  let x := s.head h
  let held := s.disp.lines.filterMap fun (l : LineCore) =>
    l.run.bind fun (r : Run) => if r.head == h then r.popped else none
  let q := x.retires held x.queue
  let s := s.setHead { x with queue := q.2 }
  q.1.foldl (fun s (w : Word) => s.llcStore x.evt (cleanBytes 8 w.toNat)) s
/-- dqdone (R404). -/
def execDqdone (h : Head) (_ : YgFmt) (s : State) : Host.Outcome State Fault Refusal :=
  lineOp h s fun _ l s =>
    (s.modLine l.k fun (y : LineCore) => { y with run := y.run.map fun q => { q with popped := none } }).retire l.run.head
/-- Entries that atlset loads: the first and their number. -/
def atlCount (b : Dword) : Nat × Nat := (bits b 9 0, min (bits b 26 16) (1024 - bits b 9 0))
/-- atlset (R405). An entry read from poisoned bytes is 0, an invalid entry (log entry 127). -/
def execAtlset (h : Head) (o : YgFmt) (s : State) : Host.Outcome State Fault Refusal :=
  lineOp h s fun c l s =>
    let a := (c.w.r.sc o.a.toNat).toNat
    let b := c.w.r.sc o.b.toNat
    let n := atlCount b
    if n.2 == 0 || bits b 15 10 != 0 || bits b 63 27 != 0 then s
    else
      let r := (List.range n.2).foldl (fun (acc : State × List (Nat × Dword)) k =>
        let q := acc.1.llcLoad (a + 8 * k) 8
        (q.1, acc.2 ++ [(n.1 + k, if anyBad q.2 then 0 else BitVec.ofNat 64 (natOf q.2))])) (s, [])
      r.1.modLine l.k fun (y : LineCore) => { y with atlasNext := y.atlasNext ++ r.2, base := y.base + n.2 }
/-- lbar (R405). -/
def execLbar (h : Head) (_ : YgFmt) (s : State) : Host.Outcome State Fault Refusal :=
  lineOp h s fun _ l s => if l.line.xq.isEmpty then s else s.stall l.k .lbar
/-- lwait (R405). -/
def execLwait (h : Head) (o : YgFmt) (s : State) : Host.Outcome State Fault Refusal :=
  lineOp h s fun c l s =>
    let y : Int := (bits (c.w.r.sc o.a.toNat) 15 0 : Int)
    s.afterPast l (l.head.scanAt l.run.frame y) fun s => s
/-- rdbeam (R405). -/
def execRdbeam (h : Head) (o : YgFmt) (s : State) : Host.Outcome State Fault Refusal :=
  lineOp h s fun c l s =>
    let x := l.head
    let v : Dword := match o.imm.toNat with
      | 0 =>
        let n := (l.at' - x.f0).fdiv x.ltime
        let f : Int := x.baseFrame + n.fdiv x.vtot
        BitVec.ofInt 64 (n.fmod x.vtot + 65536 * f.fmod (2 ^ 48))
      | 1 => BitVec.ofInt 64 (x.deadline l.run.frame (bits (c.w.r.sc o.a.toNat) 15 0 : Int) - l.at')
      | _ => BitVec.ofInt 64 l.at'
    s.emitS 2 (o.d.setWidth 6) v

end Sys2Proof.Machine
end

