-- ==== Sys2Proof/Machine/Display.lean ====
section
/-! DEFINITION. Heads, their queues, poses, bands, deadlines and the reprojection path
(15_display_processor.md R383 to R398, R412, R413), with present (14_graphics_pipeline.md R381). -/
namespace Sys2Proof.Machine
open Sys2Proof

/-! present (R381). -/

/-- present: a command of its core. -/
def execPresent (h : Head) (o : EFmt) (s : State) : Host.Outcome State Fault Refusal :=
  slot h s fun c s => s.toSync c (.present h o) o 2
/-- The record enters its head's queue; the command stays pending while the queue is full. -/
def State.runPresent (s : State) (c : Cmd) : State × Option Dword :=
  let a := addrOf (wd c.run 0)
  let h := (wd c.run 1).toNat
  if 260 ≤ h then (s, some (statusBad 0x86 2 0))
  else if a % 64 != 0 then (s, some (statusBad 0x87 4 0))
  else
    let r := (List.range 64).foldl (fun (acc : State × (Dword ⊕ List PByte)) (i : Nat) =>
      match acc.2 with
      | .inl _ => acc
      | .inr bs =>
        let p := acc.1.place c false false (a + i)
        match p.2 with
        | .inl k => (p.1, .inl (failStatus false k 4 (a + i)))
        | .inr e =>
          let b := p.1.getByte c e
          if b.2.bad then (b.1, .inl (failStatus false 0x82 4 (a + i))) else (b.1, .inr (bs ++ [b.2]))) (s, .inr [])
    match r.2 with
    | .inl st => (r.1, some st)
    | .inr bs =>
      let x := r.1.head h
      if 8 ≤ (x.queue.filter fun p => !p.removed && !p.used).length then (s, none)
      else
        let s := r.1.fenceCore c.core false true 5 (BitVec.allOnes 16)
        let p : PresRec := { order := x.posted, words := wordsOf 8 bs, done := s.now, removed := false, used := false }
        ((s.modHead h fun (y : HeadUnit) => { y with queue := y.queue ++ [p], posted := y.posted + 1 }).retire h,
         some (statusOk 0 0 (x.posted + 1)))

/-! Poses (R396). -/

/-- The words of the slot with the later SEQ. -/
def State.laterSlot (s : State) (h : Nat) : List Dword :=
  let slot (k : Nat) : List PByte := (List.range 64).map fun i => s.mailboxByte (0x7000000000 + 128 * h + 64 * k + i)
  let seq (bs : List PByte) : Word := BitVec.ofNat 32 (natOf ((bs.drop 0x1C).take 4))
  let a := slot 0
  let b := slot 1
  wordsOf 8 (if 0 < (seq b - seq a).toInt then b else a)
/-- Lines of a head whose latch has come and that are not latched yet (R387). -/
def HeadUnit.latchesDue (x : HeadUnit) (now : Int) : Nat :=
  if !x.en then 0 else ((now - x.start (x.nextLatch - x.lead)).fdiv x.ltime + 1).toNat
/-- The pose of the next line is copied, and the 128 newest are kept. -/
def State.latchPose (s : State) (h : Nat) : State :=
  let x := s.head h
  let p : Pose := { line := x.nextLatch, words := s.laterSlot h }
  s.setHead { x with poses := (p :: x.poses).take 128, nextLatch := x.nextLatch + 1 }
/-- POSE_LATCH: one line. -/
def execPoseLatch (s : State) : Host.Outcome State Fault Refusal :=
  let x := s.head s.arg.a
  if x.latchesDue s.dcycle == 0 then .next s else .next (s.latchPose x.id)
/-- The latches that have come see no update of their own cycle or later (R396): they are taken before an update. -/
def State.latchFirst (s : State) (h : Nat) : State :=
  (List.range ((s.head h).latchesDue s.dcycle)).foldl (fun s _ => s.latchPose h) s

/-! Pose mailboxes (R395). -/

/-- A write to the mailboxes: one whole aligned slot replaced; every other write is discarded. -/
def State.poseWrite (s : State) (addr : Nat) (data : List Byte) : State :=
  if addr + 64 ≤ 0x7000008200 && addr % 64 == 0 && data.length == 64 then
    let o := addr - 0x7000000000
    let s := s.latchFirst (o / 128)
    { s with disp := { s.disp with
      mailbox := (data.zipIdx).foldl (fun (m : Cells) b => putCell m (o + b.2) b.1) s.disp.mailbox } }
  else s
/-- MAILBOX_WRITE: an access through a control port (R238, R395, R460). A write of device memory performs at the LLC as a
sys agent's, one of the hub window reaches a register when it is a naturally aligned 8 bytes. With no data it is a read of
as many bytes as the offer says, which changes nothing but a view's line. The control node makes no read-modify-write
(R459). -/
def execMailboxWrite (addr : Nat) (data : List Byte) (s : State) : Host.Outcome State Fault Refusal :=
  .next (if data.isEmpty then
      if s.inMem addr s.arg.c then (linesOf addr s.arg.c).foldl (fun s l => s.touchView l) s else s
    else match s.range addr with
      | .mailbox => s.poseWrite addr data
      | .mem => if s.inMem addr data.length then s.llcWrite none addr (data.map clean) else s
      | .hub =>
        if addr % 8 == 0 && data.length == 8 then s.hubWrite (addr - 0x7100000000) (BitVec.ofNat 64 (natOf (data.map clean)))
        else s
      | _ => s)

/-! Descriptors (R384 to R388, R527). -/

/-- The 1024 entries of an atlas image that are not zero; a poisoned one counts as zero. -/
def State.atlasImage (s : State) (pa : Nat) : State × List (Nat × Dword) :=
  (List.range 1024).foldl (fun (acc : State × List (Nat × Dword)) k =>
    let r := acc.1.llcLoad (pa + 8 * k) 8
    let x : Dword := if anyBad r.2 then 0 else BitVec.ofNat 64 (natOf r.2)
    (r.1, if x == 0 then acc.2 else acc.2 ++ [(k, x)])) (s, [])
/-- The limits of R386 on a head's descriptor, and those of R388 and R527 on a physical head's. -/
def descOk (h rate : Nat) (ws : List Dword) : Bool :=
  let x : HeadUnit := { headReset h with desc := ws }
  let phys := decide (h < 4)
  let htot := bits (wd ws 1) 31 16
  let out := (wd ws 5).toNat
  let stride := bits (wd ws 6) 31 0
  let bpp := if x.pfmt == 0 then 24 else 30
  x.width ≤ (if phys then 7680 else 16384) && x.vact ≤ 16384 && x.vact + x.lead ≤ x.vtot && 256 ≤ x.ltime
    && bits (wd ws 1) 15 14 == 0 && x.cmask != 0 && (wd ws 4).toNat % 64 == 0 && bits (wd ws 6) 63 32 == 0
    && (wd ws 7).toNat % 64 == 0
    && (if phys then
          out == 0 && stride == 0 && x.width + 96 ≤ htot && x.vact + 8 ≤ x.vtot
            && htot * 1600 * bpp * 132 ≤ rate * 128 * x.ltime
        else htot == 0 && out % 64 == 0 && stride % 64 == 0 && 4 * x.width ≤ stride)
/-- The program descriptor of a head is valid (R384). -/
def programOk (k : KDesc) : Bool := k.prof == 1 && k.waves == 1 && k.sbanks == 0 && !k.acc && !k.surv
/-- Sixty-four bytes at a physical address as words, none when they cannot be read whole. -/
def State.descWords (s : State) (pa : Nat) : State × Option (List Dword) :=
  if !s.inMem pa 64 then (s, none)
  else
    let r := s.llcLoad pa 64
    (r.1, if anyBad r.2 then none else some (wordsOf 8 r.2))
/-- A descriptor as it is read: its words and address, ENTRY, and the head's copy of the atlas. -/
def State.readDesc (s : State) (h rate : Nat) (ctl : Dword) :
    State × Option (List Dword × Dword × List (Nat × Dword)) :=
  let at0 := keepBits ctl 51 6
  let r := s.descWords at0.toNat
  match r.2 with
  | none => (r.1, none)
  | some ws =>
    if !descOk h rate ws then (r.1, none)
    else
      let p := r.1.descWords (wd ws 3).toNat
      match p.2.bind fun us => KDesc.parse (wd ws 3) us with
      | none => (p.1, none)
      | some k =>
        if !programOk k || (wd ws 3).toNat % 64 != 0 then (p.1, none)
        else
          let a := p.1.atlasImage (wd ws 4).toNat
          (a.1, some (ws ++ [at0], k.entry, a.2))

/-- The stream attributes of a physical head's timing (R527). -/
def HeadUnit.streamAttrs (x : HeadUnit) : StreamAttrs :=
  { hsync := 32, hfront := 32, hback := bits (wd x.desc 1) 31 16 - x.width - 64, vsync := 4, vfront := 3, vback := x.vtot - x.vact - 7 }
/-- Lanes times rate of a link by its codes (R388). -/
def linkRate (lanes rate : Nat) : Nat :=
  (match lanes % 4 with | 0 => 0 | 1 => 1 | 2 => 2 | _ => 4)
    * (match rate % 3 with | 0 => 10000 | 1 => 13500 | _ => 20000)
/-- The earliest line to latch from now on. -/
def HeadUnit.firstLatch (x : HeadUnit) (now : Int) : Int :=
  let d := x.f0 - now
  (x.lead : Int) - d.fdiv x.ltime
/-- HEAD_ENABLE: a disabled head begins frame 0 65,536 cycles from now (R385). -/
def execHeadEnable (s : State) : Host.Outcome State Fault Refusal :=
  let h := s.arg.a
  let v := s.arg.x
  if 260 ≤ h || (s.head h).en then .next s
  else
    let ctl := keepBits v 51 6
    let k := s.free
    let rate := if h < 4 then linkRate (Config.portLanes k.1) (Config.portRate k.1) else 0
    let s := if h < 4 then k.2 else s
    let s := s.modHead h fun (x : HeadUnit) => { x with ctl := ctl, rate := rate, link := decide (0 < rate) }
    let fail (s : State) : State := s.modHead h fun (x : HeadUnit) => { x with err := true }
    if s.life.min then .next (fail s)
    else
      let r := s.readDesc h rate ctl
      match r.2 with
      | none => .next (fail r.1)
      | some d =>
        let s := r.1
        .next (s.modHead h fun (x : HeadUnit) =>
          let y : HeadUnit :=
            { x with ctl := ctl ||| 1, en := true, stop := false, desc := d.1, entry := d.2.1, atlas := d.2.2,
                     nextDesc := none, fbcount := 0, frames := 0, f0 := s.dcycle + 65536, baseFrame := 0, cur := none,
                     poses := [], nextPromote := 0, nextTake := 0, nextScan := 0, bands := [], lines := [] }
          { y with nextLatch := y.firstLatch s.dcycle })
/-- HEAD_REREAD: the new descriptor applies from the next promotion instant (R385). -/
def execHeadReread (s : State) : Host.Outcome State Fault Refusal :=
  let h := s.arg.a
  let x := s.head h
  if !x.en then .next s
  else
    let ctl := keepBits s.arg.x 51 6
    let r := s.readDesc h x.rate ctl
    .next (r.1.modHead h fun (y : HeadUnit) =>
      match r.2 with
      | none => { y with ctl := ctl ||| 1, stop := false, err := true }
      | some d => { y with ctl := ctl ||| 1, stop := false, nextDesc := some d })
/-- HEAD_DISABLE: the head stops at the next promotion instant (R385). -/
def execHeadDisable (s : State) : Host.Outcome State Fault Refusal :=
  let h := s.arg.a
  if 260 ≤ h then .next s
  else .next (s.modHead h fun (x : HeadUnit) => { x with ctl := keepBits s.arg.x 51 6, stop := x.en })
/-- HEAD_LINK_DOWN: LINK reads 0 from then on (R385). -/
def execHeadLinkDown (s : State) : Host.Outcome State Fault Refusal :=
  if s.arg.a < 4 then .next (s.modHead s.arg.a fun (x : HeadUnit) => { x with link := false, rate := 0 }) else .next s

/-! Runs (R383, R384, R390, R391, R401). -/

/-- A run ends at a group boundary: its stores land, its record is given back; a trap discards what is in
flight (R391, R394, R414). -/
def State.endRun (s : State) (k : Nat) (trap : Bool) : State :=
  let l := s.line k
  match l.run with
  | none => s
  | some r =>
    let buf := if trap then (l.settle l.cnt).buf else landBytes l.buf l.bufPend
    let at0 := max l.free s.now
    let s := s.setLine
      { l with buf := buf, wave := none, run := none, pend := [], bufPend := [], wait := none, susp := none, pt := Vector.replicate 8 PTEntry.blank,
               atlas := l.atlasNext.foldl (fun (m : List (Nat × Dword)) e => putKey 0 e.1 e.2 m) l.atlas,
               atlasFrom := if l.atlasNext.isEmpty then l.atlasFrom else none, atlasNext := [],
               free := 45 * (at0 / 45 + 1) }
    s.retire r.head
/-- A group is part-way and nothing in it stalls: its boundary is still to come (R391, R404). -/
def LineCore.inGroup (l : LineCore) : Bool :=
  match l.wait, l.susp with
  | some (.past t), some fl => decide (t < ((l.base + fl.cur.1 : Nat) : Int))
  | _, _ => false
/-- The runs of a head that satisfy `p` end, each at its group boundary. -/
def State.endRuns (s : State) (h : Nat) (p : Run → Bool) : State :=
  (s.disp.lines.filter fun (l : LineCore) => l.run.any fun (r : Run) => r.head == h && p r).foldl
    (fun s (l : LineCore) =>
      if l.inGroup then s.modLine l.id fun (l : LineCore) => { l with run := l.run.map fun r => { r with closing := true } }
      else s.endRun l.id false) s

/-- The last line of a band, and the instants at which it opens and closes (R390). -/
def HeadUnit.bandEnd (x : HeadUnit) (first : Nat) : Nat := min (first + x.bh) x.vact - 1
def HeadUnit.opensAt (x : HeadUnit) (f first : Nat) : Int :=
  let n := ((List.range 64).filter fun k => x.cmask.getLsbD k).length
  x.deadline f first - ((n * x.bh * x.ltime : Nat) : Int)
def HeadUnit.closesAt (x : HeadUnit) (f first : Nat) : Int := x.deadline f (x.bandEnd first)
/-- The earliest band of a head that is neither started nor closed: frame and first line. -/
def HeadUnit.nextBand (x : HeadUnit) (now : Int) : Option (Nat × Nat) :=
  let per := ceilDiv x.vact x.bh
  let from0 := x.nextTake / x.vact * per + x.nextTake % x.vact / x.bh
  ((List.range (x.bands.length + 3)).map fun k =>
      (x.baseFrame + (from0 + k) / per, (from0 + k) % per * x.bh)).find? fun b =>
    decide (now < x.closesAt b.1 b.2) && !x.bands.any fun e => e.frame == b.1 && e.first == b.2
/-- The band that a free line core starts now: earliest deadline, then lowest head, then lowest frame (R391). -/
def State.bandFor (s : State) (k : Nat) : Option (Nat × Nat × Nat) :=
  let now : Int := s.dcycle
  let cands := s.disp.heads.filterMap fun (x : HeadUnit) =>
    if x.en && x.cmask.getLsbD k then
      (x.nextBand now).bind fun b =>
        if x.opensAt b.1 b.2 ≤ now then some (x.deadline b.1 b.2, x.id, b.1, b.2) else none
    else none
  (cands.foldl (fun (best : Option (Int × Nat × Nat × Nat)) c =>
    match best with
    | none => some c
    | some b => if c.1 < b.1 || (c.1 == b.1 && c.2.1 < b.2.1) then some c else some b) none).map fun b => b.2
/-- A line core may start a run: it has none and its last group's cycles are over. -/
def State.lineFree (s : State) (k : Nat) : Bool := (s.line k).run.isNone && (s.line k).free ≤ s.now && k < 64
/-- The wave of a run (R384). -/
def runWave (uid : Nat) (h first lines frame : Nat) (desc entry : Dword) : Wave :=
  let w64 (n : Nat) : Dword := BitVec.ofNat 64 n
  let sv : Vector Dword 64 := Vector.ofFn fun n =>
    [w64 h, w64 first, w64 lines, w64 frame, desc].getD n.val 0
  let v : Vector Line 128 := Vector.ofFn fun n =>
    if n.val == 0 then Line.build fun i => BitVec.ofNat 32 i.val else Line.fill 0
  let t : Thread := { pc := entry, meet := 0, st := .runnable, wkind := .bar, wend := 0, wpd := 0, vform := 0,
                      vval := false, close := false, via := none }
  let st : Stoch := { x := 0x9E3779B9 ^^^ BitVec.ofNat 32 first, y := 0x243F6A88 ^^^ BitVec.ofNat 32 h,
                      z := 0xB7E15162, w := 0x6A09E667 }
  { uid, group := 0, index := 0, surveyor := false, pair := none, ctx := 0, arenaIdx := 0,
    threads := Vector.replicate 32 t, cur := BitVec.allOnes 32, cursor := entry,
    r := { v, vbad := Vector.replicate 128 0, p := Vector.replicate 32 0, pbad := 0, s := { val := sv, bad := 0 },
           b := Vector.replicate 8 0, loops := [], mode := 0, flags := 0, stoch := st },
    lines := { resident := 0, dirty := 0, pinned := 0, dead := 0, legend := Vector.replicate 133 0,
               poison := Vector.replicate 133 0 },
    c := { tokPend := 0, parkVA := 0, parkLines := [], stopped := false, halted := false, wsup := false, traprec := 0,
           barGen := 0, mon := none, monTrig := false, marks := [], wdog := 0, kept := [], stepOnce := false },
    targets := Vector.replicate 8 PTEntry.blank,
    act := .active 0 0, lastIssue := 0, recent := [], windows := [], img := [], owed := [], issued := 0 }
/-- A run starts on a core, its atlas loaded and its buffer cleared where the rules ask for it. -/
def State.startRun (s : State) (k h f first : Nat) : State :=
  let x := s.head h
  let l := s.line k
  let img := wd x.desc 4
  let same := l.atlasFrom == some (img, h)
  let a := if same then (s, l.atlas) else s.atlasImage img.toNat
  let clear := x.lbclr && l.lastHead.any fun p => p != h
  let u := a.1.fresh
  let n := x.bandEnd first + 1 - first
  let cycles := max (if same then 0 else 160) (if clear then 768 else 0)
  let w := runWave u.1 h first n f (wd x.desc 8) x.entry
  let s := u.2.modLine k fun (l : LineCore) =>
    { l with wave := some w, stochSeen := w.r.stoch, stochPend := [],
             run := some { head := h, entry := x.entry, frame := f, first := first, lines := n, popped := none },
             buf := if clear then Store.empty else l.buf, atlas := a.2, atlasFrom := some (img, h), lastHead := some h,
             cnt := 0, pend := [], bufPend := [], wait := none, susp := none, base := s.dcycle + cycles,
             pt := Vector.replicate 8 PTEntry.blank,
             atlasNext := [], free := 45 * (s.dcycle + cycles) }
  s.modHead h fun (x : HeadUnit) => { x with bands := x.bands ++ [{ frame := f, first := first }] }
/-- RUN_START (R391). -/
def execRunStart (s : State) : Host.Outcome State Fault Refusal :=
  let k := s.arg.a
  if !s.lineFree k then .next s
  else match s.bandFor k with
    | none => .next s
    | some (h, f, first) => if h == s.arg.b then .next (s.startRun k h f first) else .next s
/-- BAND_CLOSE: the run of a band that closes ends at its group boundary (R391). -/
def execBandClose (s : State) : Host.Outcome State Fault Refusal :=
  let x := s.head s.arg.a
  match x.bands.find? fun b => decide (x.closesAt b.frame b.first ≤ s.dcycle) with
  | none => .next s
  | some b =>
    let s := s.endRuns x.id fun r => r.frame == b.frame && r.first == b.first
    .next (s.modHead x.id fun (y : HeadUnit) => { y with bands := y.bands.filter fun e => e != b })

/-! Promotion (R393, R394, R398). -/

/-- The record of a display event (R429). -/
def displayRec (code : Byte) (detail : Nat) (addr : Dword) : FaultRec :=
  { code, kind := 3, slot := 0, sloti := none, detail := BitVec.ofNat 8 detail, region := 0, ctx := 0, pc := 0,
    next := 0, lanes := 0, addr, info := 0, wave := none, nexts := [] }
def State.displayEvent (s : State) (code : Byte) (detail : Nat) (addr : Dword) : State :=
  s.report (displayRec code detail addr)
/-- A trap of a line core: its record names the group, where it would go on and the threads (R421, R423); the run ends
(R414). -/
def State.lineTrap (s : State) (k : Nat) (code : Byte) (addr pc next : Dword) (m : Mask) (sloti : Option Nat)
    (info : Dword := 0) : State :=
  let a := if code == 0x04 || code == 0x05 || code == 0x0C then addr else pc
  (s.report { displayRec code k a with pc, next, lanes := m, sloti, info }).endRun k true
/-- The head stops at a promotion instant: its runs end, its frames are over. -/
def State.stopHead (s : State) (h : Nat) : State :=
  let s := s.endRuns h fun _ => true
  (s.modHead h fun (x : HeadUnit) =>
    { x with en := false, stop := false, nextDesc := none, cur := none, bands := [], lines := [], poses := [] }).retire h
/-- The descriptor read before applies: frame f begins where it would have begun (R385). A line that has been latched is not
latched again (R396). -/
def HeadUnit.applyDesc (x : HeadUnit) (f : Nat) (now : Int) : HeadUnit :=
  match x.nextDesc with
  | none => x
  | some d =>
    let shift := x.lineNo f 0
    let y : HeadUnit :=
      { x with f0 := x.scanAt f 0, baseFrame := f, desc := d.1, entry := d.2.1, atlas := d.2.2, nextDesc := none,
               poses := x.poses.map fun p => { p with line := p.line - shift }, nextTake := 0, nextScan := 0 }
    { y with nextLatch := max (y.firstLatch now) (x.nextLatch - shift) }
/-- The newest valid record queued before an instant becomes CUR; the other records queued before it are
removed. -/
def State.promoteRecords (s : State) (h : Nat) (at0 : Int) : State :=
  let x := s.head h
  let due (p : PresRec) : Bool := !p.removed && !p.used && ((p.done / 45 : Nat) : Int) < at0
  let best := ((x.queue.filter fun p => due p && frameOk p.words).getLast?).map fun p => p.order
  let s := (x.queue.filter fun p => due p && !frameOk p.words).foldl (fun s (p : PresRec) =>
    s.displayEvent 0x86 0 ((FrameRec.parse p.words).seq.zeroExtend 64)) s
  (s.modHead h fun (x : HeadUnit) =>
    { x with queue := x.queue.map fun p =>
               if some p.order == best then { p with used := true } else if due p then { p with removed := true } else p,
             cur := match best with | some k => some k | none => x.cur }).retire h
/-- FRAME_PROMOTE: the promotion instant of the next frame has come (R385, R393, R398). -/
def execFramePromote (s : State) : Host.Outcome State Fault Refusal :=
  let h := s.arg.a
  let x := s.head h
  let f := x.nextPromote
  let at0 := x.latchAt f 0
  if !x.en || s.dcycle < at0 then .next s
  else if x.stop then .next (s.stopHead h)
  else
    let s := s.setHead ({ x with nextPromote := f + 1 }.applyDesc f s.dcycle)
    let s := s.llcStore ((s.head h).evt + 64 + 2048 * (f % 4)) (List.replicate 2048 (clean 0))
    .next (s.promoteRecords h at0)

/-! The reprojection path (R413). -/

/-- A read through the head's copy of the atlas, none when the lookup fails. -/
def State.headRead (s : State) (x : HeadUnit) (va : Dword) (n : Nat) : State × Option (List PByte) :=
  match ({ lineCoreReset 0 with atlas := x.atlas } : LineCore).look va with
  | .inl _ => (s, none)
  | .inr p =>
    let r := s.llcLoad p.1 n
    (r.1, some r.2)
/-- An f32 of a block of words. -/
def f32At (ws : List Dword) (off : Nat) : Option Rat :=
  realOf ((wd ws (off / 8)).extractLsb' (8 * (off % 8)) 32)
/-- The texel coordinates of a pixel, none where it is FILL. -/
def reprojPoint (w h : Nat) (r : FrameRec) (info pose : List Dword) (px y : Nat) : Option (Nat × Nat) :=
  let half (k : Nat) : Option Rat := some (((k : Nat) : Rat) + mkRat 1 2)
  let num (k : Nat) : Option Rat := some ((k : Nat) : Rat)
  let fx := f32At info 0x20
  let fy := f32At info 0x24
  let cx := f32At info 0x28
  let cy := f32At info 0x2C
  let d0 := rneReal (oDiv (oSub (oDiv (oMul (half px) (num r.fw)) (num w)) cx) fx)
  let d1 := rneReal (oDiv (oSub (oDiv (oMul (half y) (num r.fh)) (num h)) cy) fy)
  let qr := [oNeg (f32At info 0), oNeg (f32At info 4), oNeg (f32At info 8), f32At info 12]
  let q := qMul qr [f32At pose 0, f32At pose 4, f32At pose 8, f32At pose 12]
  let e := (rotQ (rAt q 0) (rAt q 1) (rAt q 2) (rAt q 3) [d0, d1, some 1]).map realOf
  match rAt e 2 with
  | none => none
  | some e2 =>
    if e2 ≤ 0 then none
    else
      match rneReal (oAdd (oDiv (oMul fx (rAt e 0)) (some e2)) cx), rneReal (oAdd (oDiv (oMul fy (rAt e 1)) (some e2)) cy) with
      | some u, some v =>
        if 0 ≤ u && u < ((r.fw : Nat) : Rat) && 0 ≤ v && v < ((r.fh : Nat) : Rat) then some (u.floor.toNat, v.floor.toNat)
        else none
      | _, _ => none
/-- PixConv of a texel's bytes; a poisoned texel gives FILL. -/
def pixConv (x : HeadUnit) (r : FrameRec) (bs : List PByte) : Word :=
  if anyBad bs then x.fill
  else if r.cfmt == 0 && x.pfmt == 0 then BitVec.ofNat 32 (natOf bs)
  else packPixel x.pfmt ((texelChannels r.cfmt bs).map fun e => e.1)
/-- The pixels of a line that falls back. -/
def State.reproject (s : State) (h f y : Nat) : State × List Word :=
  let x := s.head h
  let blank := List.replicate x.width x.fill
  let rec0 := x.cur.bind fun k => x.queue.find? fun p => p.order == k
  let pose := x.poses.find? fun p => p.line == x.lineNo f y
  match rec0, pose with
  | some p, some q =>
    let r := FrameRec.parse p.words
    let b := s.headRead x r.finfo 64
    match b.2 with
    | none => (b.1, blank)
    | some bs =>
      if anyBad bs then (b.1, blank)
      else
        let info := wordsOf 8 bs
        (List.range x.width).foldl (fun (acc : State × List Word) px =>
          match reprojPoint x.width x.vact r info q.words px y with
          | none => (acc.1, acc.2 ++ [x.fill])
          | some t =>
            let c := acc.1.headRead x (r.texelAt t.1 t.2) (if r.cfmt == 0 then 4 else 8)
            (c.1, acc.2 ++ [match c.2 with | none => x.fill | some bs => pixConv x r bs])) (b.1, [])
  | _, _ => (s, blank)

/-! Deadlines and scan-out (R388, R389, R412). -/

/-- LINE_DEADLINE: the run's line when every segment was accepted, else the reprojected one. -/
def execLineDeadline (s : State) : Host.Outcome State Fault Refusal :=
  let x := s.head s.arg.a
  let f := x.baseFrame + x.nextTake / x.vact
  let y := x.nextTake % x.vact
  if !x.en || s.dcycle < x.deadline f y then .next s
  else
    let same (b : LineBuf) : Bool := b.frame == f && b.line == y
    let s := s.setHead { x with nextTake := x.nextTake + 1 }
    let ready := (x.lines.find? same).any fun b => (List.range (ceilDiv x.width 32)).all fun k => inKeys k b.segs
    if ready then
      .next ((s.modHead x.id fun (x : HeadUnit) =>
        { x with lines := x.lines.map fun b => if same b then { b with taken := true } else b }).retire x.id)
    else
      let at0 := x.evt + 64 + 2048 * (f % 4) + y / 8
      let old := s.llcLoad at0 1
      let s := old.1.llcStore at0 [clean (BitVec.ofNat 8 (natOf old.2) ||| (1#8 <<< (y % 8)))]
      let r := s.reproject x.id f y
      let b : LineBuf := { frame := f, line := y, segs := [], taken := true,
                           pixels := (r.2.zipIdx.filter fun e => e.1 != 0).map fun e => (e.2, e.1) }
      .next ((r.1.modHead x.id fun (x : HeadUnit) =>
        { x with lines := upd same b x.lines,
                 fbcount := if x.fbcount == BitVec.allOnes 32 then x.fbcount else x.fbcount + 1 }).retire x.id)
/-- A pixel word as a port sends it: without its alpha field (R386, R388). -/
def HeadUnit.rgb (x : HeadUnit) (w : Word) : Word := w &&& (if x.pfmt == 0 then 0x00FFFFFF else 0x3FFFFFFF)
/-- LINE_SCAN_OUT: the line leaves the port, or is written to memory; FDONE follows a frame's last line. -/
def execLineScanOut (s : State) : Host.Outcome State Fault Refusal :=
  let x := s.head s.arg.a
  let f := x.baseFrame + x.nextScan / x.vact
  let y := x.nextScan % x.vact
  if !x.en || s.dcycle < x.scanAt f y || x.nextTake ≤ x.nextScan then .next s
  else
    let same (b : LineBuf) : Bool := b.frame == f && b.line == y
    let px := ((x.lines.find? same).map fun b => b.pixels).getD []
    let ws := (List.range x.width).map fun k => lookKey (0 : Word) k px
    let s := s.setHead
      { x with nextScan := x.nextScan + 1, lines := x.lines.filter fun b => !same b,
               frames := if y == 0 then (x.frames + 1) % 2 ^ 30 else x.frames,
               sent := if x.id < 4 && x.link then ws.map x.rgb else x.sent,
               attrs := if x.id < 4 && x.link then some x.streamAttrs else x.attrs }
    if x.id < 4 then .next s
    else
      let out := (wd x.desc 5).toNat + y * bits (wd x.desc 6) 31 0
      let s := s.llcStore out (ws.flatMap fun (w : Word) => cleanBytes 4 w.toNat)
      .next (if y + 1 == x.vact then s.llcStore (x.evt + 8) (cleanBytes 8 (f + 1)) else s)

/-! The end of a stall (R397, R404). -/

/-- The wait of a core is over: an instant has passed, or the engine made room. -/
def State.waitOver (s : State) (k : Nat) : Bool :=
  let l := s.line k
  match l.wait, l.susp with
  | some w, some fl =>
    (match w with
      | .past t => decide (t < s.dcycle)
      | .lbar => l.xq.isEmpty
      | .xroom => decide (l.xq.length < 8)) && decide (l.base + fl.cur.1 ≤ s.dcycle)
  | _, _ => false
/-- LINE_CORE_WAIT_END: the group goes on at the operation that waited. -/
def execLineCoreWaitEnd (s : State) : Host.Outcome State Fault Refusal :=
  let k := s.arg.a
  let l := s.line k
  if !s.waitOver k || s.flight.isSome then .next s
  else
    let b := (l.susp.map fun fl => fl.cur.1).getD 0
    .next (({ s with flight := l.susp }).setLine { l with wait := none, susp := none, base := s.dcycle - b })

end Sys2Proof.Machine
end

