-- ==== Sys2Proof/Machine/Checks.lean ====
section
/-! DEFINITION. What stops a group before it issues (01_sequential_machine.md R20 to R28,
02_bundles_and_opcode_map.md R58 to R61, 17_traps_faults_and_preemption.md R419, R433, R437, R438): its fetch, the
encoding checks, the checks of each operation, watchpoints (21_debug_trace_and_replay.md R503), and the waits of a
group that cannot go yet. -/
namespace Sys2Proof.Machine
open Sys2Proof

/-! The fetch of a group (R20, R30 to R32, R400). -/

/-- What a fetch of one bundle, or of a group, gives. -/
inductive Fetched (α : Type) where
  | got (x : α)
  | absent
  | bad (code : Byte) (addr : Dword)
  | park (line : Nat) (addr : Dword)
  deriving DecidableEq, Repr

/-- A bundle of 64 bytes read. -/
def bundleOf (bs : List PByte) : FBundle := { bits := BitVec.ofNat 512 (natOf bs), bad := anyBad bs }
/-- A bundle that the prepared-target entry of a register holds, or that is still on its way to it. -/
def PTEntry.look (e : PTEntry) (a : Dword) : Option (Option FBundle) :=
  let k := (a - e.base).toNat / 64
  if (a - e.base).toNat % 64 != 0 then none
  else match e.got[k]? with
    | some b => some (some b)
    | none => if !e.fault && k < e.got.length + e.left then some none else none
/-- The bundle of a loop's body that the core holds at an address (R38). -/
def LoopEntry.look (e : LoopEntry) (a : Dword) : Option FBundle :=
  if (a - e.start).toNat % 64 == 0 then e.body[(a - e.start).toNat / 64]? else none
/-- Fetch a bundle for a wave: from the entry named by the taken test, after a return to a loop's start from its loop
entry, else through L1. A fill that met a fault keeps none here: the transfer that uses the entry fetches anew and takes
the fault as the tables then stand (R88 does not say whether a fault met by a fill is kept; log entry 116). -/
def State.fetchBundle (s : State) (w : Wave) (via : Option (BitVec 3)) (back : Option LoopEntry) (a : Dword) :
    State × Fetched FBundle :=
  match via.bind fun bt => (w.targets.get ⟨bt.toNat, bt.isLt⟩).look a, back.bind fun e => e.look a with
  | some (some b), _ => (s, .got b)
  | some none, _ => (s, .absent)
  | none, some b => (s, .got b)
  | none, none =>
    let g := s.coreOf w
    let r := s.checkVa g (s.slotOf w) (s.priv w) .fetch 64 (a.toNat % 64 != 0) a
    match r.2 with
    | .ok pa mt => let b := r.1.loadPa g mt false pa 64; (b.1, .got (bundleOf b.2))
    | .park l => (r.1, .park l a)
    | .bad _ code => (r.1, .bad code a)
    | .zero => (r.1, .bad 0x06 a)
/-- Fetch a bundle for a line core, through the atlas. -/
def State.fetchLine (s : State) (k : Nat) (a : Dword) : State × Fetched FBundle :=
  match (s.line k).look a with
  | .inl code => (s, .bad code a)
  | .inr p =>
    if !s.lineRange p.1 64 false then (s, .bad 0x05 a)
    else let r := s.llcLoad p.1 64; (r.1, .got (bundleOf r.2))
/-- A fill of a line core stopped at this address with a fault, which the transfer that uses the entry raises (R31). -/
def PTEntry.faultAt (e : PTEntry) (a : Dword) : Option Byte :=
  if e.fault && a == e.base + BitVec.ofNat 64 (64 * e.got.length) then some e.code else none
/-- Fetch a bundle of a line core's next group: from the entry named by the taken test, with the fault that ended its
fill, after a return to a loop's start from its loop entry, else through the atlas (R30 to R32, R38, R400). -/
def State.fetchLineVia (s : State) (k : Nat) (via : Option (BitVec 3)) (back : Option LoopEntry) (a : Dword) :
    State × Fetched FBundle :=
  let e := via.map fun bt => (s.line k).pt.get ⟨bt.toNat, bt.isLt⟩
  match e.bind fun e => e.look a, e.bind fun e => e.faultAt a, back.bind fun e => e.look a with
  | some (some b), _, _ => (s, .got b)
  | some none, _, _ => (s, .absent)
  | none, some code, _ => (s, .bad code a)
  | none, none, some b => (s, .got b)
  | none, none, none => s.fetchLine k a
/-- The bundles of a group up to the one that closes it, at most four; a poisoned bundle ends the fetch. -/
def fetchRun (f : State → Dword → State × Fetched FBundle) : Nat → State → Dword → List FBundle → State × Fetched (List FBundle)
  | 0, s, _, acc => (s, .got acc)
  | n + 1, s, a, acc =>
    let r := f s a
    match r.2 with
    | .got b => if b.bad || hdrStop b.bits then (r.1, .got (acc ++ [b])) else fetchRun f n r.1 (a + 64) (acc ++ [b])
    | .absent => (r.1, .absent)
    | .bad c x => (r.1, .bad c x)
    | .park l x => (r.1, .park l x)
/-- The loop to whose start the wave's next group returned (R38). -/
def Wave.loopBack (w : Wave) : Option LoopEntry :=
  if w.cur.lowest.any fun i => (w.threads.get i).back then w.r.loops.getLast? else none
/-- The next group of a wave's current PC group: the path that led there is that of its lowest thread. -/
def State.fetchGroup (s : State) (w : Wave) : State × Fetched (List FBundle) :=
  let via := w.cur.lowest.bind fun i => (w.threads.get i).via
  fetchRun (fun s a => s.fetchBundle w via w.loopBack a) 4 s w.nextPc []

/-! The operations of a group (R20, R61). -/

/-- An operation of a group: its bundle, its slot and what it decodes to. -/
structure GOp where
  b : Nat
  k : Nat
  i : Instr
  deriving DecidableEq, Repr

/-- Every slot of a group in the order of R61; none when a slot is illegal. -/
def groupSlots (p : Profile) (bs : List FBundle) : Option (List GOp) :=
  ((bs.zipIdx).mapM fun e => (decodeBundle p e.1.bits).map fun l => l.map fun o => ({ b := e.2, k := o.1, i := o.2 } : GOp)).map
    List.flatten
/-- Those that are neither nop nor hint. -/
def liveOps (ops : List GOp) : List GOp := ops.filter fun o => !o.i.isIdle

/-! Illegal encodings (R20, R26, R27, R58 to R60, R90, R316, R317, R419). -/

/-- The closing bundle's header. -/
def lastBits (bs : List FBundle) : Bundle := ((bs.getLast?).map fun b => b.bits).getD 0
def isControl : Instr → Bool
  | .loop _ _ | .call _ _ | .ret _ _ | .exit _ => true
  | _ => false
def isTrapOp : Instr → Bool
  | .trap _ _ | .sysc _ _ | .bkpt _ _ => true
  | _ => false
/-- A surveyor may run an operation in a slot (R316). -/
def surveyorOp (o : GOp) : Bool :=
  o.k ≤ 2 || (match o.i with
    | .ld _ _ | .ldu _ _ | .ldp _ _ | .lds _ _ | .qpush _ _ | .nop _ | .hint _ _ _ => true
    | _ => false)
/-- The queue-window operations stand in the right wave (R317). -/
def windowOpOk (surveyor paired : Bool) : Instr → Bool
  | .qpush _ _ => surveyor
  | .qpop _ _ => !surveyor && paired
  | _ => true
/-- A V operation uses the broadcast port only in a bundle that names it (R58). -/
def bselOk (bs : List FBundle) (o : GOp) : Bool :=
  match o.i.vRole with
  | some (f, _) => !f.bsel || ((bs[o.b]?).map fun b => hdrBpe b.bits).getD false
  | none => true
/-- The tag of a slot's operation. -/
def GOp.tag (o : GOp) : Tag := (o.i.head?.map fun h => h.tag).getD .always
/-- No bundle of a group holds an encoding that traps. -/
def groupLegal (p : Profile) (surveyor paired : Bool) (bs : List FBundle) (slots : List GOp) : Bool :=
  let n := hdrTcnt (lastBits bs)
  let ops := liveOps slots
  let ctl := ops.filter fun o => isControl o.i
  hdrStop (lastBits bs)
    && (bs.zipIdx.all fun e => hdrOk p (e.2 + 1 == bs.length) e.1.bits)
    && (slots.all fun o => (o.tag.outcome.getD 0) ≤ n)
    && (ops.all fun o => bselOk bs o && windowOpOk surveyor paired o.i && (!surveyor || surveyorOp o))
    && ctl.length ≤ 1 && (ctl.all fun o => o.tag == .on0 || (o.tag == .always && n == 0))
    && (ops.filter fun o => isTrapOp o.i).length ≤ 1

/-! Dependence in a group (R23). -/

/-- What one operation, or an untagged reader of the group, reads and writes, p0 apart. -/
structure DepUnit where
  tag : Option Nat
  reads : List Reg
  writes : List Reg
  deriving DecidableEq, Repr
def notP0 (l : List Reg) : List Reg := l.filter fun r => r != .p 0
def GOp.unit (o : GOp) : DepUnit :=
  let guard : List Reg := match o.i.head? with
    | some h => if h.gp == 0 then [] else [.p h.gp.toNat]
    | none => []
  { tag := o.tag.outcome, reads := notP0 (o.i.reads ++ guard), writes := notP0 o.i.writes }
/-- The broadcast ports and the transfer tree. -/
def groupReaders (bs : List FBundle) : List DepUnit :=
  let ports := bs.filterMap fun b =>
    if hdrBpe b.bits then some { tag := none, reads := [.s (hdrBps b.bits).toNat], writes := [] } else none
  let tests : List Reg := (treeOf (lastBits bs)).tests.flatMap fun t => [.p t.pred.toNat, .b t.bt.toNat]
  ports ++ [{ tag := none, reads := notP0 tests, writes := [] }]
def DepUnit.exempt (a b : DepUnit) : Bool :=
  match a.tag, b.tag with
  | some x, some y => x != y
  | _, _ => false
def meetRegs (a b : List Reg) : Bool := a.any fun r => b.any fun q => q == r
def DepUnit.clash (a b : DepUnit) : Bool :=
  !a.exempt b && (meetRegs a.writes b.reads || meetRegs a.reads b.writes || meetRegs a.writes b.writes)
/-- No unit clashes with a later one. -/
def noClash : List DepUnit → Bool
  | [] => true
  | a :: t => t.all (fun b => !a.clash b) && noClash t
def groupIndependent (bs : List FBundle) (ops : List GOp) : Bool := noClash (ops.map GOp.unit ++ groupReaders bs)

/-! The group about to issue (R26, R28). -/

/-- The outcome of a tree in a thread: the first test that hits. -/
def treeOutcome (t : Tree) (r : Regs) (i : Fin 32) : Nat :=
  ((t.tests.zipIdx.find? fun e => r.pred e.1.pred.toNat i != e.1.neg).map fun e => e.2 + 1).getD 0
/-- Threads of each outcome from 0 to 4; on a line core thread 0 decides for all (R383). -/
def treeOutcomes (t : Tree) (r : Regs) (p : Profile) (m : Mask) : List Mask :=
  (List.range 5).map fun k =>
    match p with
    | .c => m &&& Mask.build fun i => treeOutcome t r i == k
    | .d => if treeOutcome t r 0 == k then m else 0
/-- A flight with nothing done. -/
def newFlight (o : Owner) (r : Regs) (pc : Dword) (bs : List FBundle) (m : Mask) (todo : List (Nat × Nat)) : Flight :=
  { owner := o, pc, bundles := bs, lanes := m, outcomes := treeOutcomes (treeOf (lastBits bs)) r o.prof m, todo, cur := (0, 0),
    writes := [], raised := 0, cleared := 0, mode := none, stoch := r.stoch, ctl := .none, waits := [], kills := [],
    meets := [], yielded := false, trap := none, pend := 0, stochW := [], refetch := false, fills := [] }
/-- What an operation of the group would see. -/
def State.opCtx (s : State) (fl : Flight) (w : Wave) (o : GOp) : Ctx :=
  let fl := { fl with cur := (o.b, o.k) }
  let w := s.reader fl w
  { fl, w, prof := fl.owner.prof, run := (o.i.head?.map fun h => runMask w.r fl h).getD 0,
    bits := ((fl.bundles[o.b]?).map fun b => b.bits).getD 0, addr := fl.pc + BitVec.ofNat 64 (64 * o.b),
    core := match fl.owner with | .wave _ => s.coreOf w | .line k => k }

/-! What the checks find. -/

/-- Why a group does not issue: a trap without effect, a park, a wait of its threads, or a halt. -/
inductive Verdict where
  | go
  | trap (code : Byte) (detail : Nat) (m : Mask) (addr : Dword) (sloti : Option Nat := none)
  | park (line : Nat) (addr : Dword)
  | wait (k : WKind)
  | halt (widx : Nat)
  /-- A qpop meets a bookend (R319). -/
  | bookend
  deriving DecidableEq, Repr
/-- The first verdict that is not to go. -/
def Verdict.orElse (v : Verdict) (f : Unit → Verdict) : Verdict := if v == .go then f () else v
/-- The slot of the operation that caused a trap (R423). -/
def Verdict.inSlot (v : Verdict) (k : Nat) : Verdict :=
  match v with
  | .trap code d m a _ => .trap code d m a (some k)
  | _ => v
def firstVerdict {α : Type} (l : List α) (f : α → Verdict) : Verdict :=
  (l.findSome? fun a => let v := f a; if v == .go then none else some v).getD .go

/-! Privilege (R419, R433, R434). -/

/-- The system register that an operation accesses. -/
def srAccess : Instr → Option (Nat × Bool)
  | .rdsr _ o => some (o.srn.toNat, false)
  | .wrsr _ o => some (o.srn.toNat, true)
  | _ => none
/-- A line core runs unprivileged (R433). -/
def privVerdict (priv : Bool) (c : Ctx) (i : Instr) : Verdict :=
  match srAccess i with
  | none => .go
  | some (n, wr) =>
    if c.run == 0 then .go
    else
      if srPriv n wr && !(priv && c.prof == .c) then .trap 0x03 0 c.run (BitVec.ofNat 64 n) else .go

/-! Poison (R437, R438). -/

def poisonTrap (detail : Nat) (m : Mask) : Verdict := if m == 0 then .go else .trap 0x08 detail m 0
/-- The word of predicate n is poisoned: word n of line 132 (R201). -/
def Regs.predBad (r : Regs) (n : Nat) : Bool := n != 0 && r.pbad.getLsbD n
def predTrap (r : Regs) (n : Nat) (m : Mask) : Verdict := if r.predBad n then poisonTrap 132 m else .go
/-- The transfer tree reads its predicates for every issuing thread. -/
def treePoison (fl : Flight) (w : Wave) : Verdict :=
  firstVerdict (treeOf (lastBits fl.bundles)).tests fun t => predTrap w.r t.pred.toNat fl.lanes
/-- The guard of an operation, in every issuing thread whose tag matches. -/
def guardPoison (c : Ctx) (h : Head) : Verdict :=
  predTrap c.w.r h.gp.toNat (match h.tag.outcome with
    | none => c.fl.lanes
    | some k => c.fl.lanes &&& c.fl.outcomes.getD k 0)
/-- The lane that a lane-exchange operation reads for a running lane (R186), its vector register with it. -/
def Ctx.exchange (c : Ctx) (i : Instr) : Option (VFmt × (Fin 32 → Nat)) :=
  match i with
  | .vperm _ o => some (o, fun j => ((c.vb o).get j).toNat % 32)
  | .vrot _ o => some (o, fun j => (j.val + o.c.toNat) % 32)
  | .vshuf _ o => some (o, fun j => (j.val ^^^ o.c.toNat) % 32)
  | .vbcast _ o | .vlane _ o => some (o, fun _ => o.c.toNat % 32)
  | _ => none
/-- Threads for which an operation consumes poison in a vector register: their own words, and for a lane exchange the
words delivered to them too (R159, R437). -/
def Ctx.badLanes (c : Ctx) (i : Instr) (n : Nat) : Mask :=
  let own := (match i with | .hemit _ _ => BitVec.allOnes 32 | _ => c.run) &&& c.w.r.vecBad n
  match c.exchange i with
  | some (o, f) =>
    if n == srcNum o.a then own ||| (c.run &&& Mask.build fun j => (c.w.r.vecBad n).getLsbD (f j)) else own
  | none => own
/-- The operation reads its vector data with their poison (R317). -/
def carriesPoison : Instr → Bool
  | .qpush _ _ => true
  | _ => false
/-- The operation writes its predicate in all 32 lanes, whichever run (R403, R404). -/
def writesAllLanes : Instr → Bool
  | .hemit _ _ | .hfill _ _ | .pget _ _ | .dqpop _ _ => true
  | _ => false
/-- Words that a running operation consumes: vectors, scalars, predicates, then words of which it keeps a part. -/
def Ctx.srcPoison (c : Ctx) (i : Instr) : Verdict :=
  if c.run == 0 then .go
  else
    let bsel : List Reg := match i.vRole with
      | some (o, _) => if o.bsel then [.s (hdrBps c.bits).toNat] else []
      | none => []
    let rs := i.reads ++ bsel
    let v := firstVerdict rs fun r => match r with
      | .v n => if carriesPoison i then .go else poisonTrap n (c.badLanes i n)
      | _ => .go
    let sc := fun (_ : Unit) => firstVerdict rs fun r => match r with
      | .s n => if c.w.r.scBad n then poisonTrap (128 + n / 16) c.run else .go
      | _ => .go
    let pr := fun (_ : Unit) => firstVerdict rs fun r => match r with
      | .p n => predTrap c.w.r n c.run
      | _ => .go
    let kp := fun (_ : Unit) => firstVerdict i.keeps fun n => poisonTrap n (c.run &&& c.w.r.vecBad n)
    let part := fun (_ : Unit) => if c.run == BitVec.allOnes 32 || writesAllLanes i then .go
      else firstVerdict i.writes fun r => match r with
        | .p n => predTrap c.w.r n c.run
        | _ => .go
    (((v.orElse sc).orElse pr).orElse kp).orElse part

/-! Accesses (R266, R282, R351, R376, R404 to R409). -/

/-- A failed check of one lane's access. -/
structure AccFail where
  lane : Fin 32
  order : Nat
  code : Byte
  park : Option Nat
  va : Dword
  deriving DecidableEq, Repr
/-- Of several failures the lowest-numbered check counts, at its lowest lane; `all` names every running thread. -/
def failVerdict (all : Option Mask) (fs : List AccFail) : Verdict :=
  match (fs.map fun f => f.order).min? with
  | none => .go
  | some k =>
    let l := fs.filter fun f => f.order == k
    match l with
    | [] => .go
    | f :: _ =>
      match f.park with
      | some line => .park line f.va
      | none => .trap f.code 0 (all.getD (l.foldl (fun (m : Mask) g => m ||| (1#32 <<< g.lane.val)) 0)) f.va
/-- What the checks of an instruction's accesses find: its failures, and the places of the others. -/
structure AccFound where
  fails : List AccFail
  placed : List AccPlace
  deriving DecidableEq, Repr
/-- The checks of an instruction's accesses. -/
def State.accFails (s : State) (c : Ctx) (sp : Space) (as : List MemAcc) : State × AccFound :=
  let priv := match c.fl.owner with | .wave _ => s.priv c.w | .line _ => false
  as.foldl (fun (acc : State × AccFound) a =>
    let r := acc.1.checkAcc c sp priv a
    let f := acc.2
    match r.2 with
    | .bad k code => (r.1, { f with fails := f.fails ++ [{ lane := a.lane, order := k, code, park := none, va := a.va }] })
    | .park l => (r.1, { f with fails := f.fails ++ [{ lane := a.lane, order := 7, code := 0, park := some l, va := a.va }] })
    | .ok pa mt => (r.1, { f with placed := f.placed ++ [{ at0 := c.fl.cur, lane := a.lane.val, va := a.va, pa, mt }] })
    | .zero => (r.1, { f with placed := f.placed ++
        [{ at0 := c.fl.cur, lane := a.lane.val, va := a.va, pa := 0, mt := 0, zero := true }] })) (s, { fails := [], placed := [] })
/-- The instruction makes one access for all its threads. -/
def oneAccess : Instr → Bool
  | .ldu _ _ | .stu _ _ | .mon _ _ | .cst4 _ _ => true
  | _ => false
/-- A line-buffer range of n bytes named by a scalar. -/
def rangeVerdict (m : Mask) (a : Dword) (align n : Nat) : Verdict :=
  if a.toNat % align != 0 then .trap 0x04 0 m a
  else if 393216 < a.toNat + n then .trap 0x05 0 m a else .go
def TaskChk.verdict (m : Mask) : TaskChk → Verdict
  | .ok => .go
  | .trap code a => .trap code 0 m a
  | .park l a => .park l a
/-- The checks of a running operation of the memory chapter beyond poison, with the places of its accesses. -/
def State.memVerdict (s : State) (c : Ctx) (i : Instr) (sp : Space) (as : List MemAcc) : State × Verdict × List AccPlace :=
  let r := s.accFails c sp as
  (r.1, failVerdict (if oneAccess i then some c.run else none) r.2.fails, r.2.placed)
/-- What an operation that may change the words of a continuation queue does to memory. -/
def memEffect : Instr → Option (State → Host.Outcome State Fault Refusal)
  | .st h o => some (execSt h o)
  | .stu h o => some (execStu h o)
  | .ldMark h o => some (execLdMark h o)
  | .atom h o => some (execAtom h o)
  | .red h o => some (execRed h o)
  | .cst4 h o => some (execCst4 h o)
  | .vatom h o => some (execVatom h o)
  | .fork h o => some (execFork h o)
  | .join h o => some (execJoin h o)
  | _ => none
/-- Memory as the operations of a group before an operation will leave it, everything released: what a fork or a join of the
group will find there (R22, R311). -/
def State.ahead (s : State) (fl : Flight) (w : Wave) (before : List GOp) : State :=
  let v := before.foldl (fun (s : State) o =>
    match memEffect o.i with
    | none => s
    | some f => match f (s.modFlight fun x => { x with cur := (o.b, o.k) }) with
      | .next t => t
      | _ => s) { s with flight := some fl }
  let g := s.coreOf w
  (v.wcFlush g (BitVec.allOnes 16)).writeBackDie (dieOf g)
/-- The checks of any other running operation beyond poison, with the places of its accesses. -/
def State.unitVerdict (s : State) (c : Ctx) (before : List GOp) (i : Instr) : State × Verdict × List AccPlace :=
  let sc (n : BitVec 6) : Dword := c.w.r.sc n.toNat
  let mis (a : Dword) : Verdict := if a.toNat % 64 != 0 then .trap 0x04 0 c.run a else .go
  let task (hdr rcd : Dword) (join : Bool) : State × Verdict × List AccPlace :=
    let r := s.taskCheck (s.ahead c.fl c.w before) c hdr rcd join
    (r.1, r.2.1.verdict c.run, r.2.2)
  let only (v : Verdict) : State × Verdict × List AccPlace := (s, v, [])
  match i with
  | .emit _ o | .emitRetest _ o => only ((mis (sc o.a)).orElse fun _ => mis (sc o.b))
  | .emitClose _ o => only (mis (sc o.b))
  | .tex _ o | .tld _ o =>
    let r := s.accFails c (.mem .load) (c.descAcc o)
    (r.1, failVerdict (some c.run) r.2.fails, r.2.placed)
  | .fork _ o => task (sc o.a) (sc o.b) false
  | .join _ o => task (sc o.a) (sc o.b) true
  | .dqpop _ o => only (rangeVerdict c.run (sc o.a) 64 64)
  | .atlset _ o =>
    let a := (sc o.a).toNat
    let n := (atlCount (sc o.b)).2
    only (if a % 8 != 0 then .trap 0x04 0 c.run (sc o.a)
        else match (List.range n).find? fun k => !s.lineRange (a + 8 * k) 8 false with
          | some k => .trap 0x05 0 c.run (sc o.a + BitVec.ofNat 64 (8 * k))
          | none => .go)
  | .xwld _ o | .xmma _ o | .xact _ o | .xdrain _ o =>
    only (match xRange (s.ifmtAt c) i with
      | some (al, n) => rangeVerdict c.run (sc o.s) al n
      | none => .go)
  | _ =>
    match Instr.fetch i with
    | none => only .go
    | some (kind, o) =>
      match (s.fdLanes c kind o).2 with
      | .inl f => only (.trap f.code 0 c.run f.va)
      | .inr l =>
        let fs := l.filterMap fun e => match e.2 with
          | .inl f => some ({ lane := e.1, order := f.order, code := f.code, park := none, va := f.va } : AccFail)
          | .inr _ => none
        only (failVerdict none fs)
/-- One operation, given those of its group before it: its guard and its words, then its accesses. -/
def State.opVerdict (s : State) (fl : Flight) (w : Wave) (before : List GOp) (o : GOp) : State × Verdict × List AccPlace :=
  let c := s.opCtx fl w o
  let v := ((o.i.head?.map fun h => guardPoison c h).getD .go).orElse fun _ => c.srcPoison o.i
  if v != .go then (s, v, [])
  else if c.run == 0 then (s, .go, [])
  else match c.accesses o.i with
    | some (sp, as) => s.memVerdict c o.i sp as
    | none => s.unitVerdict c before o.i
/-- The operations of a group in turn, to the first that does not go; the places found so far stand in the flight. -/
def State.opsVerdict (s : State) (fl : Flight) (w : Wave) (before : List GOp) : List GOp → State × Verdict × List AccPlace
  | [] => (s, .go, fl.placed)
  | o :: t =>
    let r := s.opVerdict fl w before o
    if r.2.1 == .go then r.1.opsVerdict { fl with placed := fl.placed ++ r.2.2 } w (before ++ [o]) t
    else (r.1, r.2.1.inSlot o.k, [])

/-! Watchpoints (R502, R503). -/

/-- What a watchpoint sees of a kind of access: reads, writes. -/
def watchKind : Instr → Bool × Bool
  | .ld _ _ | .ldu _ _ | .ldp _ _ | .ldMark _ _ | .mon _ _ => (true, false)
  | .st _ _ | .stu _ _ => (false, true)
  | .atom _ _ | .red _ _ | .cst4 _ _ | .vatom _ _ => (true, true)
  | _ => (false, false)
/-- The bytes that a watchpoint sees: of a cst4 line the words of the running lanes (R282, R503). -/
def Ctx.watched (c : Ctx) (i : Instr) (a : MemAcc) : List (Dword × Nat) :=
  match i with
  | .cst4 _ _ => c.run.list.map fun l => (a.va + BitVec.ofNat 64 (4 * l.val), 4)
  | _ => [(a.va, a.size)]
/-- Watchpoint w matches one of the bytes of an access. -/
def Debug.watches (d : Debug) (k : Nat) (rd wr fx : Bool) (a : Dword) (n : Nat) : Bool :=
  let c := d.watchCtl.toList.getD k 0
  let q := 2 ^ min (bits c 9 4) 40
  let va := bits (d.watchAddr.toList.getD k 0) 55 0
  bit c 0 && ((bit c 1 && rd) || (bit c 2 && wr) || (bit c 3 && fx)) && decide (a.toNat / q ≤ va / q)
    && decide (va / q ≤ (a.toNat + n - 1) / q)
/-- The first watchpoint that a group of the armed slot matches. -/
def State.watchHit (s : State) (fl : Flight) (w : Wave) (ops : List GOp) : Option Nat :=
  if !s.armedFor (s.slotOf w) || w.c.wsup then none
  else
    let fetched (k : Nat) : Bool := (List.range fl.bundles.length).any fun b =>
      s.dbg.watches k false false true (fl.pc + BitVec.ofNat 64 (64 * b)) 64
    let data (k : Nat) : Bool := ops.any fun o =>
      let q := watchKind o.i
      let c := s.opCtx fl w o
      match c.accesses o.i with
      | some (.mem _, as) => as.any fun a => (c.watched o.i a).any fun b => s.dbg.watches k q.1 q.2 false b.1 b.2
      | _ => false
    (List.range 8).find? fun k => fetched k || data k

/-! Waits that replay the group (R306, R311, R318, R351). -/

/-- Whether a fork or join would push, in memory as the operations before it leave it: a join does where its decrement
gives zero. -/
def State.pushes (v : State) (c : Ctx) (i : Instr) : Bool :=
  match i with
  | .fork _ _ => true
  | .join _ o => match (v.taskAcc c .atom false (c.w.r.sc o.b.toNat + 0x10)).2 with
    | .inr pa => v.dieWord c.core pa == 1
    | .inl _ => false
  | _ => false
/-- Running entries on a window before an operation of the group. -/
def windowUse (pop : Bool) (q : BitVec 3) (i : Instr) : Nat :=
  match i with
  | .qpush _ o => if !pop && o.q == q then 1 else 0
  | .qpop _ o => if pop && o.q == q then 1 else 0
  | _ => 0
/-- The request of a running emit: whether it is a close, and its draw record. -/
def Ctx.emitDraw (c : Ctx) (i : Instr) : List (Bool × Dword) :=
  if c.run == 0 then []
  else match i with
    | .emit _ o | .emitRetest _ o => [(false, c.w.r.sc o.b.toNat)]
    | .emitClose _ o => [(true, c.w.r.sc o.b.toNat)]
    | _ => []
def natSum (l : List Nat) : Nat := l.foldl (· + ·) 0
/-- Whether an operation must wait, given the operations of the group before it and memory as they leave it. -/
def State.waitVerdict (s : State) (c : Ctx) (before : List (Ctx × Instr)) (ahead : Unit → State) (i : Instr) : Verdict :=
  if c.run == 0 then .go
  else match i with
    | .dlaunch _ o =>
      let earlier := natSum (before.map fun e => match e.2 with | .dlaunch _ _ => (if e.1.run == 0 then 0 else 1) | _ => 0)
      let used := ((s.group? c.w.group).map fun g => g.bench.length).getD 0
      if !bit o.md 5 && 4 ≤ used + earlier then .wait .bench else .go
    | .fork _ _ | .join _ _ =>
      let hdr := match i with
        | .fork _ o => c.w.r.sc o.a.toNat
        | .join _ o => c.w.r.sc o.a.toNat
        | _ => 0
      let v := ahead ()
      match (v.queueOf c hdr).2 with
      | .inl _ => .go
      | .inr q => if v.pushes c i && q.full then .wait .contq else .go
    | .qpush _ o =>
      match c.w.pair.bind fun u => s.wave? u with
      | none => .go
      | some v =>
        let n := natSum (before.map fun e => if e.1.run == 0 then 0 else windowUse false o.q e.2)
        if 8 ≤ (v.window o.q.toNat).length + n then .wait .window else .go
    | .qpop _ o =>
      let n := natSum (before.map fun e => if e.1.run == 0 then 0 else windowUse true o.q e.2)
      if ((c.w.window o.q.toNat)[n]?).any fun e => e.bookend then .bookend
      else if n < (c.w.window o.q.toNat).length then .go
      else if (c.w.pair.bind fun u => s.wave? u).any fun v => v.live != 0 then .wait .window
      else .trap 0x0A o.q.toNat c.fl.lanes 0
    | .emit _ _ | .emitRetest _ _ | .emitClose _ _ =>
      let as := (before ++ [(c, i)]).flatMap fun e => e.1.emitDraw e.2
      if s.cullRoom (dieOf c.core) (s.slotOf c.w) as then .go else .wait .cull
    | _ => .go
/-- The waits of a group's operations in turn. -/
def State.waitsOf (s : State) (fl : Flight) (w : Wave) : List GOp → List GOp → Verdict
  | _, [] => .go
  | before, o :: t =>
    let c := s.opCtx fl w o
    let ops := before.map fun b => (s.opCtx fl w b, b.i)
    ((s.waitVerdict c ops (fun _ => s.ahead fl w before) o.i).inSlot o.k).orElse fun _ => s.waitsOf fl w (before ++ [o]) t

/-! All checks of a group in their order (R419). -/

/-- The encoding checks, which look at no register. -/
def encodingVerdict (p : Profile) (surveyor paired : Bool) (bs : List FBundle) (m : Mask) : Option (List GOp) × Verdict :=
  match groupSlots p bs with
  | none => (none, .trap 0x01 0 m 0)
  | some slots =>
    if !groupLegal p surveyor paired bs slots then (none, .trap 0x01 0 m 0)
    else if !groupIndependent bs (liveOps slots) then (none, .trap 0x02 0 m 0)
    else (some (liveOps slots), .go)
/-- The checks that look at registers and memory, with the places of the group's accesses. -/
def State.dataVerdict (s : State) (fl : Flight) (w : Wave) (ops : List GOp) : State × Verdict × List AccPlace :=
  let priv := match fl.owner with | .wave _ => s.priv w | .line _ => false
  let v := firstVerdict ops fun o => (privVerdict priv (s.opCtx fl w o) o.i).inSlot o.k
  let v := v.orElse fun _ => treePoison fl w
  if v != .go then (s, v, []) else s.opsVerdict fl w [] ops
/-- Watchpoints, then waits; a group that traps is not tested for watchpoints (R503). -/
def State.holdVerdict (s : State) (fl : Flight) (w : Wave) (ops : List GOp) : Verdict :=
  match fl.owner with
  | .line _ => .go
  | .wave _ =>
    match s.waitsOf fl w [] ops, s.watchHit fl w ops with
    | .trap code d m a k, _ => .trap code d m a k
    | _, some k => .halt k
    | v, none => v

end Sys2Proof.Machine
end

