-- ==== Sys2Proof/Machine/Commit.lean ====
section
/-! DEFINITION. The end of an instruction group: its transfer of control, its register writes, and the states of its
threads (01_sequential_machine.md R22, R26, R35 to R38, 03_scalar_and_control_instructions.md R90 to R95,
04_waves_groups_and_regions.md R118 to R121, 15_display_processor.md R34, R383, R397). -/
namespace Sys2Proof.Machine
open Sys2Proof

/-! The loop stack (R35, R36, R92). -/

/-- What R36 makes of a nextPC and a stack, top first. -/
structure LoopRun where
  pc : Dword
  stack : List LoopEntry
  popped : List LoopEntry
  back : Bool
  deriving DecidableEq, Repr
def loopRun (taken : Bool) (last pc : Dword) : Nat → List LoopEntry → LoopRun
  | 0, st => { pc, stack := st, popped := [], back := false }
  | _ + 1, [] => { pc, stack := [], popped := [], back := false }
  | n + 1, e :: t =>
    let pop : LoopRun :=
      let r := loopRun taken last pc n t
      { r with popped := e :: r.popped }
    if taken then
      (if pc.toNat < e.start.toNat || e.stop.toNat < pc.toNat then pop
       else { pc, stack := e :: t, popped := [], back := false })
    else if last == e.stop then
      (if 1 < e.count.toNat then
         { pc := e.start, stack := { e with count := e.count - 1 } :: t, popped := [], back := true }
       else pop)
    else { pc, stack := e :: t, popped := [], back := false }
/-- The entry of a loop is pushed; the bottom one of a full stack is lost. The list is bottom first (R200). -/
def pushLoop (st : List LoopEntry) (e : LoopEntry) : List LoopEntry := (if st.length < 4 then st else st.drop 1) ++ [e]
/-- The stack on which R36 runs, bottom first. -/
def Flight.loopsBefore (fl : Flight) (r : Regs) : List LoopEntry :=
  match fl.ctl with
  | .loop m a b n => if m != 0 && n != 0 then pushLoop r.loops { start := a, stop := b, count := n } else r.loops
  | _ => r.loops

/-! The next PC of a thread (R26, R92 to R94). -/

/-- A next PC before R36: whether it is a taken transfer, and the register that names its target. -/
structure NextPc where
  pc : Dword
  taken : Bool
  via : Option (BitVec 3)
  deriving DecidableEq, Repr
/-- Address of a group's last bundle, and the one after it. -/
def Flight.last (fl : Flight) : Dword := fl.pc + BitVec.ofNat 64 (64 * (fl.bundles.length - 1))
def Flight.after (fl : Flight) : Dword := fl.pc + BitVec.ofNat 64 (64 * fl.bundles.length)
/-- The thread begins to wait at a barrier after the group. -/
def Flight.atBar (fl : Flight) (i : Fin 32) : Bool :=
  fl.waits.any fun q => (q.kind == .bar || q.kind == .vote || q.kind == .barc) && q.m.has i
/-- The next PC of a thread; one that waits at a barrier goes on by fall-through (R193, R472), also
where a call or a loop of count 0 of its group runs in it, for which R90, R92 and R93 give another next PC (log entry
117). -/
def Flight.next (fl : Flight) (r : Regs) (t : Tree) (i : Fin 32) : NextPc :=
  let fall : NextPc := { pc := fl.last + 64, taken := false, via := none }
  if fl.atBar i then fall else
  match t.tests[treeOutcome t r i - 1]?, treeOutcome t r i with
  | some x, _ + 1 => { pc := btAddr (r.bt x.bt.toNat), taken := true, via := some x.bt }
  | _, _ =>
    match fl.ctl with
    | .call m a bt => if m.has i then { pc := a, taken := true, via := some bt } else fall
    | .loop m _ b n => if m.has i && n == 0 then { pc := b + 64, taken := false, via := none } else fall
    | _ => fall
/-- What R36 makes of a thread's next PC. -/
def Flight.runLoop (fl : Flight) (r : Regs) (x : NextPc) : LoopRun :=
  loopRun x.taken fl.last x.pc 4 (fl.loopsBefore r).reverse
/-- The core holds the first four bundles of the top loop's body as they issue, for its next return (R38). -/
def LoopEntry.capture (fl : Flight) (e : LoopEntry) : LoopEntry :=
  if fl.pc == e.start + BitVec.ofNat 64 (64 * e.body.length) && fl.last.toNat ≤ e.stop.toNat then
    { e with body := (e.body ++ fl.bundles).take 4 }
  else e
/-- Loop entries after a group: an acquire that empties the prepared targets empties them too (R247). -/
def Flight.holdBodies (fl : Flight) (l : List LoopEntry) : List LoopEntry :=
  if fl.refetch then l.map fun e => { e with body := [] }
  else match l.getLast? with
    | some e => l.dropLast ++ [e.capture fl]
    | none => l
/-- The transfer is backward: taken, or a return to a loop's start (R26, R38). -/
def Flight.backward (fl : Flight) (x : NextPc) (l : LoopRun) : Bool :=
  l.back || (x.taken && decide (x.pc.toNat ≤ fl.pc.toNat))
/-- The threads that exit, and their exit address (R95). -/
def Flight.exits (fl : Flight) : Mask × Dword :=
  match fl.ctl with
  | .exit m a => (m, a)
  | _ => (0, 0)

/-! Register writes (R22, R438). -/

/-- The line of R201 that a write touches. -/
def RegWrite.line : RegWrite → Option Nat
  | .v r _ _ _ => some r.toNat
  | .p _ _ _ => some 132
  | .s r _ _ => some (128 + r.toNat / 16)
  | .b _ _ | .flags _ => none
/-- A write of a wave of a compute core makes its line live and dirty (R205, R207). -/
def Wave.write (w : Wave) (x : RegWrite) : Wave :=
  let w := { w with r := w.r.write x }
  match x.line with
  | some n => w.dirtyLine n
  | none => w
/-- Flags, mode and stochastic state after a group (R85 to R87, R145, R146). -/
def Flight.context (fl : Flight) (r : Regs) : Regs :=
  let st := fl.stochW.foldl (fun (s : Stoch) e => s.setWord e.1 e.2) fl.stoch
  { r with flags := (r.flags &&& ~~~fl.cleared) ||| fl.raised, mode := fl.mode.getD r.mode, stoch := st }

/-! Meetings and selection (R119 to R121). -/

/-- A sibling still counts toward the meeting at M. -/
def Wave.stillOut (w : Wave) (m : Dword) : Bool :=
  lanes.any fun i =>
    let t := w.threads.get i
    t.st != .exited && !(t.st == .held && t.pc == m) && t.meet == m
/-- The threads held at M go on together; their group becomes current. -/
def Wave.release (w : Wave) (m : Dword) : Wave :=
  let h := Mask.build fun i => (w.threads.get i).st == .held && (w.threads.get i).pc == m
  let w := w.setThreads h fun _ t => { t with st := .runnable, meet := 0 }
  { w with cur := w.pcGroup m, cursor := m, c := { w.c with wdog := 0 } }
/-- Every meeting that no sibling keeps open; the flag tells whether one was released. Where one group releases several
meetings, R121 makes each of them current and does not say which stays so: the model's choice is the last in the order
of the lowest lanes held there (DESIGN CHOICE, log entry 100). -/
def Wave.releaseAll (w : Wave) : Wave × Bool :=
  let ms := ((w.inState .held).list.map fun i => (w.threads.get i).pc).eraseDups
  let free := ms.filter fun m => !w.stillOut m
  (free.foldl (fun (w : Wave) m => w.release m) w, !free.isEmpty)
/-- Threads of a group take their next PCs, each with the way it got there; holds are examined, then a group is
selected. -/
def Wave.settle (w : Wave) (m : Mask) (pc : Fin 32 → Dword) (via : Fin 32 → Option (BitVec 3)) (back : Fin 32 → Bool)
    (rotate : Bool) : Wave :=
  let w := w.setThreads m fun i t =>
    let t := { t with pc := pc i, via := via i, back := back i }
    if t.st == .runnable && t.meet != 0 && t.pc == t.meet then { t with st := .held } else t
  let r := w.releaseAll
  if r.2 then r.1
  else
    let w := r.1
    let ready := (m &&& w.inState .runnable).list.map fun i => (w.threads.get i).pc
    match rotate, leastPc ready with
    | false, some p => { w with cur := w.pcGroup p }
    | _, _ => w.select

/-! Waits that follow a group (R193 to R197, R285, R472). -/

/-- Threads begin a wait; a wait on a monitor that is not armed, or has triggered, ends at once. A
thread that begins two waits in one group holds the last one (R200; log entry 124). -/
def Wave.beginWait (w : Wave) (pc : Dword) (last : Nat) (goes : Mask) (q : WaitReq) : Wave :=
  let m := q.m &&& goes
  let wait (w : Wave) : Wave := w.setThreads m fun i t =>
    { t with st := .waiting, wkind := q.kind, wpd := q.pd, vform := q.vform, vval := q.votes.has i,
             wend := BitVec.ofNat 48 (if q.cycles == 0 then 0 else last + q.cycles + (if q.kind == .sleep then 1 else 0)),
             wfrom := last, barc := if q.kind == .barc && q.vform != 1 then pc else t.barc,
             close := q.kind == .barc && q.vform == 1 }
  let pred (w : Wave) (v : Bool) : Wave := m.list.foldl (fun (w : Wave) i => w.putPred i q.pd.toNat v) w
  if m == 0 then w
  else if q.kind == .wait || q.kind == .waitLim then
    (match w.c.mon with
      | none => pred w false
      | some _ =>
        if w.c.monTrig then pred { w with c := { w.c with mon := none, monTrig := false } } true else wait w)
  else wait w
/-- The group's barrier keeps what votes contribute, that of a thread which exits after the same group too (R95, R196). -/
def Group.addVotes (g : Group) (issued : Mask) (q : WaitReq) : Group :=
  let m := q.m &&& issued
  if q.kind == .vote then
    { g with voteT := g.voteT || (m &&& q.votes) != 0, voteF := g.voteF || (m &&& ~~~q.votes) != 0 }
  else g

/-! The commit of a wave's group. -/

/-- Registers after a group: lines that die, then its writes, then its tokens pending. -/
def Wave.results (w : Wave) (fl : Flight) : Wave :=
  let w := fl.kills.foldl (fun (w : Wave) n => w.killLine n.toNat) w
  let w := fl.writes.foldl (fun (w : Wave) x => w.write x.w) w
  let w := (List.range 64).foldl (fun (w : Wave) k =>
    if bit fl.pend k then
      ({ w with c := { w.c with tokPend := w.c.tokPend ||| (1#64 <<< k),
                                kept := w.c.kept.filter fun e => e.1.toNat != k } }).dirtyLine (128 + k / 16)
    else w) w
  { w with r := fl.context w.r }
/-- Prepared targets after a group whose last bundle issues in a cycle: an acquire empties them all, and each write of a
register starts a fill (R30, R31). -/
def Wave.refill (w : Wave) (fl : Flight) (last : Nat) : Wave :=
  let w := if fl.refetch then { w with targets := Vector.replicate 8 PTEntry.blank } else w
  { w with targets := fl.fills.foldl (fun (v : Vector PTEntry 8) f =>
      v.setIfInBounds f.1.toNat (PTEntry.start f.2 last)) w.targets }
/-- The registers that now await this group's results, and its flags (R33, R87). -/
def Wave.noteAwait (w : Wave) (fl : Flight) (cycle : Nat) : Wave :=
  let news := fl.writes.map fun x => (x.w.code, cycle + x.lat)
  let flags := if fl.raised == 0 then [] else [(232, cycle + fl.flagsIn)]
  { w with await := (w.await.filter fun e => cycle < e.2) ++ (news ++ flags).filter fun e => cycle + fl.bundles.length < e.2 }
/-- A transfer to an empty entry starts its fill (R32). -/
def Wave.fillTaken (w : Wave) (goes : Mask) (via : Fin 32 → Option (BitVec 3)) (last : Nat) : Wave :=
  { w with targets := goes.list.foldl (fun (v : Vector PTEntry 8) i =>
      match via i with
      | some bt =>
        if (v.get ⟨bt.toNat, bt.isLt⟩).isEmpty then v.setIfInBounds bt.toNat (PTEntry.start (w.r.bt bt.toNat) last) else v
      | none => v) w.targets }
/-- The lines that a group writes become the most recently used; those that died leave the cache. -/
def State.touchAll (s : State) (g u : Nat) (fl : Flight) : State :=
  let s := fl.kills.foldl (fun s n => s.untrack g u n.toNat) s
  let ws := fl.writes.filterMap fun x => x.w.line
  let ts := (List.range 64).filterMap fun k => if bit fl.pend k then some (128 + k / 16) else none
  (ws ++ ts).eraseDups.foldl (fun s n => s.touchLine g u n) s
/-- Loop entries popped by a group of a counted wave leave a snapshot each, and an EVENT record (R506). -/
def State.loopSnapshots (s : State) (w : Wave) (es : List LoopEntry) : State :=
  let g := s.coreOf w
  let k := s.core g
  if k.counted (s.slotOf w) then
    es.foldl (fun s e => (s.snapshot g 0 e.stop.toNat w.ctx.toNat).traceEvent g w 9 0 e.stop.toNat) s
  else s
/-- A push or pop of a queue window lets the other wave of the pair look again (R318). -/
def windowOps (fl : Flight) : Bool :=
  fl.bundles.any fun b => slotOpc (slotOf b.bits 5) == 0x07 || slotOpc (slotOf b.bits 4) == 0x08
/-- What a trap or a breakpoint does after its group (R419, R421, R430, R432, R498). -/
def State.groupTrap (s : State) (w : Wave) (fl : Flight) (q : TrapReq) (next : Fin 32 → Dword) (goes : Mask) (rot : Bool) :
    State :=
  let g := s.coreOf w
  let s := s.traceEvent g w 5 q.code.toNat fl.pc.toNat
  let nx := ((q.m.lowest).map next).getD fl.after
  let r := s.waveRec w 0 q.code 0 fl.pc nx q.m q.addr q.info
  s.takeTrap { r with sloti := some q.slot, rotate := rot,
                      nexts := lanes.map fun i => if goes.has i then some (next i) else none }
/-- The wave stands after its group, where that was the one of a debug step (R501). -/
def State.endStep (s : State) (u : Nat) (pc : Dword) : State :=
  match s.wave? u with
  | none => s
  | some w =>
    if !w.c.stepOnce then s
    else
      let s := s.modWave u fun (w : Wave) => { w with c := { w.c with halted := true, stepOnce := false } }
      let d := { s.dbg with cause := 5, core := s.coreOf w, aslot := w.slot, widx := 0, pc := pc, halted := true }
      let s := { s with dbg := d }
      if w.isActive then s.traceEvent (s.coreOf w) w 7 0 w.nextPc.toNat else s
/-- The threads that began to wait after a trapping group go on from there once their wait ends (R193, R419). -/
def Wave.waitersGoOn (w : Wave) (m : Mask) (pc : Fin 32 → Dword) : Wave :=
  w.setThreads (m &&& w.inState .waiting) fun i t => { t with pc := pc i, via := none, back := false }
/-- Threads that exit with the group of their vote keep the form and the predicate that the generation gives them (R95,
R196). -/
def Wave.leaveVote (w : Wave) (gone : Mask) (q : WaitReq) : Wave :=
  if q.kind == .vote then
    w.setThreads (q.m &&& gone) fun i t =>
      { t with wend := 0, wpd := q.pd, vform := q.vform, vval := q.votes.has i, voted := true }
  else w
/-- BR of a wave's group: transfer, results and thread states, all at once. The stack changes are those of the issuing
thread of lowest lane (R37); where that thread exits, R95 does not apply R36 for it and the spec does not say whose
changes count: the model's choice is the lowest lane that goes on (DESIGN CHOICE, log entry 98). Of two meet operations
that run in one thread the last in program order holds (R190; log entry 123). -/
def State.commitWave (s : State) (fl : Flight) (u : Nat) (t : Tree) : State :=
  let s := { s with flight := none }
  match s.wave? u with
  | none => s
  | some w =>
    let g := s.coreOf w
    let gen := ((s.group? w.group).map fun x => x.barGen).getD 0
    let bars := fl.waits.any fun q => (q.kind == .bar || q.kind == .vote) && q.m != 0
    let ex := fl.exits
    let goes := fl.lanes &&& ~~~ex.1
    let nx (i : Fin 32) : NextPc := fl.next w.r t i
    let lr (i : Fin 32) : LoopRun := fl.runLoop w.r (nx i)
    let rot := fl.yielded || goes.list.any fun i => fl.backward (nx i) (lr i)
    let lead := goes.lowest.map lr
    let loops := match lead with | some l => l.stack.reverse | none => w.r.loops
    let popped := match lead with | some l => l.popped | none => []
    let brk := fl.trap.any fun q => q.code == 0x0B && s.armedFor (s.slotOf w)
    let stop := fl.trap.isSome && !brk
    let last := s.cycle + (fl.bundles.length - 1)
    let s := s.touchAll g u fl
    let s := s.modGroup w.group fun (x : Group) => fl.waits.foldl (fun x q => x.addVotes fl.lanes q) x
    let via (i : Fin 32) : Option (BitVec 3) := if (lr i).back then none else (nx i).via
    let s := s.modWave u fun w =>
      let w := w.results fl
      let w := { w with r := { w.r with loops := fl.holdBodies loops }, issued := w.issued + 1 }
      let w := w.setThreads ex.1 fun _ t => { t with st := .exited, pc := ex.2, wfrom := s.cycle }
      let w := fl.waits.foldl (fun (w : Wave) q => w.leaveVote ex.1 q) w
      let w := w.setThreads fl.lanes fun i t =>
        { t with meet := fl.meets.foldl (fun (a : Dword) e => if e.1.has i then e.2.getD i.val a else a) t.meet }
      let w := fl.waits.foldl (fun (w : Wave) q => w.beginWait fl.pc last goes q) w
      let w := if bars then { w with c := { w.c with barGen := gen } } else w
      let w := w.noteAwait fl s.cycle
      let w := (w.refill fl last).fillTaken goes via last
      if stop then (w.waitersGoOn goes fun i => (lr i).pc).regroup
      else w.settle goes (fun i => (lr i).pc) via (fun i => (lr i).back) rot
    let s := s.loopSnapshots w popped
    let s := match fl.trap, s.wave? u with
      | some q, some v =>
        if stop then s.groupTrap v fl q (fun i => (lr i).pc) goes rot
        else s.haltTrigger (s.slotOf v) 1 g v.slot 0 fl.pc
      | _, _ => s
    let s := s.endStep u fl.pc
    let s := if windowOps fl then s.wakeKind .window fun x => w.pair == some x.uid else s
    let s := match s.wave? u with
      | some v => if v.live == 0 && ex.1 != 0 then s.traceEvent g v 6 0 ex.2.toNat else s
      | none => s
    let s := if ex.1 != 0 then s.afterExit u last else s
    (s.checkBarrier w.group last).noteBarc w.group

/-! The commit of a line core's group (R34, R383, R397). -/

/-- Landings due by a counted cycle reach the registers. -/
def LineCore.land (l : LineCore) : LineCore :=
  { l with wave := l.wave.map (l.landed l.cnt), pend := l.pend.filter fun p => !decide (p.cycle ≤ l.cnt) }
/-- BR of a line core's group: thread 0 decides for all. -/
def State.commitLine (s : State) (fl : Flight) (k : Nat) (t : Tree) : State :=
  let s := { s with flight := none }
  let l := s.line k
  match l.wave with
  | none => s
  | some w =>
    let n := fl.bundles.length
    let closing := l.run.any fun r => r.closing
    let x := fl.next w.r t 0
    let r := fl.runLoop w.r x
    let via := if r.back then none else x.via
    let end0 := l.cnt + n - 1
    let pt := fl.fills.foldl (fun (p : Vector PTEntry 8) f => p.setIfInBounds f.1.toNat (PTEntry.start f.2 end0))
      (if fl.refetch then Vector.replicate 8 PTEntry.blank else l.pt)
    let pt := match via with
      | some bt => if (pt.get ⟨bt.toNat, bt.isLt⟩).isEmpty then pt.setIfInBounds bt.toNat (PTEntry.start (w.r.bt bt.toNat) end0)
                   else pt
      | none => pt
    let w := { w with r := { (fl.context w.r) with loops := fl.holdBodies r.stack.reverse }, issued := w.issued + 1 }
    let w := { w with threads := w.threads.map fun t => { t with pc := r.pc, via := via, back := r.back } }
    let drawn := l.stochPend ++ fl.draws.map fun e => (l.cnt + e.1, e.2)
    let put (st : Stoch) : Stoch := fl.stochW.foldl (fun (s : Stoch) e => s.setWord e.1 e.2) st
    let l := { l with wave := some w, cnt := l.cnt + n, free := 45 * (l.base + n), pt := pt,
                      stochSeen := put (stochAt l.stochSeen drawn end0),
                      stochPend := (drawn.dropWhile fun e => e.1 ≤ end0).map fun e => (e.1, put e.2),
                      pend := l.pend ++ fl.writes.map fun (q : LatWrite) => { cycle := l.cnt + q.lat, w := q.w },
                      atlas := l.atlasNext.foldl (fun (m : List (Nat × Dword)) e => putKey 0 e.1 e.2 m) l.atlas,
                      atlasFrom := if l.atlasNext.isEmpty then l.atlasFrom else none, atlasNext := [] }
    let s := s.setLine l
    match fl.trap with
    | some q => s.lineTrap k q.code q.addr fl.pc r.pc q.m (some q.slot) q.info
    | none => if fl.exits.1 != 0 || closing then s.endRun k false else s

/-- BR (R26): the transfer tree of the group in flight, and with it the end of the group. -/
def execBr (t : Tree) (s : State) : Host.Outcome State Fault Refusal :=
  match s.flight with
  | none => .fault .noGroup
  | some fl =>
    match fl.owner with
    | .wave u => .next (s.commitWave fl u t)
    | .line k => .next (s.commitLine fl k t)

end Sys2Proof.Machine
end

