-- ==== Sys2Proof/Machine/Issue.lean ====
section
/-! DEFINITION. Issue: readiness of a wave and the selection among waves (04_waves_groups_and_regions.md R123, R124),
the holds of a group (01_sequential_machine.md R33, 07_storage_and_translation.md R208, R218), the start of a group on
a compute core and on a line core, the fill of prepared targets (R31) and the watchdog (R442). -/
namespace Sys2Proof.Machine
open Sys2Proof

/-- Waves of a core, oldest first. -/
def State.wavesOn (s : State) (g : Nat) : List Wave := s.waves.filter fun w => s.coreOf w == g

/-! Lines that a group needs (R123, R129, R205, R208). -/

/-- An operation writes every word of the lines of its vector destinations. -/
def Ctx.wholeLine (c : Ctx) (r : Reg) : Bool :=
  match r with
  | .v _ => c.run == BitVec.allOnes 32
  | _ => false
/-- The lines that the group reads, those of which it writes a part, and those that it writes. -/
def State.groupLines (s : State) (w : Wave) (fl : Flight) (ops : List GOp) : List Nat × List Nat :=
  let reads := ops.flatMap (fun o => o.unit.reads) ++ (groupReaders fl.bundles).flatMap fun u => u.reads
  let part := ops.flatMap fun o => let c := s.opCtx fl w o; o.unit.writes.filter fun r => !c.wholeLine r
  let writes := ops.flatMap fun o => o.unit.writes
  (((reads ++ part).filterMap Reg.line).eraseDups, (writes.filterMap Reg.line).eraseDups)
/-- Missing lines: true where the line must be filled, false where it only needs a place. A line that the group reads
needs a place too when the wave's creation or a result owed to it has made it live (R127, R129). -/
def State.lineNeeds (s : State) (w : Wave) (fl : Flight) (ops : List GOp) : List (Nat × Bool) :=
  let q := s.groupLines w fl ops
  let lru := (s.core (s.coreOf w)).lru
  let fills := q.1.filter fun n => !w.isDead n && !w.holds n
  let live := q.2 ++ q.1.filter fun n => !q.2.any (fun k => k == n) && (w.holds n || w.owes n)
  let rooms := live.filter fun n => !lru.any (fun e => e == (w.uid, n)) && !fills.any fun k => k == n
  fills.map (fun n => (n, true)) ++ rooms.map fun n => (n, false)

/-! Holds (R33, R218, R289, R293, R321, R381, R445, R519). -/

/-- A register that the group reads, as an operand, as a consumed token or through the broadcast port, or that it writes
awaits a token (R33, R256, R289). -/
def tokenHeld (w : Wave) (bs : List FBundle) (ops : List GOp) : Bool :=
  w.c.tokPend != 0 && (ops.flatMap (fun o => o.i.reads ++ o.unit.writes) ++ (groupReaders bs).flatMap fun u => u.reads).any fun r =>
    match r with
    | .s n => w.c.tokPend.getLsbD n
    | _ => false
def Instr.isSyncCmd : Instr → Bool
  | .mapsync _ _ | .present _ _ => true
  | _ => false
/-- A register that the group reads or writes awaits the result of an earlier group, or rdfl the flags of one (R33, R87). -/
def Wave.awaits (w : Wave) (cycle : Nat) (bs : List FBundle) (ops : List GOp) : Bool :=
  let late := (w.await.filter fun e => cycle < e.2).map fun e => e.1
  !late.isEmpty && ((ops.flatMap (fun o => o.unit.reads ++ o.unit.writes) ++ (groupReaders bs).flatMap fun u => u.reads).any
      (fun r => late.any fun n => n == r.code)
    || (late.any fun n => n == 232) && ops.any fun o => match o.i with | .rdfl _ _ => true | _ => false)
/-- Requests that a group writes to a queue, with what follows each. -/
def reqOps (srn : Nat) : List GOp → List (List GOp)
  | [] => []
  | o :: t => match o.i with
    | .wrsr _ f => if f.srn.toNat == srn then t :: reqOps srn t else reqOps srn t
    | _ => reqOps srn t
/-- A request of the group would find its queue full, and an access or a read of a system register follows it in the
group: those may come only after the request has completed, so that the group waits for a place (R263, R433). A request
that nothing such follows completes later, and holds the next group (R445, R519). -/
def State.reqHeld (s : State) (ops : List GOp) : Bool :=
  let after (o : GOp) : Bool := match o.i with
    | .rdsr _ _ => true
    | _ => o.k == 5 || o.k == 6 || o.k == 3
  let held (srn room : Nat) : Bool := ((reqOps srn ops).drop room).any fun t => t.any after
  held 0x070 (16 - s.sw.queue.length) || held 0xC04 (4 - s.life.serviceQ.length)
/-- A queue of the core or of the package has no place for what the group hands on. -/
def State.queueHeld (s : State) (g : Nat) (ops : List GOp) : Bool :=
  let c := s.core g
  let full (n used cap : Nat) : Bool := n != 0 && decide (cap < used + n)
  let sync (i : Instr) : Bool := Instr.isSyncCmd i
  full (ops.filter fun o => o.k == 6).length c.copyQ.length 16
    || full (ops.filter fun o => o.k == 3).length c.matQ.length 8
    || full (ops.filter fun o => sync o.i).length (c.syncQ.filter fun d => sync d.op).length 4
    || s.reqHeld ops
/-- Banks that an engine command of the group would name. -/
def State.opBanks (s : State) (c : Ctx) (i : Instr) : List Nat :=
  match i, i.eRun with
  | .send _ o, _ => s.rangeBanks c (c.run? o 0).toNat (32 * sendFlits [c.run? o 0, c.run? o 1])
  | .xmit _ o, _ => s.rangeBanks c (c.run? o 1).toNat (32 * bits (c.run? o 0) 47 32)
  | .isel _ o, _ =>
    if bits (c.run? o 0) 49 48 % 2 == 1 then s.rangeBanks c (c.run? o 1).toNat (32 * bits (c.run? o 0) 47 32) else []
  | _, some (o, n) => s.matBanks c i o n ++ s.copyBanks c i o n
  | _, none => []
/-- Pairs of a row and a bank on which an operation of the group waits for a command of the other engine. -/
def State.bankHolds (s : State) (w : Wave) (fl : Flight) (ops : List GOp) : List (Nat × Nat) :=
  let core := s.core (s.coreOf w)
  ops.flatMap fun o =>
    let c := s.opCtx fl w o
    if c.run == 0 || (o.k != 3 && o.k != 6) then []
    else
      let busy := ((if o.k == 3 then core.copyQ else core.matQ).flatMap fun d => d.banks)
        ++ core.freed.filterMap fun e => if e.1 == 9 - o.k && e.2.2 == s.cycle then some e.2.1 else none
      ((s.opBanks c o.i).filter fun b => busy.any fun x => x == b).eraseDups.map fun b => (if w.surveyor then 8 else o.k, b)

/-- The ports that an operation of the group would use: row, physical bank and cycles (R218 rule 2, R270). -/
def State.portUse (s : State) (w : Wave) (fl : Flight) (o : GOp) : List (Nat × Nat × List Nat) :=
  let c := s.opCtx fl w o
  if c.run == 0 then []
  else (granuleBanks (c.granules o.i)).flatMap fun e =>
    (((s.group? w.group).map fun g => g.bank e.1).getD []).map fun b =>
      (if w.surveyor then 8 else o.k, b, (List.range e.2).map fun k => s.cycle + o.b + 2 + k)
/-- Pairs of a row and a bank on which an L-slot or W-slot access of the group waits for a claimed port (R218). -/
def State.portHolds (s : State) (w : Wave) (fl : Flight) (ops : List GOp) : List (Nat × Nat) :=
  let claimed := (s.core (s.coreOf w)).ports
  if claimed.isEmpty then []
  else (ops.flatMap fun o => s.portUse w fl o).filterMap fun e =>
    if e.2.2.any fun t => claimed.any fun p => p == (e.2.1, t) then some (e.1, e.2.1) else none
/-- The claims of the group that issues (R270). -/
def State.claimPorts (s : State) (w : Wave) (fl : Flight) (ops : List GOp) : State :=
  let claims := (ops.flatMap fun o => s.portUse w fl o).flatMap fun e => e.2.2.map fun t => (e.2.1, t)
  if claims.isEmpty then s else s.claim (s.coreOf w) claims
/-- Cycles for which the group's accesses to memory wait for the ports of L1 banks 0 to 2, which a register fill, a fetch or
an engine holds: the spec leaves open which bank holds a line and when another user holds its port, so each count is a
free value (R504, log entry 17). -/
def State.countL1Waits (s : State) (w : Wave) (fl : Flight) (ops : List GOp) : State :=
  let g := s.coreOf w
  let mem := ops.filter fun o => let c := s.opCtx fl w o
    c.run != 0 && (match c.accesses o.i with | some (.mem _, _) => true | _ => false)
  if mem.isEmpty || !(s.core g).counted (s.slotOf w) then s
  else mem.foldl (fun s o => (List.range 3).foldl (fun s b =>
    let f := s.free
    f.2.modCore g fun c => c.addConflict (if w.surveyor then 8 else o.k) b (Config.l1Waits f.1)) s) s

/-! Readiness (R123). -/

/-- What a wave's next group waits for. -/
inductive Ready where
  /-- The wave issues nothing now. -/
  | no
  | fetch
  | line (n : Nat) (fill : Bool)
  | held
  /-- Ready but for a queue that has no room (R293, R306, R323, R333, R381). -/
  | queued
  | replay (u : Nat)
  | banks (cells : List (Nat × Nat))
  /-- Ready, with the slots of its operations. -/
  | go (targets : List Nat)
  deriving DecidableEq, Repr
/-- Arrivals of a group at units of replay. -/
def State.groupArrivals (s : State) (fl : Flight) (w : Wave) (ops : List GOp) : List (Nat × Nat × Nat) :=
  ops.flatMap fun o =>
    let c := s.opCtx fl w o
    if c.run == 0 then []
    else match o.i with
      | .join _ f => s.joinArrival c (c.w.r.sc f.b.toNat)
      | i => s.arrivals c i
/-- A switch out of the wave's slot stops its issue; a wave with a surveyor runs on to its bookend (R319, R447). -/
def State.switchStops (s : State) (w : Wave) : Bool :=
  s.sw.phase != .idle
    && (if s.sw.service then s.sw.groups.any fun g => g == w.group
        else bits (wd s.sw.words 0) 13 12 == 0
          && (s.sw.slot == s.slotOf w || s.sw.groups.any fun g => g == w.group))
    && !w.windows.any fun q => q.any fun e => e.bookend
/-- Operations of the slot that wait at a unit (R510). -/
def State.flightArrivals (s : State) (w : Wave) (fl : Flight) : List (Nat × Nat × Nat) :=
  match (encodingVerdict .c w.surveyor w.pair.isSome fl.bundles fl.lanes).1 with
  | some ops => s.groupArrivals fl w ops
  | none => []
def State.unitLoad (s : State) (u : Nat) : Nat :=
  natSum (s.rep.waiting.map fun fl => match s.owner fl.owner with
    | some w => ((s.flightArrivals w fl).filter fun a => a.1 == u).length
    | none => 0)
/-- The unit that keeps a group from issuing: one of its operations there would wait, and 64 wait there already (R510). -/
def State.repBlocked (s : State) (slot : Nat) (as : List (Nat × Nat × Nat)) : Option Nat :=
  match s.repArrive slot as with
  | none => none
  | some _ => (as.map fun a => a.1).find? fun u => decide (64 < s.unitLoad u + (as.filter fun a => a.1 == u).length)
/-- What the next group of a wave with a current PC group waits for (R123, R218, R509). -/
def State.groupReadiness (s : State) (w : Wave) : Ready :=
  match (s.fetchGroup w).2 with
  | .absent => .fetch
  | .bad _ _ | .park _ _ => .go []
  | .got bs =>
    if bs.any fun b => b.bad then .go []
    else
      match (encodingVerdict .c w.surveyor w.pair.isSome bs w.cur).1 with
      | none => .go []
      | some ops =>
        let g := s.coreOf w
        let slot := s.slotOf w
        let fl := newFlight (.wave w.uid) w.r w.nextPc bs w.cur []
        match s.lineNeeds w fl ops with
        | (n, fill) :: _ => .line n fill
        | [] =>
          if tokenHeld w bs ops || w.awaits s.cycle bs ops then .held
          else if s.queueHeld g ops then .queued
          else if !s.repRun slot g w.ctx then .replay g
          else match s.repBlocked slot (s.groupArrivals fl w ops) with
            | some u => .replay u
            | none =>
              match s.bankHolds w fl ops ++ s.portHolds w fl ops with
              | [] => .go (ops.map fun o => o.k).eraseDups
              | cells => .banks cells
/-- What a wave waits for: it issues nothing while a switch stops it or its system-register write has not completed. -/
def State.readiness (s : State) (w : Wave) : Ready :=
  if !w.isActive || w.c.stopped || w.c.halted || w.cur == 0 || s.cycle < w.wakeAt || s.switchStops w
      || s.lateWr.any (fun e => e.wave == some w.uid) || s.suspended w.uid then .no
  else s.groupReadiness w

/-- The lines that the wave's next group reads (R129). -/
def State.nextReads (s : State) (w : Wave) : List Nat :=
  match (s.fetchGroup w).2 with
  | .got bs =>
    (match (encodingVerdict .c w.surveyor w.pair.isSome bs w.cur).1 with
      | some ops => (s.groupLines w (newFlight (.wave w.uid) w.r w.nextPc bs w.cur []) ops).1
      | none => [])
  | _ => []

/-! Selection (R124). -/

def State.withheldNow (s : State) : Bool := s.life.withholds s.cycle
/-- The pointer as it stands at a selection in this cycle: it has moved with every selection since, and no selection is
made in a cycle that the power cap withholds (R124, R526). -/
def State.pointerNow (s : State) (g : Nat) : Nat :=
  let c := s.core g
  (c.pointer.toNat + (s.life.selectionsBefore s.cycle - c.freeSel)) % 64
/-- The engine of a set that has been idle longest, the first of the order S to Y among equals. -/
def idlest (c : Core) (cycle : Nat) (e : List Nat) : Option Nat :=
  (List.range 8).foldl (fun (best : Option Nat) k =>
    if e.any fun x => x == k then
      match best with
      | none => some k
      | some b => if cycle - c.lastOp.toList.getD b 0 < cycle - c.lastOp.toList.getD k 0 then some k else best
    else best) none
def State.selectWave (s : State) (g : Nat) : Option Wave :=
  let ready := (s.wavesOn g).filterMap fun w => match s.readiness w with | .go ts => some (w, ts) | _ => none
  let p := s.pointerNow g
  match ready.find? fun e => e.1.isActive && e.1.slot == p with
  | some e => some e.1
  | none =>
    match idlest (s.core g) s.cycle (ready.flatMap fun e => e.2) with
    | none => (ready.head?).map fun e => e.1
    | some k => (ready.find? fun e => e.2.any fun x => x == k).map fun e => e.1

/-! The start of a group on a compute core. -/

/-- A trap that leaves the group without effect (R419, R421): its threads go on after the group. -/
def State.noEffectTrap (s : State) (w : Wave) (fl : Flight) (code : Byte) (detail : Nat) (m : Mask) (addr : Dword)
    (sloti : Option Nat) : State :=
  let s := s.traceEvent (s.coreOf w) w 5 code.toNat fl.pc.toNat
  let r := s.waveRec w 0 code detail fl.pc fl.after m addr 0
  s.takeTrap { r with sloti := sloti, nexts := lanes.map fun i => if m.has i then some fl.after else none }
/-- Vector registers whose honoured LU makes their lines die (R205). -/
def State.groupKills (s : State) (w : Wave) (fl : Flight) (ops : List GOp) : List (BitVec 7) :=
  (ops.flatMap fun o => if (s.opCtx fl w o).run == w.live then o.i.lus.map (BitVec.ofNat 7) else []).eraseDups
/-- Results that the forwarding window passes and never writes (R206, R504). -/
def forwarded (w : Wave) (kills : List (BitVec 7)) : Nat :=
  (kills.filter fun n => w.recent.any fun g => g.any fun m => m == n).length
/-- Vector registers that the group writes. -/
def writtenV (ops : List GOp) : List (BitVec 7) :=
  (ops.flatMap fun o => o.i.writes.filterMap fun r => match r with | .v n => some (BitVec.ofNat 7 n) | _ => none).eraseDups
/-- The group issues: it is in flight, its operations in the order of R61. -/
def State.startGroup (s : State) (w : Wave) (fl : Flight) (ops : List GOp) : State :=
  let g := s.coreOf w
  let n := fl.bundles.length
  let slot := s.slotOf w
  let c := s.core g
  let s := if c.tracing && c.traced slot then
      let s := s.traceSync g w 3
      if bit (wd c.trace.entry 1) 7 then
        let scyc := (((fl.bundles.head?).map fun b => hdrScyc b.bits).getD 0)
        s.traceRec g (1 + 2 ^ 4 * g + 2 ^ 14 * w.slot + 2 ^ 20 * scyc + 2 ^ 34 * n) (fl.pc.toNat / 64 % 2 ^ 50)
      else s
    else s
  let s := s.repRan slot g w.ctx
  let kills := s.groupKills w fl ops
  let reads := (ops.flatMap (fun o => o.unit.reads)).filterMap Reg.line
  let s := (reads.filter fun n => w.holds n).eraseDups.foldl (fun s n => s.touchLine g w.uid n) s
  let ran := ops.filter fun o => (s.opCtx fl w o).run != 0
  let s := s.modCore g fun (c : Core) =>
    { c with lastOp := ran.foldl (fun (v : Vector Nat 8) o => v.setIfInBounds o.k (s.cycle + o.b)) c.lastOp,
             fwd := if c.counted slot then c.fwd + forwarded w kills else c.fwd }
  let s := s.modWave w.uid fun (w : Wave) =>
    let old := w.recent.map fun g => g.filter fun n => !kills.any fun k => k == n
    { w with lastIssue := s.cycle, lastPc := fl.pc, recent := (writtenV ops :: old).take 8,
             c := { w.c with wdog := w.c.wdog + n, wsup := false } }
  let s := (s.claimPorts w fl ops).countL1Waits w fl ops
  { s with flight := some { fl with kills := kills, todo := ops.map fun o => (o.b, o.k) } }
/-- The group that has just issued waits at a unit of replay (R510). -/
def State.suspend (s : State) (waits : Bool) : State :=
  if waits then { s with flight := none, rep := { s.rep with waiting := s.rep.waiting ++ s.flight.toList } } else s
/-- A core's oldest group whose operations now match the entries of their units goes on (R510). -/
def State.repResume (s : State) (g : Nat) : Option State :=
  (s.rep.waiting.find? fun fl => match s.owner fl.owner with
    | some w => s.coreOf w == g && (s.repArrive (s.slotOf w) (s.flightArrivals w fl)).isNone
    | none => false).map fun fl =>
      { s with flight := some fl, rep := { s.rep with waiting := s.rep.waiting.filter fun k => k.owner != fl.owner } }
/-- The watchdog's limit for a wave; none when its region cannot be read (R442). -/
def State.wdogLimit (s : State) (w : Wave) : Nat := ((s.effWave w).2.map fun e => e.wdog).getD 0
def State.wdogOver (s : State) (w : Wave) (n : Nat) : Bool := s.wdogLimit w != 0 && s.wdogLimit w < w.c.wdog + n
/-- The selected wave's group: cycles that the core spends on it. A debug step ends with the group, be it stopped by a trap or
a watchpoint (R501; for the watchpoint DESIGN CHOICE, log entry 77). -/
def State.issueWave (s : State) (w : Wave) : State × Nat :=
  let f := s.fetchGroup w
  match f.2 with
  | .absent => (s, 1)
  | .bad code a => ((f.1.waveTrap w code 0 w.cur a 0).endStep w.uid w.nextPc, 1)
  | .park l a => (f.1.park w.uid w.cur a l, 1)
  | .got bs =>
    if bs.any fun b => b.bad then ((f.1.waveTrap w 0x08 0xFF w.cur 0 0).endStep w.uid w.nextPc, 1)
    else if f.1.wdogOver w bs.length then (f.1.post .watchdogTrap w.uid, 1)
    else
      let fl := newFlight (.wave w.uid) w.r w.nextPc bs w.cur []
      let e := encodingVerdict .c w.surveyor w.pair.isSome bs w.cur
      match e.1, e.2 with
      | some ops, _ =>
        let d := f.1.dataVerdict fl w ops
        match d.2.1.orElse fun _ => d.1.holdVerdict { fl with placed := d.2.2 } w ops with
        | .go =>
          let at0 := (d.1.repArrive (d.1.slotOf w) (d.1.groupArrivals fl w ops)).isSome
          ((d.1.startGroup w { fl with placed := d.2.2 } ops).suspend at0, bs.length)
        | .trap code det m a k => ((d.1.noEffectTrap w fl code det m a k).endStep w.uid fl.pc, 1)
        | .park l a => (d.1.park w.uid w.cur a l, 1)
        | .wait k => (d.1.modWave w.uid fun w => w.waitOn w.cur k, 1)
        | .bookend => (d.1.modWave w.uid fun (w : Wave) => { w with windows := [] }, 1)
        | .halt x =>
          let s := d.1.modWave w.uid fun (w : Wave) => { w with c := { w.c with wsup := true } }
          ((s.haltTrigger (s.slotOf w) 2 (s.coreOf w) w.slot x fl.pc).endStep w.uid fl.pc, 1)
      | none, .trap code det m a k => ((f.1.noEffectTrap w fl code det m a k).endStep w.uid fl.pc, 1)
      | none, _ => (f.1, 1)
/-- A unit waits on its entry: the wait begins, or can never end (R512). -/
def State.replayWait (s : State) (slot u : Nat) : State := if s.repStuck slot u then s.diverge u else s.repWait u
/-- Units of replay on which a wave of the core or an operation of such a wave waits (R512). -/
def State.replayWaits (s : State) (g : Nat) : State :=
  (s.wavesOn g).foldl (fun s w =>
    match s.readiness w with
    | .replay u => s.replayWait (s.slotOf w) u
    | _ =>
      match s.rep.waiting.find? fun fl => fl.owner == .wave w.uid with
      | none => s
      | some fl => (s.repArrive (s.slotOf w) (s.flightArrivals w fl)).elim s fun u => s.replayWait (s.slotOf w) u) s
/-- A selection of a core, when it may select now. -/
def State.issueCore (s : State) (g : Nat) : State :=
  if s.flight.isSome then s
  else match s.repResume g with
  | some t => t
  | none =>
    let s := if s.rep.state == 2 then s.replayWaits g else s
    if s.cycle < (s.core g).free || s.withheldNow then s
    else
      match s.selectWave g with
      | none => s
      | some w =>
        let p := s.pointerNow g
        let r := s.issueWave w
        r.1.modCore g fun (c : Core) =>
          { c with pointer := BitVec.ofNat 6 (p + 1), free := s.cycle + r.2,
                   freeSel := s.life.selectionsBefore (s.cycle + r.2) }

/-! The start of a group on a line core (R32, R397, R400, R414). -/

def State.issueLine (s : State) (k : Nat) : State :=
  let l := (s.line k).land
  match l.wave, l.run with
  | some w, some _ =>
    if s.flight.isSome || l.wait.isSome || s.now < l.free then s
    else
      let s := s.setLine l
      let pc := (w.threads.get 0).pc
      let f := fetchRun (fun s a => s.fetchLineVia k (w.threads.get 0).via w.loopBack a) 4 s pc []
      match f.2 with
      | .absent | .park _ _ => f.1.modLine k fun (l : LineCore) => { l with cnt := l.cnt + 1, free := 45 * (s.dcycle + 1) }
      | .bad code a => f.1.lineTrap k code a pc pc (BitVec.allOnes 32) none
      | .got bs =>
        if bs.any fun b => b.bad then f.1.lineTrap k 0x08 0 pc pc (BitVec.allOnes 32) none
        else
          let m := BitVec.allOnes 32
          let s := f.1.modLine k fun (l : LineCore) => { l with base := s.dcycle }
          let fl := newFlight (.line k) w.r pc bs m []
          let e := encodingVerdict .d false false bs m
          match e.1, e.2 with
          | some ops, _ =>
            let d := s.dataVerdict fl w ops
            match d.2.1 with
            | .go => { s with flight := some { fl with placed := d.2.2, todo := ops.map fun o => (o.b, o.k) } }
            | .trap code _ m a q => s.lineTrap k code a pc fl.after m q
            | _ => s
          | none, .trap code _ m a q => s.lineTrap k code a pc fl.after m q
          | none, _ => s
  | _, _ => s

/-- ISSUE_GROUP (R20, R118, R123, R124, R384). -/
def execIssueGroup (u : IssueUnit) (s : State) : Host.Outcome State Fault Refusal :=
  .next (match u with
    | .core g => s.issueCore g
    | .line k => s.issueLine k)

/-- The counted cycle of a line core in a display cycle (R397): the cycles of its last group count as they pass. -/
def LineCore.count (l : LineCore) (dcycle : Nat) : Nat := l.cnt - (l.free / 45 - dcycle)
/-- The next bundle of a fill of a line core, or the fault that ends it (R30, R31, R400). -/
def State.fillLineTarget (s : State) (k : Nat) (b : Nat) : State :=
  let l := s.line k
  let e := l.pt.toList.getD b PTEntry.blank
  if l.run.isNone || e.left == 0 || l.count s.dcycle < e.next then s
  else
    let r := s.fetchLine k (e.base + BitVec.ofNat 64 (64 * e.got.length))
    let e' : PTEntry := match r.2 with
      | .got x => { e with got := e.got ++ [x], left := e.left - 1, next := e.next + 1 }
      | .bad code _ => { e with left := 0, fault := true, code := code }
      | _ => { e with left := 0, fault := true }
    r.1.modLine k fun (l : LineCore) => { l with pt := l.pt.setIfInBounds b e' }

/-- PREPARED_TARGET_FILL: the next bundle of a fill, or the fault that ends it (R30, R31), for a line core where the
third operand is 1. -/
def execPreparedTargetFill (s : State) : Host.Outcome State Fault Refusal :=
  if s.arg.c == 1 then .next (s.fillLineTarget s.arg.a s.arg.b) else
  match s.wave? s.arg.a with
  | none => .next s
  | some w =>
    let e := w.targets.toList.getD s.arg.b PTEntry.blank
    if e.left == 0 || s.cycle < e.next || !w.isActive then .next s
    else
      let r := s.fetchBundle w none none (e.base + BitVec.ofNat 64 (64 * e.got.length))
      let e' : PTEntry := match r.2 with
        | .got b => { e with got := e.got ++ [b], left := e.left - 1, next := s.cycle + 1 }
        | _ => { e with left := 0, fault := true }
      .next (r.1.modWave w.uid fun (w : Wave) => { w with targets := w.targets.setIfInBounds s.arg.b e' })

/-- WATCHDOG_TRAP: the wave's next group would pass its limit (R442). -/
def execWatchdogTrap (s : State) : Host.Outcome State Fault Refusal :=
  match s.wave? s.arg.a with
  | none => .next s
  | some w =>
    if !w.isActive || w.c.stopped || w.c.halted || w.cur == 0 then .next s
    else match (s.fetchGroup w).2 with
      | .got bs =>
        if s.wdogOver w bs.length then .next (s.waveTrap w 0x09 0 w.live 0 (BitVec.ofNat 64 w.c.wdog)) else .next s
      | _ => .next s

end Sys2Proof.Machine
end

