-- ==== Sys2Proof/Machine/Engines.lean ====
section
/-! DEFINITION. The completion of engine commands (11_tokens_copy_and_tasks.md R289, R292, R293,
12_matrix_engine.md R321, 14_graphics_pipeline.md R379, R381) and the acceptance of launches (R305). -/
namespace Sys2Proof.Machine
open Sys2Proof

/-- The command that an engine reference names. -/
def State.cmdAt (s : State) : EngineRef → Option Cmd
  | .copy g k => (s.core g).copyQ[k]?
  | .matrix g => (s.core g).matQ.head?
  | .sync g k => (s.core g).syncQ[k]?

/-- A command of the copy engine or of the matrix engine: its state and its status. With `part`, the effects that
a cancelled command has had and the status on which it ends (R448). -/
def State.runEngine (s : State) (c : Cmd) (part : Option Dword) : State × Dword :=
  let s := if part.isNone then s.claimCmd c else s
  match c.op with
  | .copy _ o => s.runCopy c o part
  | .gather _ o => s.runGather c o true part
  | .scatter _ o => s.runGather c o false part
  | .fill _ o => s.runFill c o part
  | .pref _ o => match part with | some x => (s, x) | none => s.runPref c o
  | .cflush _ _ => s.runFlush c false part
  | .cinv _ _ => s.runFlush c true part
  | _ => s.runMatrix c part
/-- A ready command runs: no status while it must still wait. -/
def State.runCmd (s : State) (c : Cmd) : State × Option Dword :=
  match c.op with
  | .send _ o => s.startSend c (bits o.md 2 0)
  | .recv _ o => s.runRecv c (bits o.md 2 0)
  | .xmit _ _ => s.runSec c false
  | .isel _ _ => s.runSec c true
  | .coll _ o => s.runColl c o
  | .mapsync _ _ => s.runMapsync c
  | .present _ _ => s.runPresent c
  | .enq _ _ => (s, none)
  | _ => let r := s.runEngine c none; (r.1, some r.2)

/-- TOKEN_COMPLETE (R289, R292): a command whose tokens have completed runs, and its status reaches its token. A
consumed token that failed ends it with 0x83. An enq command ends where the drawer takes it (R314). -/
def execTokenComplete (e : EngineRef) (s : State) : Host.Outcome State Fault Refusal :=
  .next (match s.cmdAt e with
    | none => s
    | some c =>
      if !c.ready then s
      else if c.depFailed then s.finish c (statusBad 0x83 3 0)
      else
        let r := s.runCmd c
        match r.2 with
        | none => r.1
        | some x => r.1.finish c x)

/-- LAUNCH_ACCEPT (R305, R356, R425, R483). -/
def execLaunchAccept (src : LaunchSrc) (s : State) : Host.Outcome State Fault Refusal :=
  .next (match src with
    | .bench g e => s.acceptBench g e
    | .handler j => s.deliver j
    | .shade d => s.launchShade d
    | .queue q => { s with arg := { s.arg with a := q } }.cqStep 1 fun q ws =>
        let r := s.launchQueue q.id (bits (wd ws 1) 19 8) (wd ws 2)
        if r.2 then r.1.cqTaken q.id else r.1)

end Sys2Proof.Machine
end

