-- ==== Sys2Proof/Machine/Activation.lean ====
section
/-! DEFINITION. The steps by which waves are activated and deactivated (04_waves_groups_and_regions.md R126 to R128,
07_storage_and_translation.md R210, R211, R214), the fill of a missing register line (R208), the ends of waits
(R197, R285), monitors (R262, R235, R435) and the write buffer (R269). -/
namespace Sys2Proof.Machine
open Sys2Proof

/-! Activation (R127, R210). -/

/-- The wave alone could go on if it were activated. -/
def Wave.wantsSlot (w : Wave) : Bool := !w.isActive && !w.c.stopped && !w.c.halted && w.inState .runnable != 0
/-- A fault of its context keeps the wave dormant (R435). -/
def Wave.contextFault (w : Wave) : Bool := match w.act with | .dormant _ _ f => f | .active .. => false
/-- The other wave of a pair (R316). -/
def State.pairOf (s : State) (w : Wave) : Option Wave := w.pair.bind fun u => s.wave? u
/-- The group of a wave is saved in a pool. -/
def State.isSaved (s : State) (w : Wave) : Bool := (s.group? w.group).any fun g => g.saved
/-- A wave is ready-dormant, by itself or by its pair (R127, R214). -/
def State.readyDormant (s : State) (w : Wave) : Bool :=
  let p := s.pairOf w
  !w.isActive && !s.isSaved w && !s.switchStops w && !w.contextFault && !(p.any fun v => v.contextFault) && (w.wantsSlot || p.any fun v => v.wantsSlot)
/-- Core cycle since which a wave is dormant. -/
def Wave.dormantSince (w : Wave) : Nat := match w.act with | .dormant c _ _ => c | .active .. => 0
/-- The ready-dormant wave that a core activates first: the highest PRIO, then the one dormant longest;
of equals the first in the wave list (log entry 120). -/
def State.firstReady (s : State) (g : Nat) : Option Wave :=
  let rank (w : Wave) : Nat × Nat := (s.prioOf w, w.dormantSince)
  ((s.wavesOn g).filter fun w => s.readyDormant w).foldl (fun (best : Option Wave) w =>
    match best with
    | none => some w
    | some b => if (rank b).1 < (rank w).1 || ((rank b).1 == (rank w).1 && (rank w).2 < (rank b).2) then some w else best) none
/-- Slots that an activation of the wave takes: two with a pair. -/
def Wave.slotsWanted (w : Wave) : Nat := if w.pair.isSome then 2 else 1
def State.canActivate (s : State) (w : Wave) : Bool := w.slotsWanted ≤ (s.freeSlots (s.coreOf w)).length

/-- WAVE_ACTIVATE (R127, R210). -/
def execWaveActivate (s : State) : Host.Outcome State Fault Refusal :=
  .next (match s.wave? s.arg.a with
    | none => s
    | some w =>
      if (s.firstReady (s.coreOf w)).any (fun x => x.uid == w.uid) && s.canActivate w then s.activateFree w.uid else s)

/-! Victims (R128, R211, R214). -/

/-- A thread does not keep its wave out of class 1: exited, parked, or in a wait that is neither of a barrier nor
a sleep. -/
def Thread.class1 (t : Thread) : Bool :=
  t.st == .exited || t.st == .parked
    || (t.st == .waiting && [WKind.wait, .waitLim, .bench, .contq, .window, .cull].any fun k => k == t.wkind)
/-- A thread does not keep its wave out of class 2: exited, or in a barrier wait of at least 2048 cycles. -/
def Thread.class2 (cycle : Nat) (t : Thread) : Bool :=
  t.st == .exited
    || (t.st == .waiting && [WKind.bar, .vote, .barc].any (fun k => k == t.wkind) && t.wfrom + 2048 ≤ cycle)
/-- A wave may be a victim at all: its windows and its surveyor's hold no entry (R214), and it has not just failed to
leave: an abandoned deactivation is retried when its page comes back or its trap is answered (R435). -/
def State.mayLeave (s : State) (w : Wave) : Bool :=
  let ok (v : Wave) : Bool := v.windows.all (fun q => q.isEmpty) && !(v.c.abandoned && v.lines.pinned != 0)
  w.isActive && ok w && (s.pairOf w).all ok && !(w.uid :: ((s.pairOf w).map fun v => v.uid).toList).any s.suspended
/-- The first of some waves by a measure, the earliest among equals. -/
def leastBy (f : Wave → Nat) (ws : List Wave) : Option Wave :=
  ws.foldl (fun (b : Option Wave) w => match b with
    | none => some w
    | some x => if f w < f x then some w else b) none
/-- The victim of a core for a waiting wave, with its class; of equals the earliest in the wave list (R128 orders no
ties; log entry 121). -/
def State.victim (s : State) (g : Nat) (x : Wave) : Option (Nat × Wave) :=
  let ws := (s.wavesOn g).filter fun w => s.mayLeave w
  let all (p : Thread → Bool) (w : Wave) : Bool := w.threads.toList.all p
  let since (w : Wave) : Nat := match w.act with | .active _ c => c | .dormant .. => 0
  match leastBy (fun w => w.lastIssue) (ws.filter fun w => w.c.stopped || w.c.halted || all Thread.class1 w) with
  | some w => some (1, w)
  | none =>
    match leastBy (fun w => w.lastIssue) (ws.filter (all (Thread.class2 s.cycle))) with
    | some w => some (2, w)
    | none =>
      if x.ready.any fun c => c + 16384 ≤ s.cycle then (leastBy since ws).map fun w => (3, w) else none
/-- The victim that a core deactivates now, with its class. -/
def State.victimNow (s : State) (g : Nat) : Option (Nat × Wave) :=
  (s.firstReady g).bind fun x => if s.canActivate x then none else s.victim g x
/-- WAVE_DEACTIVATE (R128, R211). -/
def execWaveDeactivate (s : State) : Host.Outcome State Fault Refusal :=
  .next (match s.wave? s.arg.a with
    | none => s
    | some w => if (s.victimNow (s.coreOf w)).any fun v => v.2.uid == w.uid then (s.deactivatePair w.uid).1 else s)
/-- VICTIM_AGE_EXPIRE: waves of class 2 or 3 have become victims (R128). -/
def execVictimAgeExpire (s : State) : Host.Outcome State Fault Refusal :=
  .next (match s.victimNow s.arg.a with
    | some (_, w) => s.postFirst .waveDeactivate w.uid 0 0
    | none => s)
/-- Dormant waves note since when they are ready (R128). -/
def State.noteReady (s : State) : State :=
  let f (w : Wave) : Wave :=
    if s.readyDormant w then (if w.ready.isSome then w else { w with ready := some s.cycle })
    else if w.ready.isSome then { w with ready := none } else w
  { s with waves := s.waves.map f }

/-! A missing register line (R129, R208). -/

/-- A line can be installed for a wave: there is room, or a victim. -/
def State.lineCanCome (s : State) (w : Wave) : Bool := s.rcRoom w || !(s.victims w (s.nextReads w)).isEmpty
/-- REGISTER_FILL (R129, R208). -/
def execRegisterFill (s : State) : Host.Outcome State Fault Refusal :=
  .next (match s.wave? s.arg.a with
    | none => s
    | some w =>
      match s.readiness w with
      | .line n fill =>
        if n != s.arg.b then s
        else
          let g := s.coreOf w
          let s := if fill && (s.core g).counted (s.slotOf w) then
              s.modCore g fun (c : Core) => { c with rmiss := c.rmiss + 1 } else s
          let r := s.makeRoom w.uid (s.nextReads w) ((s.core g).lru.length + 1)
          if !r.2 then r.1
          else if fill then r.1.fillLine w.uid n
          else (r.1.touchLine g w.uid n).modWave w.uid fun w => w.applyOwed n
      | _ => s)

/-! Ends of waits (R197, R285). -/

/-- END of a thread's wait has come, compared modulo 2^48 (R200). -/
def Thread.timeUp (cycle : Nat) (t : Thread) : Bool := (BitVec.ofNat 48 cycle - t.wend).toNat < 2 ^ 47
/-- A thread of a wave whose wait of a kind is over. -/
def State.waitOf (s : State) (k : WKind) : Option (Wave × Fin 32) :=
  match s.wave? s.arg.a with
  | none => none
  | some w =>
    if h : s.arg.b < 32 then
      let t := w.threads.get ⟨s.arg.b, h⟩
      if t.st == .waiting && t.wkind == k && t.timeUp s.cycle then some (w, ⟨s.arg.b, h⟩) else none
    else none
/-- SLEEP_EXPIRE (R197). -/
def execSleepExpire (s : State) : Host.Outcome State Fault Refusal :=
  .next (match s.waitOf .sleep with
    | none => s
    | some (w, i) => s.modWave w.uid fun w => w.wake (1#32 <<< i.val))
/-- WAIT_LIMIT_EXPIRE: the monitor stays armed (R285). -/
def execWaitLimitExpire (s : State) : Host.Outcome State Fault Refusal :=
  .next (match s.waitOf .waitLim with
    | none => s
    | some (w, i) =>
      s.modWave w.uid fun w => (w.putPred i (w.threads.get i).wpd.toNat false).wake (1#32 <<< i.val))

/-! Monitors (R235, R262, R285, R435). -/

/-- A triggered monitor of a wave: waiting threads go on with a true predicate, and the monitor is disarmed. -/
def Wave.monitorHit (w : Wave) : Wave :=
  let m := w.waitersOf .wait ||| w.waitersOf .waitLim
  if m == 0 then { w with c := { w.c with monTrig := true } }
  else
    let w := m.list.foldl (fun (v : Wave) i => v.putPred i (w.threads.get i).wpd.toNat true) w
    let w := w.wake m
    { w with c := { w.c with mon := none, monTrig := false } }
/-- A parked wave replays: its threads run on, or a dormant wave may be activated again (R235, R435). -/
def State.unpark (s : State) (u : Nat) : State :=
  match s.wave? u with
  | none => s
  | some w =>
    let s := if w.c.abandoned then s.fellowsGoOn u else s
    let s := s.modWave u fun w =>
      let w := { w with c := { w.c with parkVA := 0, parkLines := [], abandoned := false } }
      let w := match w.act with
        | .dormant c f true => if w.c.stopped then w else { w with act := .dormant c f false }
        | _ => w
      w.wake (w.inState .parked)
    s.traceEvent (s.coreOf w) w 4 0 w.nextPc.toNat
/-- The writebacks of pinned lines are tried again (R435). -/
def State.retryPinned (s : State) (u : Nat) (ns : List Nat) : State :=
  ns.foldl (fun s n =>
    match s.wave? u with
    | none => s
    | some w =>
      let r := s.putLine (s.coreOf w) (s.slotOf w) w n
      match r.2 with
      | none => r.1
      | some f => r.1.pinLine w n f) s
/-- MONITOR_TRIGGER: a write has performed to the line (x = 1), or the line is removed (R262). -/
def execMonitorTrigger (s : State) : Host.Outcome State Fault Refusal :=
  let line := s.arg.a
  let hit (w : Wave) : Bool := w.c.mon == some line && (s.arg.x == 0 || w.c.monTrig)
  let s := { s with waves := s.waves.map fun w => if hit w then w.monitorHit else w }
  let parked := (s.waves.filter fun w => w.c.parkLines.any (fun l => l == line)).map fun w => w.uid
  let pinned := s.waves.filterMap fun w =>
    let ns := (w.c.pinAt.filter fun e => e.2 == line).map fun e => e.1
    if ns.isEmpty then none else some (w.uid, ns)
  let s := parked.foldl (fun s u => s.unpark u) s
  let s := pinned.foldl (fun s e => s.retryPinned e.1 e.2) s
  let s := s.grids.foldl (fun s (r : Grid) => if r.doneWait == some line then s.post .doneDecrement r.uid else s) s
  let wake (q : CmdQueue) : CmdQueue :=
    if q.state == .armed line || q.state == .waiting line then { q with state := .reading } else q
  .next { s with hub := { s.hub with queues := s.hub.queues.map wake } }

/-! The write buffer (R269). -/

/-- Lines of a core's write buffer that have waited 64 cycles. -/
def State.wcOld (s : State) (g : Nat) : List Nat :=
  ((s.core g).wc.filter fun l => l.since + 64 ≤ s.cycle).map fun l => l.line
/-- WRITE_COMBINE_FLUSH (R269). -/
def execWriteCombineFlush (s : State) : Host.Outcome State Fault Refusal :=
  .next ((s.wcOld s.arg.a).foldl (fun s l => s.wcFlushLine s.arg.a l) s)

end Sys2Proof.Machine
end

