-- ==== Sys2Proof/Machine/FaultActions.lean ====
section
/-! DEFINITION. The fault ring's registers and the actions on fault records (17_traps_faults_and_preemption.md R422 to
R428), among them the return from a trap, and the cancellation of engine commands (R448, R345, R471). -/
namespace Sys2Proof.Machine
open Sys2Proof

/-! The cancellation of commands (R345, R448, R471). -/

/-- Matrix commands that run to their end once started (R345). -/
def runsToEnd : Instr → Bool
  | .mcfg _ _ | .mcfgQ _ _ | .mzero _ _ | .mscale _ _ | .mhistClear _ _ | .mhistRead _ _ | .mhistPush _ _ => true
  | _ => false
/-- A send a flit of whose packet has left its source (R471). -/
def State.injected (s : State) (c : Cmd) : Bool := s.fab.packets.any fun p => p.cmd == c.uid && p.under
/-- What the fabric holds of a command goes: its packet, its place in a section and in an instance. -/
def State.forget (s : State) (c : Cmd) : State :=
  let colls := s.fab.colls.map fun (i : CollInst) => { i with parts := i.parts.filter fun p => p.far.isSome || p.cmd != c.uid }
  let secs := s.fab.sections.map fun (r : RingSection) => { r with cmds := r.cmds.filter fun k => k.cmd != c.uid }
  { s with fab := { s.fab with packets := s.fab.packets.filter fun p => p.cmd != c.uid, sections := secs,
                               colls := colls.filter fun i => !i.parts.isEmpty } }
/-- A command of a pre-empted (DETAIL 1) or killed (DETAIL 2) wave ends. Whether a command with nothing left to
wait for had begun, and how far it had come, is open; `first` tells that it heads its engine's queue. -/
def State.cancel (s : State) (c : Cmd) (first : Bool) (detail : Nat) : State :=
  let st := statusBad 0x83 detail 0
  if !c.ready || c.depFailed then s.finish c st
  else match c.op with
    | .mapsync _ _ => let r := s.runMapsync c; r.1.finish c (r.2.getD st)
    | .send _ _ => if s.injected c then s else (s.forget c).finish c st
    | .recv _ _ | .xmit _ _ | .isel _ _ | .coll _ _ | .present _ _ | .enq _ _ | .dlaunch _ _ => (s.forget c).finish c st
    | i =>
      let k := s.free
      if !first then s.finish c st
      else if Config.wasDone k.1 then let r := k.2.runEngine c none; r.1.finish c r.2
      else if runsToEnd i then k.2.finish c st
      else let r := k.2.runEngine c (some st); r.1.finish c r.2
/-- Every command of some waves of a core ends. -/
def State.cancelAll (s : State) (core : Nat) (us : List Nat) (detail : Nat) : State :=
  let mine (c : Cmd) : Bool := us.any fun u => u == c.wave
  let k := s.core core
  let benches := s.groups.flatMap fun g => g.bench.filter mine
  let head (c : Cmd) : Bool := (k.matQ.head?.map fun d => d.uid) == some c.uid
  let s := (k.copyQ.filter mine).foldl (fun s c => s.cancel c true detail) s
  let s := (k.matQ.filter mine).foldl (fun s c => s.cancel c (head c) detail) s
  let s := (k.syncQ.filter mine).foldl (fun s c => s.cancel c true detail) s
  benches.foldl (fun s c => s.cancel c true detail) s

/-! Kills (R427). -/

/-- Threads, monitor, marks and lines of a wave end. -/
def Wave.kill (w : Wave) : Wave :=
  let w := w.exitAll
  { w with lines := { w.lines with resident := 0, dirty := 0, pinned := 0 },
           c := { w.c with mon := none, monTrig := false, marks := [], parkVA := 0, parkLines := [], pinAt := [],
                           stopped := false, traprec := 0, stepOnce := false } }
/-- A wave and its surveyor. -/
def State.withPair (s : State) (u : Nat) : List Nat :=
  match s.wave? u with
  | some w => if w.surveyor then [u] else u :: w.pair.toList
  | none => []
/-- Where the save area of a saved group lies (R447). -/
def State.savePa (s : State) (g : Nat) : Option Nat :=
  (s.sw.saved.find? fun x => x.group == g).map fun x =>
    let now := s.sw.slot == x.slot && s.sw.phase == .b
    let pool := if now then wd s.sw.words 1
      else ((s.sw.out.find? fun o => o.1 == x.slot).map fun o => o.2).getD (wd s.sw.words 1)
    pool.toNat + x.off
/-- The save area of a group follows a generation that a kill lets complete while the group is switched out: barrier
generation, watchdog counts and vote state (R196, R447, R450). -/
def State.saveBarrier (s : State) (gen : Word) (u : Nat) : State :=
  match s.group? u, s.savePa u with
  | some g, some pa =>
    if g.barGen == gen then s
    else
      let wdog (k : Nat) : Nat := (((s.members g.uid).find? fun w => w.index == k).map fun w => w.c.wdog).getD 0
      let s := s.llcWrite none (pa + 0x28) ((bytesOfNat 4 g.barGen.toNat).map clean)
      let s := s.llcWrite none (pa + 0x30) (((List.range 32).flatMap fun k => bytesOfNat 4 (wdog k)).map clean)
      s.llcWrite none (pa + 0x12B0) ((bytesOfNat 8 g.votes).map clean)
  | _, _ => s
/-- Kill waves of one core: threads exit, records close, commands end, then what follows from their ends. A group of theirs in
flight goes no further (R263, R427). -/
def State.killWaves (s : State) (us : List Nat) : State :=
  let all := (us.flatMap fun u => s.withPair u).eraseDups
  match all.head?.bind fun u => s.wave? u with
  | none => s
  | some w0 =>
    let core := s.coreOf w0
    let on (u : Nat) : Bool := all.any fun k => k == u
    let gone := s.waves.filter fun w => on w.uid && w.isActive && w.live != 0
    let s := gone.foldl (fun s w => s.traceEvent core w 6 0 w.nextPc.toNat) s
    let s := { s with waves := s.waves.map fun (w : Wave) => if on w.uid then w.kill else w,
                      flight := s.flight.filter fun fl => match fl.owner with | .wave u => !on u | .line _ => true,
                      rep := { s.rep with waiting := s.rep.waiting.filter fun fl => match fl.owner with | .wave u => !on u | .line _ => true },
                      fault := { s.fault with
                        opened := s.fault.opened.filter fun o => !(o.r.wave.any on),
                        waiting := s.fault.waiting.map fun (r : FaultRec) => if r.wave.any on then { r with wave := none } else r } }
    let s := all.foldl (fun s u => s.untrackWave core u) s
    let s := s.cancelAll core all 2
    let gen := ((s.group? w0.group).map fun g => g.barGen).getD 0
    (all.foldl (fun s u => s.afterExit u) s).saveBarrier gen w0.group
/-- Kill a group (R427, R450). -/
def State.killGroup (s : State) (g : Nat) : State :=
  let s := s.killWaves ((s.wavesOf g).map fun w => w.uid)
  let s := s.checkGroup g
  if s.groups.any fun x => x.uid == g then s
  else { s with sw := { s.sw with saved := s.sw.saved.filter fun x => x.group != g } }
/-- Kill a grid: what is placed ends, nothing more is placed. -/
def State.killGrid (s : State) (r : Nat) : State :=
  let s := s.modGrid r fun (x : Grid) => { x with killed := true }
  let gs := (s.groups.filter fun g => g.grid == r).map fun g => g.uid
  let s := gs.foldl (fun s g => s.killGroup g) s
  if s.groups.any (fun g => g.grid == r) || s.posted.any fun o => o.instr == .doneDecrement && o.arg.a == r then s
  else s.checkGrid r
/-- Kill every grid of a context slot. -/
def State.killSlot (s : State) (slot : Nat) : State :=
  ((s.grids.filter fun r => r.slot == slot).map fun r => r.uid).foldl (fun s r => s.killGrid r) s

/-! Actions (R426, R427). -/

/-- An open record and, for a kind-0 record, its wave. -/
def State.openRec (s : State) (j : Nat) : Option OpenRec := s.fault.opened.find? fun o => o.idx == j
def State.recWave (s : State) (j : Nat) : Option (FaultRec × Wave) :=
  (s.openRec j).bind fun o => (o.r.wave.bind fun u => s.wave? u).map fun w => (o.r, w)
/-- An action on a switched-out wave waits for the switch in (R450), and the write that asked for it completes only then
(R426). -/
def State.waitAct (s : State) (i : Instr) (j : Nat) : State :=
  let o : Offer := { instr := i, arg := { s.arg with a := j } }
  let e : LateWr := { wave := if s.arg.b == 0 then none else some (s.arg.b - 1), srn := 0x014, value := s.arg.x }
  if s.sw.acts.any fun p => p == o then s
  else { s with sw := { s.sw with acts := s.sw.acts ++ [o] }, lateWr := s.lateWr ++ [e] }
/-- The wave issues again: its failed reads and writes of its context are tried again (R427, R435). -/
def State.goOn (s : State) (u : Nat) : State :=
  match s.wave? u with
  | none => s
  | some w =>
    let s := s.modWave u fun (w : Wave) =>
      match w.act with
      | .dormant c f true => { w with act := .dormant c f false }
      | _ => w
    s.retryPinned u ((List.range 133).filter fun n => w.lines.pinned.getLsbD n)
/-- Header words of a dormant wave that an action has changed reach its context, where they can (R213, R427). -/
def State.syncHeader (s : State) (u : Nat) (old : List Dword) : State :=
  match s.wave? u with
  | none => s
  | some w =>
    match w.act with
    | .dormant _ false _ =>
      let g := s.coreOf w
      let slot := s.slotOf w
      let news := ((w.header (s.pairCtx w)).zipIdx.zip old).filter fun e => e.1.1 != e.2
      news.foldl (fun s e =>
        let va := w.ctx + BitVec.ofNat 64 (headOff e.1.2)
        let r := s.ctxProbe g slot 0xFF va
        match r.2 with
        | .inl _ => r.1
        | .inr p => (r.1.ctxWrite g [p] va (cleanBytes 8 e.1.1.toNat)).modWave u fun (w : Wave) =>
            { w with img := w.img.set e.1.2 e.1.1 }) s
    | _ => s
/-- Return from a trap (R427): `next` gives the trapping threads NEXT, else every PC stays. -/
def State.goBack (s : State) (j : Nat) (next : Bool) : State :=
  match s.recWave j with
  | none => s
  | some (r, w) =>
    if r.kind != 0 then s
    else if s.isSaved w then s.waitAct (if next then .faultResume else .faultReplay) j
    else
      let s := (s.closeRec j).resumeWave w.uid fun _ pc => pc
      let s := if w.surveyor && (s.pairOf w).any fun v => v.c.stopped then s.stopWave w.uid else s
      let at0 (i : Fin 32) : Option Dword := (r.nexts[i.val]?).bind fun x => x
      let m := Mask.build fun i => (at0 i).isSome && (w.threads.get i).st == .runnable
      let s := if !next || m == 0 then s.modWave w.uid fun w => w.regroup
        else s.modWave w.uid fun v => v.settle (m ||| (v.cur &&& v.inState .runnable))
          (fun i => if m.has i then (at0 i).getD (v.threads.get i).pc else (v.threads.get i).pc)
          (fun i => if m.has i then none else (v.threads.get i).via)
          (fun i => !m.has i && (v.threads.get i).back) r.rotate
      (s.goOn w.uid).syncHeader w.uid (w.header (s.pairCtx w))
/-- FAULT_RESUME (R427). -/
def execFaultResume (s : State) : Host.Outcome State Fault Refusal := .next (s.goBack s.arg.a true)
/-- FAULT_REPLAY (R427). -/
def execFaultReplay (s : State) : Host.Outcome State Fault Refusal := .next (s.goBack s.arg.a false)
/-- What a kill does for record j, by the levels of R427: wave, group, grid, context. -/
def State.killFor (s : State) (j level : Nat) : State :=
  match s.openRec j, s.recWave j with
  | none, _ => s
  | some o, some (_, w) =>
    let s := s.closeRec j
    (match level with
      | 2 => s.killWaves [w.uid]
      | 3 => s.killGroup w.group
      | 4 => (match s.group? w.group with | some g => s.killGrid g.grid | none => s)
      | _ => s.killSlot o.r.slot)
  | some o, none => let s := s.closeRec j; if level == 5 then s.killSlot o.r.slot else s
/-- FAULT_KILL_WAVE (R427). -/
def execFaultKillWave (s : State) : Host.Outcome State Fault Refusal := .next (s.killFor s.arg.a 2)
/-- FAULT_KILL_GROUP (R427). -/
def execFaultKillGroup (s : State) : Host.Outcome State Fault Refusal := .next (s.killFor s.arg.a 3)
/-- FAULT_KILL_GRID (R427). -/
def execFaultKillGrid (s : State) : Host.Outcome State Fault Refusal := .next (s.killFor s.arg.a 4)
/-- FAULT_KILL_CONTEXT (R427). -/
def execFaultKillContext (s : State) : Host.Outcome State Fault Refusal := .next (s.killFor s.arg.a 5)
/-- FAULT_VACATE: the stopped wave leaves its slot, the record stays open (R427). -/
def execFaultVacate (s : State) : Host.Outcome State Fault Refusal :=
  .next (match s.recWave s.arg.a with
    | none => s
    | some (_, w) =>
      if !w.c.stopped then s
      else if s.isSaved w then s.waitAct .faultVacate s.arg.a
      else if w.isActive then (s.deactivatePair w.uid).1 else s)

/-! The policy of a region (R108, R428). -/

/-- FDPOL of a region named through slot: kill context when its block cannot be read or is invalid. -/
def State.policyOf (s : State) (slot : Nat) (region : Dword) : Nat :=
  match (s.chain slot region).2 with
  | .inl _ => 5
  | .inr ch =>
    let e := effOf region ch
    match (s.handlersOk e.slot ch.handlers).2 with
    | .inr true => if ch.ok then e.fdpol else 5
    | _ => 5
/-- FDPOL of a grid's region. -/
def State.policy (s : State) (r : Grid) : Nat := s.policyOf r.rslot r.region
/-- FAULT_TIMEOUT (R428): the control node's time has passed, or (c = 1) the handler has ended or was refused. -/
def execFaultTimeout (s : State) : Host.Outcome State Fault Refusal :=
  let j := s.arg.a
  .next (match s.openRec j with
    | none => s
    | some o =>
      if o.r.kind != 0 || (s.arg.c != 1 && !(o.expires.any fun t => t ≤ s.now)) then s
      else
        let p := match (o.r.wave.bind fun u => s.wave? u).bind fun w => s.gridOf w with
          | some r => s.policy r
          | none => s.policyOf o.r.slot o.r.region
        let p := if o.r.code == 0x09 && p ≤ 2 then 3 else p
        match p with
        | 0 => s.goBack j true
        | 1 => s.goBack j false
        | k => s.killFor j k)

/-! The ring's registers (R422, R424). -/

/-- FAULT_HEAD_WRITE (R422, R424). -/
def execFaultHeadWrite (s : State) : Host.Outcome State Fault Refusal :=
  .next ({ s with fault := { s.fault with head := s.arg.x } }.drainFaults)
/-- FAULT_CTL (R422). -/
def execFaultCtl (s : State) : Host.Outcome State Fault Refusal :=
  .next ({ s with fault := { s.fault with ctl := keepBits s.arg.x 5 0 ||| keepBits s.arg.x 31 16 } }.drainFaults)

end Sys2Proof.Machine
end

