-- ==== Sys2Proof/Machine/Switch.lean ====
section
/-! DEFINITION. Pre-emption: switch requests, the phases of a switch out, the switch in
(17_traps_faults_and_preemption.md R445 to R452), and the bookends of surveyor pairs (11_tokens_copy_and_tasks.md
R319). -/
namespace Sys2Proof.Machine
open Sys2Proof

/-! Requests (R445, R446). -/

/-- The words of a request, or the trap code of a fault on it. -/
def State.swRead (s : State) (pa : Nat) : Nat ⊕ List Dword :=
  if !s.inMem pa 64 then .inl 0x05
  else
    let bs := s.llcBytes pa 64
    if anyBad bs then .inl 0x08 else .inr (wordsOf 8 bs)
/-- The first word of a request that is not legal. -/
def swBad (ws : List Dword) : Option Nat :=
  (List.range 8).find? fun k =>
    match k with
    | 0 => bits (wd ws 0) 63 14 != 0 || 1 < bits (wd ws 0) 13 12
    | 1 => bits (wd ws 1) 11 0 != 0
    | 2 => false
    | 3 => bits (wd ws 3) 2 0 != 0
    | k => wd ws k != 0
/-- A request is for a switch in. -/
def swIsIn (ws : List Dword) : Bool := bits (wd ws 0) 13 12 == 1
/-- The request ends with a status at DONE; a record stands for one that cannot be written. -/
def State.swEnd (s : State) (ws : List Dword) (st : Dword) : State :=
  let s := { s with sw := { s.sw with phase := .idle, words := [], groups := [], bytes := 0, error := none } }
  let a := (wd ws 3).toNat
  if a % 8 == 0 && s.inMem a 8 then s.purgePutWord a st
  else s.frontFault (bits (wd ws 0) 11 0) 0 0x05 0 (wd ws 3)
/-- The request at the head of the queue. -/
def State.swHead (s : State) : Option (Nat × (Nat ⊕ List Dword)) :=
  if s.sw.phase != .idle then none
  else (s.sw.queue.head?).map fun e => (e.1.toNat, s.swRead e.1.toNat)
def State.swPop (s : State) : State := { s with sw := { s.sw with queue := s.sw.queue.drop 1 } }.drainReqs

/-! The save area of a group (R447). -/

/-- Bytes of a group's save area. -/
def Group.saveBytes (g : Group) : Nat := 12288 + 131072 * (g.sbanks.length + g.obanks.length)
/-- Bytes of a tensor record: 72. -/
def Tensor.saved (t : Tensor) : List Byte :=
  let slot (k : Nat) : Nat := (k + 16 - t.oldest % 16) % 16
  bytesOfNat 8 (t.smode.toNat + 2 ^ 8 * t.fixe.toNat + 2 ^ 16 * t.margin.toNat + 2 ^ 24 * t.ring.length + 2 ^ 32 * t.oldest)
    ++ (List.range 16).flatMap fun k => bytesOfNat 4 (t.ring.getD (slot k) 0).toNat
/-- Bytes of a held flit: 36. -/
def HeldFlit.saved (f : HeldFlit) : List PByte :=
  (bytesOfNat 32 f.data.toNat).zipIdx.map (fun b => ({ v := b.1, bad := f.bad.getLsbD b.2 } : PByte))
    ++ cleanBytes 4 (f.dst / 32 % 2 ^ 17 + 2 ^ 17 * (f.ch % 8) + (if f.last then 2 ^ 20 else 0) + 2 ^ 21)
/-- The group part. -/
def State.groupPart (s : State) (g : Group) : List PByte :=
  let m := g.mat
  let wdog (k : Nat) : Nat := (((s.members g.uid).find? fun w => w.index == k).map fun w => w.c.wdog).getD 0
  let flits := (g.heldFlits.take 112).flatMap HeldFlit.saved
  (bytesOfNat 8 (m.afmt.toNat + 2 ^ 4 * m.bfmt.toNat + 2 ^ 8 * m.aread.toNat + 2 ^ 12 * m.bread.toNat
      + 2 ^ 16 * m.mprog.toNat)
    ++ (g.arrive.toList.flatMap fun (n : Word) => bytesOfNat 4 n.toNat)
    ++ bytesOfNat 8 (g.barGen.toNat + (if g.inSection || g.cutSection then 2 ^ 32 else 0))
    ++ (List.range 32).flatMap (fun k => bytesOfNat 4 (wdog k))
    ++ (List.range 64).flatMap (fun t => (g.tensor t).saved)
    ++ bytesOfNat 8 (g.votes)
    ++ List.replicate 3400 0).map clean
  ++ flits ++ List.replicate (4096 - flits.length) (clean 0)
/-- The bytes of the accumulator tiles, as the operand-buffer banks hold them. -/
def Group.accBytesAt (g : Group) (k : Nat) : PByte :=
  let x := g.acc.get (k / 4)
  { v := x.1.extractLsb' (8 * (k % 4)) 8, bad := x.2 }
/-- Write a group's save area at a physical address. What its waves have stored leaves the core and the die, so that
their accesses after a return on another die follow it (R242, R247). -/
def State.saveGroup (s : State) (g : Group) (pa : Nat) : State :=
  let n := 131072 * g.sbanks.length
  let s := (s.wcFlush g.core (BitVec.allOnes 16)).writeBackDie (dieOf g.core)
  let s := s.llcWrite none pa (s.groupPart g)
  let s := s.llcWrite none (pa + 12288) (g.scratch.read 0 n)
  s.llcWrite none (pa + 12288 + n) ((List.range (131072 * g.obanks.length)).map g.accBytesAt)

/-- A number in a list of bytes. -/
def numAt (bs : List PByte) (off n : Nat) : Nat := natOf ((bs.drop off).take n)
/-- A tensor record as the pool holds it. -/
def tensorAt (bs : List PByte) (t : Nat) : Tensor :=
  let o := 0xB0 + 72 * t
  let w := numAt bs o 8
  let old := w / 2 ^ 32 % 16
  let n := min (w / 2 ^ 24 % 256) 16
  { id := t, smode := BitVec.ofNat 8 w, fixe := BitVec.ofNat 8 (w / 2 ^ 8), margin := BitVec.ofNat 8 (w / 2 ^ 16),
    ring := (List.range n).map fun k => BitVec.ofNat 32 (numAt bs (o + 8 + 4 * ((old + k) % 16)) 4), oldest := old }
/-- The held flits that the pool holds: address, channel, last flag, bytes. -/
def flitsAt (bs : List PByte) : List (Nat × Nat × Bool × List PByte) :=
  (List.range 112).filterMap fun k =>
    let o := 0x2000 + 36 * k
    let w := numAt bs (o + 32) 4
    if w / 2 ^ 21 % 2 == 1 then
      some (32 * (w % 2 ^ 17), w / 2 ^ 17 % 8, w / 2 ^ 20 % 2 == 1, (bs.drop o).take 32)
    else none
/-- A group as its save area gives it back, on a core with the banks granted there. -/
def Group.restore (g : Group) (part banks acc : List PByte) (core : Nat) (sb ob : List Nat) : Group :=
  let w := numAt part 0 8
  let mat : MatState :=
    { afmt := BitVec.ofNat 4 w, bfmt := BitVec.ofNat 4 (w / 2 ^ 4), aread := BitVec.ofNat 4 (w / 2 ^ 8),
      bread := BitVec.ofNat 4 (w / 2 ^ 12), mprog := BitVec.ofNat 40 (w / 2 ^ 16) }
  let words := (List.range (acc.length / 4)).foldl (fun (st : WordStore) k =>
    let bs := (acc.drop (4 * k)).take 4
    if natOf bs == 0 && !anyBad bs then st else st.put k (BitVec.ofNat 32 (natOf bs)) (anyBad bs)) { cells := [], bad := [] }
  { g with core := core, sbanks := sb, obanks := ob, scratch := Store.empty.write 0 banks, acc := words, mat := mat,
           arrive := Vector.ofFn fun k => BitVec.ofNat 32 (numAt part (8 + 4 * k.val) 4),
           barGen := BitVec.ofNat 32 (numAt part 0x28 4),
           tensors := (List.range 64).map fun t => tensorAt part t,
           voteT := numAt part 0x12B0 1 % 2 == 1, voteF := numAt part 0x12B0 1 / 2 % 2 == 1,
           saved := false, inSection := false, cutSection := false, heldFlits := [] }

/-! Sections that end (R452, R500). -/

/-- The scheduled commands and flits of an open section end. -/
def State.endSection (s : State) (cluster : Nat) : State :=
  let r := s.section cluster
  let cs := r.cmds.filterMap fun d => s.cmdOf d.gcore d.cmd
  let s := s.setSection { r with cmds := [], flits := [] }
  cs.foldl (fun s c => s.finish c (statusBad 0x83 1 0)) s
/-- Every wave of a section stands again at the group that holds its opening barc. -/
def State.restartSection (s : State) (cluster : Nat) : State :=
  let r := s.section cluster
  let back (w : Wave) : Wave :=
    if !w.surveyor && r.members.any fun g => g == w.group then
      (w.setThreads w.live fun _ t => { t with pc := t.barc, st := .runnable, meet := 0, via := none, back := false }).select
    else w
  let stays (fl : Flight) : Bool := (s.owner fl.owner).all fun w => !r.members.any fun g => g == w.group
  let s := { s with waves := s.waves.map back, rep := { s.rep with waiting := s.rep.waiting.filter stays } }
  let s := r.members.foldl (fun s g => s.modGroup g fun (x : Group) => { x with inSection := false }) s
  s.setSection { r with members := [], t0 := none, closing := [] }
/-- Clusters whose section is open, or about to open, with a group of a slot. -/
def State.sectionsOf (s : State) (slot : Nat) : List Nat :=
  (s.fab.sections.filter fun r =>
    r.t0.isSome && r.members.any fun g => (s.group? g).any fun x => (s.grid? x.grid).any fun y => y.slot == slot).map
      fun r => r.cluster

/-! Switch out (R319, R447, R448). -/

/-- Placed groups of a slot. -/
def State.slotGroups (s : State) (slot : Nat) : List Group :=
  s.groups.filter fun g => !g.saved && (s.grid? g.grid).any fun r => r.slot == slot
/-- Waves of some groups. -/
def State.wavesIn (s : State) (gs : List Nat) : List Wave := s.waves.filter fun w => gs.any fun g => g == w.group
/-- A wave that its surveyor feeds, which runs on to its bookend (R319). -/
def Wave.mustBook (w : Wave) : Bool :=
  !w.surveyor && w.pair.isSome && w.live != 0 && !w.c.stopped && !w.c.halted
/-- Stage 1: a bookend behind the entries of every window. Threads that waited in qpop for an entry replay it. -/
def Wave.addBookends (w : Wave) : Wave :=
  if w.mustBook then
    let w := { w with windows := (List.range 8).map fun q => w.window q ++ [{ data := Line.fill 0, bad := 0, bookend := true }] }
    let m := Mask.build fun i => (w.threads.get i).st == .waiting && (w.threads.get i).wkind == .window
    if m == 0 then w else w.wake m
  else w
/-- Commands of some groups are cancelled. -/
def State.cancelGroups (s : State) (gs : List Nat) (detail : Nat) : State :=
  gs.foldl (fun s g => match s.group? g with
    | some x => s.cancelAll x.core ((s.wavesOf g).map fun w => w.uid) detail
    | none => s) s
/-- A group's arrival at a barc that has not opened is forgotten; it arrives again after the switch in. -/
def State.leaveOpening (s : State) (gs : List Nat) : State :=
  { s with fab := { s.fab with sections := s.fab.sections.map fun (r : RingSection) =>
      { r with opening := r.opening.filter fun g => !gs.any fun u => u == g } } }
/-- Groups of other slots in the open sections of a slot's groups: the cores of a section leave together (R452). -/
def State.sectionFellows (s : State) (slot : Nat) : List Group :=
  let us := (s.sectionsOf slot).flatMap fun c => (s.section c).members
  let own := (s.slotGroups slot).map fun g => g.uid
  s.groups.filter fun g => !g.saved && us.any (fun u => u == g.uid) && !own.any fun u => u == g.uid
/-- Start of phase A. -/
def State.startOut (s : State) (ws : List Dword) (service : Bool) : State :=
  let slot := bits (wd ws 0) 11 0
  let gs := if (s.slotGroups slot).isEmpty then [] else s.slotGroups slot ++ s.sectionFellows slot
  let total := natSum (gs.map fun g => g.saveBytes)
  if gs.isEmpty then s.swEnd ws (statusOk 1 0 0)
  else if (wd ws 2).toNat < total then s.swEnd ws (statusBad 0x86 3 0)
  else if !s.inMem (wd ws 1).toNat total then s.swEnd ws (statusBad 0x81 2 0)
  else
    let us := gs.map fun g => g.uid
    let s := { s with sw := { s.sw with phase := .a, words := ws, slot := slot, groups := us, bytes := 0, error := none,
                                        service := service } }
    let mine (w : Wave) : Bool := us.any fun g => g == w.group
    let s := { s with waves := s.waves.map fun w => if mine w then w.addBookends else w }
    let cs := s.sectionsOf slot
    let cut := cs.flatMap fun c => ((s.section c).members.filter fun u => (s.group? u).any fun x => x.inSection)
    let s := cs.foldl (fun s c => (s.endSection c).restartSection c) s
    let s := cut.foldl (fun s u => s.modGroup u fun (x : Group) => { x with cutSection := true }) s
    (s.leaveOpening us).cancelGroups us 1
/-- SWITCH_OUT (R447). -/
def execSwitchOut (s : State) : Host.Outcome State Fault Refusal :=
  .next (match s.swHead with
    | none => s
    | some (pa, .inl code) => s.swPop.frontFault 0 0 (BitVec.ofNat 8 code) 0 (BitVec.ofNat 64 pa)
    | some (_, .inr ws) =>
      if swIsIn ws then s
      else match swBad ws with
        | some k => s.swPop.swEnd ws (statusBad 0x86 (k + 1) 0)
        | none => s.swPop.startOut ws false)

/-- A wave has still to reach its bookend. -/
def State.bookOpen (s : State) : Bool :=
  (s.wavesIn s.sw.groups).any fun w => w.mustBook && w.windows.any fun q => q.any fun e => e.bookend
/-- Commands of the groups that have not completed. -/
def State.cmdsOpen (s : State) : Bool := (s.wavesIn s.sw.groups).any fun w => w.tokensOpen != 0
/-- Phase A has ended. -/
def State.outReady (s : State) : Bool :=
  s.sw.phase == .a && !s.sw.service && bits (wd s.sw.words 0) 13 12 == 0 && !s.bookOpen
    && !s.waves.any fun w => s.sw.groups.any (fun g => g == w.group) && s.suspended w.uid
/-- Write the lines and headers of a group's activated waves: false when a writeback faults (R435); every wave of the
group then stands still (R446). -/
def State.dormantGroup (s : State) (g : Nat) : State × Bool :=
  let r := (s.wavesOf g).foldl (fun (acc : State × Bool) w =>
    let r := acc.1.deactivate w.uid
    (r.1, acc.2 && r.2)) (s, true)
  if r.2 then r else ((s.wavesOf g).foldl (fun s w => s.stopWave w.uid) r.1, false)
/-- SWITCH_PHASE_B (R447): the commands of waves that met their bookends end first. -/
def execSwitchPhaseB (s : State) : Host.Outcome State Fault Refusal :=
  .next (if !s.outReady then s
    else
      let s := s.cancelGroups s.sw.groups 1
      if s.cmdsOpen then s
      else
        let s := s.sw.groups.foldl (fun (s : State) g =>
          let s := { s with waves := s.waves.map fun (w : Wave) => if w.group == g then { w with windows := [] } else w }
          let r := s.dormantGroup g
          if r.2 then
            match r.1.group? g with
            | none => r.1
            | some x =>
              let off := r.1.sw.bytes
              let s := r.1.saveGroup x ((wd r.1.sw.words 1).toNat + off)
              { s with sw := { s.sw with bytes := off + x.saveBytes,
                                         saved := s.sw.saved ++ [{ group := g, slot := s.sw.slot, off, size := x.saveBytes }] } }
          else { r.1 with sw := { r.1.sw with error := some (statusBad 0x80 4 0) } }) s
        { s with sw := { s.sw with phase := .b } })
/-- SWITCH_PHASE_C (R447, R471): grants, accumulators and shelf holdings are released, held flits are saved, and the
status is written. -/
def execSwitchPhaseC (s : State) : Host.Outcome State Fault Refusal :=
  .next (if s.sw.phase != .b || s.sw.service then s
    else
      let ws := s.sw.words
      let mine := s.sw.saved.filter fun x => s.sw.groups.any fun g => g == x.group
      let s := mine.foldl (fun s x =>
        match s.group? x.group with
        | none => s
        | some g =>
          let fl := (g.heldFlits.take 112).flatMap HeldFlit.saved
          let s := s.llcWrite none ((wd ws 1).toNat + x.off + 0x2000) fl
          let s := s.modCore g.core fun (c : Core) => { c with sections := c.sections.filter fun e => e.group != g.uid }
          let s := s.modGroup g.uid fun (y : Group) =>
            { y with saved := true, scratch := Store.empty, acc := { cells := [], bad := [] }, heldFlits := [] }
          s.applyRoles g.core) s
      let out := if mine.isEmpty then s.sw.out
        else (s.sw.slot, wd ws 1) :: s.sw.out.filter fun o => o.1 != s.sw.slot
      let n := s.sw.bytes
      let st := s.sw.error.getD (statusOk 0 0 n)
      { s with sw := { s.sw with out := out } }.swEnd ws st)

/-! Switch in (R450, R451). -/

/-- A saved group finds room on a core (R113). -/
def State.fitsOn (s : State) (g : Group) (core : Nat) : Bool :=
  match s.grid? g.grid with
  | none => false
  | some r =>
    match (s.effective r.rslot r.region).2 with
    | none => false
    | some e =>
      s.coreUp core && decide ((s.groups.filter fun x => x.core == core && !x.saved).length < 64)
        && g.sbanks.length ≤ (s.freeBanks core 0).length && g.obanks.length ≤ (s.freeBanks core 2).length
        && s.budgetOk e.slot e.chain core r.kd.need
        && (List.range e.chain.length).all fun k => 0 < (effOf 0 (e.chain.drop k)).rclines
/-- A saved group can be placed on a core (R113, R114). -/
def State.canReturn (s : State) (g : Group) (core : Nat) : Bool :=
  s.fitsOn g core && ((s.grid? g.grid).any fun r => !s.outranked (s.gridPrio r) r.seq)
/-- A saved group returns on a core. Its waves are placed anew, so that they are the youngest of that core (R124). -/
def State.returnGroup (s : State) (x : SavedGroup) (g : Group) (core : Nat) : State :=
  let pa := (wd s.sw.words 1).toNat + x.off
  let n := 131072 * g.sbanks.length
  let part := s.llcBytes pa 12288
  let banks := s.llcBytes (pa + 12288) n
  let acc := s.llcBytes (pa + 12288 + n) (131072 * g.obanks.length)
  let y := g.restore part banks acc core ((s.freeBanks core 0).take g.sbanks.length) ((s.freeBanks core 2).take g.obanks.length)
  let s := s.modGroup g.uid fun _ => y
  let s := (flitsAt part).foldl (fun s f =>
    let s := s.modGroup g.uid fun (z : Group) => { z with scratch := z.scratch.write f.1 f.2.2.2 }
    if f.2.2.1 then s.modGroup g.uid fun (z : Group) => z.countArrival f.2.1 else s) s
  let wake (w : Wave) : Wave :=
      let c := if w.surveyor then w.c else { w.c with wdog := numAt part (0x30 + 4 * w.index) 4 }
      match w.act with
      | .dormant _ f b => { w with c := c, act := .dormant s.cycle f b }
      | .active .. => { w with c := c }
  let s := { s with waves := (s.waves.filter fun (w : Wave) => w.group != g.uid) ++ (s.wavesOf g.uid).map wake,
                    sw := { s.sw with saved := s.sw.saved.filter fun z => z.group != g.uid, bytes := s.sw.bytes + x.size } }
  (s.fenceCore core true false 5 (BitVec.allOnes 16)).noteBarc g.uid
/-- The saved groups of a slot that still exist, those of the highest effective PRIO first (R114, R451). -/
def State.waitingIn (s : State) (slot : Nat) : List (SavedGroup × Group) :=
  let gs := (s.sw.saved.filter fun x => x.slot == slot).filterMap fun x => (s.group? x.group).map fun g => (x, g)
  let prio (g : Group) : Nat := ((s.grid? g.grid).map fun r => s.gridPrio r).getD 0
  (List.range 16).flatMap fun k => gs.filter fun e => min 15 (prio e.2) == 15 - k
/-- The grids of saved groups count as accepted at the moment of the switch in (R451). -/
def State.reaccept (s : State) (slot : Nat) : State :=
  let mine := (s.waitingIn slot).map fun e => e.2.grid
  { s with seq := s.seq + 1, grids := s.grids.map fun (r : Grid) =>
      if mine.any fun u => u == r.uid then { r with seq := s.seq + 1 } else r }
/-- Return as many groups of a slot as fit, trying cores from one on. A group that no core takes does not hold back those
behind it (R114); the groups that a cluster test moves go before everything else (R520). -/
def State.returnAll (s : State) (slot core : Nat) : Nat → State
  | 0 => s
  | n + 1 =>
    let cores := (List.range 768).map fun k => (core + k) % 768
    match (s.waitingIn slot).findSome? fun e => (cores.find? fun k => if slot == 4096 then s.fitsOn e.2 k else s.canReturn e.2 k).map fun k => (e, k) with
    | none => s
    | some (e, k) => (s.returnGroup e.1 e.2 k).returnAll slot core n
/-- The request goes on: with every group placed, what waited for the slot goes on and the status is written. -/
def State.goIn (s : State) (core : Nat) : State :=
  let s := s.returnAll s.sw.slot core s.sw.saved.length
  let slot := s.sw.slot
  if !(s.waitingIn slot).isEmpty then s
  else
    let ws := s.sw.words
    let n := s.sw.bytes
    let acts := s.sw.acts
    let s := { s with grids := s.grids.map fun (r : Grid) => if r.slot == slot then { r with held := false } else r,
                      sw := { s.sw with out := s.sw.out.filter fun o => o.1 != slot, acts := [],
                                        saved := s.sw.saved.filter fun x => x.slot != slot },
                      posted := s.posted ++ acts, lateWr := s.lateWr.filter fun e => e.srn != 0x014 }
    s.swEnd ws (statusOk 0 0 n)
/-- SWITCH_IN (R451). -/
def execSwitchIn (s : State) : Host.Outcome State Fault Refusal :=
  .next (if s.sw.phase == .a && !s.sw.service && swIsIn s.sw.words then s.goIn s.arg.b
    else match s.swHead with
    | some (_, .inr ws) =>
      if !swIsIn ws then s
      else
        let slot := bits (wd ws 0) 11 0
        let total := natSum ((s.sw.saved.filter fun x => x.slot == slot).map fun x => x.size)
        let t := s.swPop
        match swBad ws with
        | some k => t.swEnd ws (statusBad 0x86 (k + 1) 0)
        | none =>
          if !s.sw.out.any fun o => o.1 == slot then t.swEnd ws (statusOk 1 0 0)
          else if (wd ws 2).toNat < total then t.swEnd ws (statusBad 0x86 3 0)
          else if !s.inMem (wd ws 1).toNat total then t.swEnd ws (statusBad 0x81 2 0)
          else
            let t := t.reaccept slot
            ({ t with sw := { t.sw with phase := .a, words := ws, slot := slot, groups := [], bytes := 0, error := none,
                                        service := false } }).goIn s.arg.b
    | _ => s)

end Sys2Proof.Machine
end

