-- ==== Sys2Proof/Machine/DebugSteps.lean ====
section
/-! DEFINITION. The steps of the debug unit, of trace and profile, and of recording and replay
(21_debug_trace_and_replay.md R487 to R512). -/
namespace Sys2Proof.Machine
open Sys2Proof

/-- Every core in turn. -/
def State.eachCore (s : State) (f : State → Nat → State) : State := (List.range 768).foldl f s

/-! The debug table (R487, R488). -/

/-- DBG_TABLE (R488). What a core has queued goes to the ring of its old entry first. -/
def execDbgTable (s : State) : Host.Outcome State Fault Refusal :=
  let s := s.eachCore fun s g => s.traceDrain g 64
  .next ({ s with dbg := { s.dbg with table := keepBits s.arg.x 51 12 } }.eachCore State.readDbgEntry)
/-- DBG_SYNC (R487, R488). -/
def execDbgSync (s : State) : Host.Outcome State Fault Refusal :=
  let g := bits s.arg.x 9 0
  .next (if bit s.arg.x 10 then s.eachCore State.readDbgEntry else if g < 768 then s.readDbgEntry g else s)

/-! Halt, resume, step, deactivate (R497 to R501). -/

/-- The slot that the debug unit names. -/
def State.dbgSlot (s : State) : Nat := bits s.dbg.ctl 11 0
/-- DBG_HALT (R497, R499); with c = 1, the end of the commands of sections that a halt reaches (R500). -/
def execDbgHalt (s : State) : Host.Outcome State Fault Refusal :=
  .next (if s.arg.c == 1 then
      (if s.slotHalted s.dbgSlot then (s.sectionsOf s.dbgSlot).foldl (fun s c => s.endSection c) s else s)
    else s.haltTrigger s.dbgSlot 3 0 0 0 0)
/-- DBG_RESUME (R501); sections of the slot start again at their opening barc (R500). -/
def execDbgResume (s : State) : Host.Outcome State Fault Refusal :=
  .next (if !s.slotHalted s.dbgSlot then s
    else
      let slot := s.dbgSlot
      let s := (s.sectionsOf slot).foldl (fun s c => (s.endSection c).restartSection c) s
      let s := { s with dbg := { s.dbg with cause := 0, halted := false } }
      s.waves.foldl (fun s w =>
        if s.slotOf w == slot && (w.c.halted || w.c.stepOnce) then
          let s := s.modWave w.uid fun (w : Wave) => { w with c := { w.c with halted := false, stepOnce := false } }
          if w.isActive then s.traceEvent (s.coreOf w) w 8 0 w.nextPc.toNat else s
        else s) s)
/-- DBG_STEP (R501). -/
def execDbgStep (s : State) : Host.Outcome State Fault Refusal :=
  let here (w : Wave) : Bool :=
    w.isActive && w.slot == s.arg.b && s.coreOf w == s.arg.a && s.slotOf w == s.dbgSlot && w.c.halted && w.cur != 0
  .next (match s.waves.find? here with
    | none => s
    | some w => s.modWave w.uid fun (w : Wave) => { w with c := { w.c with halted := false, stepOnce := true } })
/-- DBG_DEACTIVATE (R500). Where a group of the slot is in flight, its wave can become dormant only once the group has ended. -/
def execDbgDeactivate (s : State) : Host.Outcome State Fault Refusal :=
  let flying := s.waves.any fun w => s.slotOf w == s.dbgSlot && s.flight.any fun fl => fl.owner == .wave w.uid
  .next (if !s.slotHalted s.dbgSlot then s
    else if flying then s.post .dbgDeactivate 0 0 0 0
    else s.waves.foldl (fun s w =>
      if s.slotOf w == s.dbgSlot && w.isActive && w.c.halted && !s.suspended w.uid then (s.deactivatePair w.uid).1 else s) s)

/-! Profile (R505, R506). -/

/-- DBG_PROFILE_DUMP (R506). -/
def execDbgProfileDump (s : State) : Host.Outcome State Fault Refusal :=
  .next (s.eachCore fun s g => s.snapshot g 2 0 0)
/-- DBG_PROFILE_CLEAR (R505). -/
def execDbgProfileClear (s : State) : Host.Outcome State Fault Refusal :=
  .next { s with cores := s.cores.map fun (c : Core) => { c with conflicts := [], lostCyc := 0, fwd := 0, rmiss := 0 } }

/-! PC samples (R495, R496). -/

/-- The core takes PC samples. -/
def Core.sampling (c : Core) : Bool := c.tracing && bit (wd c.trace.entry 1) 9
/-- The exit address of the last thread of a wave to exit. -/
def Wave.lastExit (w : Wave) : Dword :=
  (w.threads.toList.foldl (fun (b : Thread) t => if b.wfrom < t.wfrom then t else b) (w.threads.get 0)).pc
/-- A bundle of the wave's last group issues in this cycle. -/
def State.issuing (s : State) (w : Wave) : Bool :=
  let g := s.coreOf w
  w.lastIssue ≤ s.cycle && s.cycle < (s.core g).free && w.issued != 0
    && !(s.wavesOn g).any fun v => decide (w.lastIssue < v.lastIssue)
/-- The wave's next group issues in this cycle, as the core's selection that is still to come finds it. -/
def State.issuesNow (s : State) (w : Wave) : Bool :=
  (s.issueCore (s.coreOf w)).flight.any fun fl => fl.owner == .wave w.uid
/-- STATE and ADDR of a sample (R496): of the table's codes the first that applies. A wave that only a full queue, a switch or
a system-register write still holds is ready by R123. -/
def State.sampleOf (s : State) (w : Wave) : Nat × Dword :=
  let pc := w.nextPc
  let idle := w.live &&& ~~~w.inState .parked
  if w.c.stopped || w.c.halted then (9, pc)
  else if s.issuing w then (0, w.lastPc)
  else if s.issuesNow w then (0, pc)
  else if w.live == 0 then (8, w.lastExit)
  else if w.inState .runnable == 0 then
    if idle == 0 then (7, pc)
    else (6, BitVec.ofNat 64 (((idle.list.map fun i => (w.threads.get i).pc.toNat).min?).getD 0))
  else if s.cycle < w.wakeAt then (6, pc)
  else if s.suspended w.uid then (2, pc)
  else if w.cur == 0 then (1, pc)
  else match s.groupReadiness w with
    | .no => (1, pc)
    | .fetch => (4, pc)
    | .line _ _ => (5, pc)
    | .held => (2, pc)
    | .banks _ => (3, pc)
    | .queued | .replay _ | .go _ => (1, pc)
/-- A bundle is present on a core: its line is in L1. -/
def State.present (s : State) (g slot : Nat) (a : Dword) : Bool :=
  a.toNat % 64 == 0 && decide (a.toNat < 2 ^ 56) && (match (s.translate (some g) slot a.toNat).2 with
    | .ok e => (s.core g).l1.any fun l => l.line == (e.pa + a.toNat % 4096) / 128
    | _ => false)
/-- PC_SAMPLE (R495). -/
def execPcSample (s : State) : Host.Outcome State Fault Refusal :=
  let g := s.arg.a
  let c := s.core g
  .next (if !c.sampling || s.cycle < c.trace.nextSample then s
    else
      let next := c.trace.nextSample + 64 * bits (wd c.trace.entry 1) 31 16
      let ws := (s.wavesOn g).filter fun w => w.isActive && c.traced (s.slotOf w)
      let order := (List.range 64).map fun k => (c.trace.samplePtr + 1 + k) % 64
      let s := s.modCore g fun (c : Core) => { c with trace := { c.trace with nextSample := next } }
      match order.findSome? fun k => ws.find? fun w => w.slot == k with
      | none => s
      | some w =>
        let q := s.sampleOf w
        let here := q.1 ≤ 3 || q.1 == 5 || (q.1 != 4 && s.present g (s.slotOf w) q.2)
        let scyc := if here then s.scycAt g (s.slotOf w) q.2.toNat else 0
        let s := s.modCore g fun (c : Core) => { c with trace := { c.trace with samplePtr := w.slot } }
        s.traceRec g (7 + 2 ^ 4 * g + 2 ^ 14 * w.slot + 2 ^ 20 * scyc + 2 ^ 34 * q.1 + (if here then 2 ^ 38 else 0))
          (q.2.toNat / 64 % 2 ^ 50))

/-! Recording and replay (R507 to R512). -/

/-- A write of REPLAY_CTL: the fields it keeps; leaving record mode writes the logs' counts. -/
def State.replayPut (s : State) (state : Nat) : State :=
  let s := if s.rep.state == 1 then s.flushRuns else s
  { s with rep := { s.rep with ctl := keepBits s.arg.x 13 0 ||| keepBits s.arg.x 63 32, state := state, full := false,
                               err := false, unit := 0, index := 0, logs := [] } }
/-- The context slot of a held launch: that of its region's root (R102, R107). -/
def State.heldSlot (s : State) (x : LrateWait) : Nat := ((s.effective x.rslot x.region).2.map fun e => e.slot).getD x.rslot
/-- A slot has no placed group and no held or accepted launch (R507). -/
def State.slotIdle (s : State) (slot : Nat) : Bool :=
  !s.grids.any (fun r => r.slot == slot) && !s.lrateQ.any fun x => s.heldSlot x == slot && s.stillWaits x.src
/-- REPLAY_OFF (R507). -/
def execReplayOff (s : State) : Host.Outcome State Fault Refusal := .next (s.replayPut 0)
/-- REPLAY_RECORD (R507, R509). -/
def execReplayRecord (s : State) : Host.Outcome State Fault Refusal :=
  .next (if s.slotIdle (bits s.arg.x 11 0) then s.replayPut 1 else s.replayIgnored)
/-- REPLAY_ENFORCE (R507, R510). -/
def execReplayEnforce (s : State) : Host.Outcome State Fault Refusal :=
  .next (if s.slotIdle (bits s.arg.x 11 0) then (s.replayPut 2).repEnd else s.replayIgnored)
/-- A unit has waited longer than TIMEOUT allows. -/
def State.repLate (s : State) (l : RLog) : Bool :=
  let t := bits s.rep.ctl 63 32
  s.rep.state == 2 && t != 0 && l.since.any fun x => decide (x + 40 * 1024 * t < s.now)
/-- REPLAY_TIMEOUT (R512): a unit's time has passed, or a core's RUN entry names a wave that has exited. -/
def execReplayTimeout (s : State) : Host.Outcome State Fault Refusal :=
  .next (match s.rep.logs.find? fun l => l.unit == s.arg.a with
    | none => s
    | some l => if s.repLate l || s.runGone l.unit then s.diverge l.unit else s)

end Sys2Proof.Machine
end

