-- ==== Sys2Proof/Machine/Shake.lean ====
section
/-! DEFINITION. SHAKE256, with a 64-byte output the digest that 22_device_lifecycle.md R522, R523 and R525 name: the sponge
of FIPS 202. The round constants and the rotations are computed from the rules of that standard, not listed. -/
namespace Sys2Proof.Machine
open Sys2Proof

/-- The sponge state: 25 words, the word of column x and row y at index x + 5y. -/
structure Sponge where
  words : Vector Dword 25
  deriving DecidableEq, Repr

def Sponge.zero : Sponge := { words := Vector.replicate 25 0 }
def Sponge.at (a : Sponge) (i : Nat) : Dword := a.words[i % 25]?.getD 0
/-- Neighbour k columns to the right, in the same row. -/
def colOff (i k : Nat) : Nat := i / 5 * 5 + (i + k - i / 5 * 5) % 5
/-- The five words of a column taken together. -/
def Sponge.parity (a : Sponge) (x : Nat) : Dword := (List.range 5).foldl (fun t y => t ^^^ a.at (x % 5 + 5 * y)) 0
/-- Each word takes the parity of the column on its left and, turned by one, of the column on its right. -/
def Sponge.diffuse (a : Sponge) : Sponge :=
  let turned := (List.range 5).map fun x => a.parity (x + 4) ^^^ (a.parity (x + 1)).rotateLeft 1
  { words := Vector.ofFn fun i => a.words.get i ^^^ turned.getD (i.val % 5) 0 }
/-- Where a word moves: from (x, y) to (y, 2x + 3y). -/
def movesTo (i : Nat) : Nat := i / 5 + 5 * ((2 * (i % 5) + 3 * (i / 5)) % 5)
/-- The 24 words off the corner form one cycle of `movesTo`; the k-th of them turns by the k-th triangular number. -/
def Sponge.spread (a : Sponge) : Nat → Nat → Nat → Vector Dword 25 → Vector Dword 25
  | 0, _, _, out => out
  | n + 1, pos, k, out =>
    a.spread n (movesTo pos) (k + 1) (out.setIfInBounds (movesTo pos) ((a.at pos).rotateLeft (k * (k + 1) / 2 % 64)))
/-- The one step that is not linear, along each row. -/
def Sponge.mixRows (a : Sponge) : Sponge :=
  { words := Vector.ofFn fun i => a.words.get i ^^^ (a.at (colOff i.val 2) &&& ~~~a.at (colOff i.val 1)) }
/-- A step of the generator of the round constants, over x^8 + x^6 + x^5 + x^4 + 1. -/
def constStep (v : Nat) : Nat := if 128 ≤ v then (2 * v) ^^^ 0x171 else 2 * v
/-- A round constant from the generator's state, and the state after it: bit 2^j - 1 is the j-th bit drawn. -/
def constOf (v : Nat) : Dword × Nat :=
  (List.range 7).foldl (fun (acc : Dword × Nat) j =>
    (if acc.2 % 2 == 1 then acc.1 ||| (1#64 <<< (2 ^ j - 1)) else acc.1, constStep acc.2)) (0, v)
/-- Rounds of the permutation. -/
def Sponge.rounds : Nat → Nat → Sponge → Sponge
  | 0, _, a => a
  | n + 1, v, a =>
    let c := constOf v
    let d := a.diffuse
    let m := Sponge.mixRows { words := d.spread 24 1 1 d.words }
    Sponge.rounds n c.2 { words := m.words.setIfInBounds 0 (m.at 0 ^^^ c.1) }
def Sponge.permute (a : Sponge) : Sponge := Sponge.rounds 24 1 a

/-- Bytes of a message enter 136 at a time; what is left at the end is closed by 0x1F and the top bit of byte 135. -/
def Sponge.feed : Nat → List Byte → Sponge → Sponge
  | 0, _, a => a
  | n + 1, m, a =>
    let last := m.length < 136
    let block := if last then natOfBytes m + 0x1F * 256 ^ m.length ^^^ 0x80 * 256 ^ 135 else natOfBytes (m.take 136)
    let b := Sponge.permute { words := Vector.ofFn fun i => a.words.get i ^^^ BitVec.ofNat 64 (block / 2 ^ (64 * i.val)) }
    if last then b else Sponge.feed n (m.drop 136) b
/-- The first n bytes that a message gives, n at most 136. -/
def shakeBytes (n : Nat) (m : List Byte) : List Byte :=
  let a := Sponge.feed (m.length / 136 + 1) m Sponge.zero
  ((List.range 17).flatMap fun i => bytesOfNat 8 (a.at i).toNat).take n
/-- The 64-byte digest of a message, byte 0 least significant. -/
def shake256 (m : List Byte) : BitVec 512 := BitVec.ofNat 512 (natOfBytes (shakeBytes 64 m))

end Sys2Proof.Machine
end

