-- ==== Sys2Proof/Machine/Sign.lean ====
section
/-! DEFINITION. The signatures of 22_device_lifecycle.md R522: Ed448ph with the context string and the purposes that the rule
gives. The curve, its encodings and the two procedures are those of RFC 8032, which the rule names and the spec does not
hold (PRESUMED, log entry 81); the keys are free. -/
namespace Sys2Proof.Machine
open Sys2Proof

/-! Arithmetic modulo a prime. -/

/-- b to the power e modulo m, for e below 2^n. -/
def powMod (m : Nat) : Nat → Nat → Nat → Nat
  | 0, _, _ => 1
  | n + 1, b, e =>
    let h := powMod m n (b * b % m) (e / 2)
    if e % 2 == 1 then h * b % m else h
/-- The field's prime, the curve's d, and the order of its base point. -/
def goldilocks : Nat := 2 ^ 448 - 2 ^ 224 - 1
def curveD : Nat := goldilocks - 39081
def curveOrder : Nat := 2 ^ 446 - 13818066809895115352007386748515426880336692474882178609894547503885
def fieldSub (a b : Nat) : Nat := (a + (goldilocks - b % goldilocks)) % goldilocks
def fieldInv (a : Nat) : Nat := powMod goldilocks 448 a (goldilocks - 2)

/-! Points, as (x/z, y/z). -/

structure CurvePoint where
  x : Nat
  y : Nat
  z : Nat
  deriving DecidableEq, Repr
def CurvePoint.neutral : CurvePoint := { x := 0, y := 1, z := 1 }
def CurvePoint.base : CurvePoint :=
  { x := 224580040295924300187604334099896036246789641632564134246125461686950415467406032909029192869357953282578032075146446173674602635247710
    y := 298819210078481492676017930443930673437544040154080242095928241372331506189835876003536878655418784733982303233503462500531545062832660
    z := 1 }
/-- The sum of two points, complete on this curve. -/
def CurvePoint.add (p q : CurvePoint) : CurvePoint :=
  let f (n : Nat) : Nat := n % goldilocks
  let zz := f (p.z * q.z)
  let sq := f (zz * zz)
  let xx := f (p.x * q.x)
  let yy := f (p.y * q.y)
  let e := f (f (curveD * xx) * yy)
  let lo := fieldSub sq e
  let hi := f (sq + e)
  let cross := fieldSub (f ((p.x + p.y) * (q.x + q.y))) (xx + yy)
  { x := f (f (zz * lo) * cross), y := f (f (zz * hi) * fieldSub yy xx), z := f (lo * hi) }
/-- A multiple of a point, by a factor below 2^n. -/
def CurvePoint.times (p : CurvePoint) : Nat → Nat → CurvePoint
  | 0, _ => .neutral
  | n + 1, k =>
    let h := (p.add p).times n (k / 2)
    if k % 2 == 1 then h.add p else h
/-- Two points are the same. -/
def CurvePoint.same (p q : CurvePoint) : Bool :=
  fieldSub (p.x * q.z) (q.x * p.z) == 0 && fieldSub (p.y * q.z) (q.y * p.z) == 0
/-- A point's 57 bytes: y, and the low bit of x on top. -/
def CurvePoint.bytes (p : CurvePoint) : List Byte :=
  let i := fieldInv p.z
  bytesOfNat 57 (p.y * i % goldilocks + 2 ^ 455 * (p.x * i % goldilocks % 2))
/-- The point of 57 bytes, none where they encode none. -/
def CurvePoint.ofBytes (b : List Byte) : Option CurvePoint :=
  let n := natOfBytes b
  let y := n % 2 ^ 455
  let sign := n / 2 ^ 455
  let m (a c : Nat) : Nat := a * c % goldilocks
  let u := fieldSub (y * y) 1
  let v := fieldSub (m curveD (m y y)) 1
  let u3v := m (m u (m u u)) v
  let x := m u3v (powMod goldilocks 448 (m u3v (m (m u u) (m v v))) ((goldilocks - 3) / 4))
  if goldilocks ≤ y || m v (m x x) != u || (x == 0 && sign == 1) then none
  else some { x := if x % 2 == sign then x else goldilocks - x, y, z := 1 }

/-! Signatures (R522). -/

/-- What a signature is made for. -/
inductive Purpose where
  | image | attestation | identity
  deriving DecidableEq, Repr
def Purpose.code : Purpose → Byte
  | .image => 1 | .attestation => 2 | .identity => 3
def asciiBytes (t : String) : List Byte := t.toList.map fun c => BitVec.ofNat 8 c.toNat
/-- The context string: "Xienith-X9" and the purpose. -/
def Purpose.context (p : Purpose) : List Byte := asciiBytes "Xienith-X9" ++ [p.code]
/-- What every hash of a signature begins with: the scheme with pre-hash, and the context. -/
def signDomain (ctx : List Byte) : List Byte := asciiBytes "SigEd448" ++ [1, BitVec.ofNat 8 ctx.length] ++ ctx
/-- A hash taken as a factor of the base point. -/
def hashFactor (ctx parts : List Byte) : Nat := natOfBytes (shakeBytes 114 (signDomain ctx ++ parts)) % curveOrder
/-- The secret factor of a 57-byte secret key, and the prefix of its nonces. -/
def secretFactor (secret : List Byte) : Nat × List Byte :=
  let h := shakeBytes 114 secret
  (natOfBytes (h.take 56) % 2 ^ 447 / 4 * 4 + 2 ^ 447, h.drop 57)
/-- The signature of a message under a secret key: 114 bytes. -/
def edSign (secret ctx msg : List Byte) : List Byte :=
  let k := secretFactor secret
  let ph := shakeBytes 64 msg
  let r := hashFactor ctx (k.2 ++ ph)
  let pr := (CurvePoint.base.times 448 r).bytes
  let c := hashFactor ctx (pr ++ (CurvePoint.base.times 448 k.1).bytes ++ ph)
  pr ++ bytesOfNat 57 ((r + c * k.1) % curveOrder)
/-- A signature of a message verifies under a public key. -/
def edVerify (key ctx msg sig : List Byte) : Bool :=
  let f := natOfBytes (sig.drop 57)
  sig.length == 114 && decide (f < curveOrder) &&
    (match CurvePoint.ofBytes key, CurvePoint.ofBytes (sig.take 57) with
      | some a, some r =>
        let c := hashFactor ctx (sig.take 57 ++ key ++ shakeBytes 64 msg)
        (CurvePoint.base.times 450 (4 * f)).same ((r.times 3 4).add (a.times 450 (4 * c)))
      | _, _ => false)

/-- The vendor's key accepts an image's signature (R522, R524). -/
def vendorSigned (msg sig : List Byte) : Bool := edVerify ((List.range 57).map Config.vendorKey) Purpose.image.context msg sig
/-- The identity key's signature of a report (R522, R525). -/
def attestSignature (msg : List Byte) : List Byte := edSign ((List.range 57).map Config.identityKey) Purpose.attestation.context msg

end Sys2Proof.Machine
end

