-- ==== Sys2Proof/Machine/SystemSteps.lean ====
section
/-! DEFINITION. Registers of the package that act when written: REGION_SYNC (04_waves_groups_and_regions.md R111),
BANK_ROLE, the frame partition, HEAD_RESERVE, FWIN_CTL, TRANS_INVAL (07_storage_and_translation.md R215, R216, R225, R226,
R229, R236), and soft errors (R230, 17_traps_faults_and_preemption.md R439, R440). -/
namespace Sys2Proof.Machine
open Sys2Proof

/-- REGION_SYNC (R111): the device's copies of a block go. -/
def execRegionSync (s : State) : Host.Outcome State Fault Refusal :=
  let a := keepBits s.arg.x 63 6
  .next { s with regions := s.regions.filter fun c => c.addr != a }

/-- A change of one bank's role: at once, or when its grant ends; 0b11 changes nothing (R215, R216). -/
def Core.setRole (c : Core) (used : List Nat) (k r : Nat) : Core :=
  let wait := c.roleWait.filter fun e => e.1 != k
  if r == 3 then c
  else if r == c.role k then { c with roleWait := wait }
  else if used.any fun u => u == k then { c with roleWait := wait ++ [(k, r)] }
  else { c with bankRole := withRole c.bankRole (k, r), roleWait := wait, l1 := if c.role k == 1 then [] else c.l1 }
/-- BANK_ROLE (R215, R216). A bank that leaves the extra-cache role takes the lines of L1 with it. -/
def execBankRole (s : State) : Host.Outcome State Fault Refusal :=
  let g := s.arg.a
  let used := (s.groups.filter fun x => x.core == g && !x.saved).flatMap fun x => x.sbanks ++ x.obanks
  let x := s.arg.x
  .next (s.modCore g fun c => (List.range 32).foldl (fun (c : Core) j => c.setRole used (j + 3) (bits x (2 * j + 1) (2 * j))) c)

/-! TRANS_INVAL (R236). -/

/-- Every core drops the translations that satisfy a test. -/
def State.dropTlb (s : State) (p : TlbEntry → Bool) : State :=
  { s with cores := s.cores.map fun (c : Core) => { c with tlb := c.tlb.filter fun e => !p e } }
/-- TRANS_INVAL_PAGE (R236): the page that holds VPAGE, of whatever size. -/
def execTransInvalPage (s : State) : Host.Outcome State Fault Refusal :=
  let slot := bits s.arg.x 11 0
  let v := bits s.arg.x 55 12
  .next (s.dropTlb fun e => e.slot == slot && e.vpage / e.pages == v / e.pages)
/-- TRANS_INVAL_SLOT (R236). -/
def execTransInvalSlot (s : State) : Host.Outcome State Fault Refusal :=
  let slot := bits s.arg.x 11 0
  .next (s.dropTlb fun e => e.slot == slot)
/-- TRANS_INVAL_ALL (R236). -/
def execTransInvalAll (s : State) : Host.Outcome State Fault Refusal := .next (s.dropTlb fun _ => true)

/-! The frame partition (R225) and display reservations (R226). -/

/-- The frame partition is enabled: its three values meet their limits (R225), and every M-die has the ways that it takes
(R224, R517). -/
def State.frameUp (s : State) : Bool :=
  let w := s.sys.frameWays.toNat
  let n := s.sys.frameSize.toNat
  let gone (m : Nat) : Nat := (s.life.retired.filter fun u => u.kind == .way && u.die == m).length
  !s.life.min && 1 ≤ w && w ≤ 8 && (List.range 8).all (fun m => decide (w + gone m ≤ 64)) && s.sys.frameBase.toNat % 196608 == 0 && n % 196608 == 0 && n ≤ w * 2 ^ 27
/-- FRAME_PARTITION_WRITE (R225): the partition's lines drop, decoded view lines among them, and are read again on
demand; monitors on them trigger (R262). -/
def execFramePartitionWrite (s : State) : Host.Outcome State Fault Refusal :=
  let x := s.arg.x
  let lo := s.sys.frameBase.toNat
  let n := s.sys.frameSize.toNat
  let inside (l : ViewLine) : Bool := s.frameUp && decide (lo ≤ 128 * l.line) && decide (128 * l.line < lo + n)
  let sys := match s.arg.a with
    | 0 => { s.sys with frameBase := keepBits x 51 0 }
    | 1 => { s.sys with frameSize := keepBits x 39 0 }
    | _ => { s.sys with frameWays := keepBits x 3 0 }
  .next (if sys == s.sys then s
    else
      let t : State := { s with sys := sys, views := s.views.filter fun l => !inside l }
      if s.frameUp then t.triggerRange lo n else t)
/-- HEAD_RESERVE (R226). -/
def execHeadReserve (s : State) : Host.Outcome State Fault Refusal :=
  let h := s.arg.a
  let x := keepBits s.arg.x 15 0
  let rest := natSum ((s.disp.heads.filter fun u => u.id != h).map fun u => u.reserve.toNat)
  .next (if 260 ≤ h || 36000 < rest + x.toNat then s else s.modHead h fun (u : HeadUnit) => { u with reserve := x })

/-- FWIN_CTL (R229): the LLC lines of the window's old and new views go, and monitors on them trigger (R262). -/
def execFwinCtl (s : State) : Host.Outcome State Fault Refusal :=
  let w := s.arg.a
  let x := keepBits s.arg.x 12 0 ||| keepBits s.arg.x 39 16
  let t : State := { s with sys := { s.sys with fwin := s.sys.fwin.setIfInBounds (4 * w + 3) x } }
  let lies (f : Option Fwin) (l : ViewLine) : Bool :=
    f.any fun f => decide (f.view ≤ 128 * l.line) && decide (128 * l.line < f.view + 4096 * f.pages)
  let drop (l : ViewLine) : Bool := lies (s.window w) l || lies (t.window w) l || (t.viewAt (128 * l.line)).isNone
  let hit (f : Option Fwin) (s : State) : State := match f with
    | some f => s.triggerRange f.view (4096 * f.pages)
    | none => s
  .next (hit (t.window w) (hit (s.window w) { t with views := t.views.filter fun l => !drop l }))

/-! Soft errors (R230, R439, R440). -/

/-- A counter that saturates at 2^32 − 1. -/
def satInc (x : Word) : Word := if x == 0xFFFFFFFF then x else x + 1
/-- A kind-4 record (R429, R440). -/
def State.softRecord (s : State) (addr : Nat) : State :=
  s.report { code := 0x08, kind := 4, slot := 0, sloti := none, detail := 0, region := 0, ctx := 0, pc := 0, next := 0,
             lanes := 0, addr := BitVec.ofNat 64 addr, info := 0, wave := none, nexts := [] }
/-- Bytes of memory become poisoned where they stand. -/
def State.poisonMem (s : State) (pa n : Nat) : State :=
  { s with memBad := (List.range n).foldl (fun (b : List Nat) i => putKeySet (pa + i) true b) s.memBad }
/-- Bytes of a bank become poisoned in what the group that holds it keeps there. -/
def Group.poisonBank (g : Group) (bank off n : Nat) : Group :=
  let at' (l : List Nat) : Option Nat := (l.zipIdx.find? fun e => e.1 == bank).map fun e => 131072 * e.2 + off
  match at' g.sbanks, at' g.obanks with
  | some a, _ =>
    { g with scratch := (List.range n).foldl (fun (st : Store) i => st.put (a + i) { st.get (a + i) with bad := true }) g.scratch }
  | none, some a =>
    { g with acc := (List.range n).foldl (fun (st : WordStore) i =>
        let k := (a + i) / 4
        st.put k (st.get k).1 true) g.acc }
  | none, none => g
/-- A register word becomes poisoned. -/
def Wave.poisonReg (w : Wave) (line lane : Nat) : Wave :=
  if line < 133 && lane < 32 then
    let x := w.lineWords line
    w.setLine line x.1 (x.2 ||| (1#32 <<< lane))
  else w
/-- A register-cache word becomes poisoned. -/
def Wave.poisonWord (w : Wave) (line lane : Nat) : Wave := if w.holds line then w.poisonReg line lane else w
/-- One of the bundles that a core holds becomes poisoned. -/
def poisonBundle (k : Nat) (l : List FBundle) : List FBundle :=
  l.zipIdx.map fun b => if b.2 == k then { b.1 with bad := true } else b.1
def poisonTarget (b k : Nat) (v : Vector PTEntry 8) : Vector PTEntry 8 :=
  let e := v.toList.getD b PTEntry.blank
  v.setIfInBounds b { e with got := poisonBundle k e.got }
def Wave.poisonBody (w : Wave) (e k : Nat) : Wave :=
  { w with r := { w.r with loops := w.r.loops.zipIdx.map fun (x : LoopEntry × Nat) =>
      if x.2 == e then { x.1 with body := poisonBundle k x.1.body } else x.1 } }
/-- Bytes off to off + n − 1 of a line, as a mask. -/
def byteMask (off n : Nat) : BitVec 128 := BitVec.ofNat 128 ((2 ^ n - 1) * 2 ^ off)
/-- Bytes that a cache, a buffer or the shelf holds become poisoned there (R230, R440); a place that holds nothing stays
as it is. -/
def State.poisonCopy (s : State) (e : SoftLoc) : State :=
  match e with
  | .l1 g line off n => s.modCore g fun (c : Core) =>
      { c with l1 := c.l1.map fun (l : L1Line) => if l.line == line then { l with bad := l.bad ||| byteMask off n } else l }
  | .wbuf g line off n => s.modCore g fun (c : Core) =>
      { c with wc := c.wc.map fun (l : WcLine) => if l.line == line then { l with bad := l.bad ||| (byteMask off n &&& l.mask) } else l }
  | .l2 die line off n =>
    { s with l2 := s.l2.map fun (l : L2Line) =>
        if l.die == die && l.line == line then { l with bad := l.bad ||| (byteMask off n &&& l.valid) } else l }
  | .llc line off n =>
    if (s.viewAt (128 * line)).isSome then
      { s with views := s.views.map fun (l : ViewLine) => if l.line == line then { l with bad := l.bad ||| byteMask off n } else l }
    else if s.inMem (128 * line) 128 then s.poisonMem (128 * line + off) (min n (128 - off)) else s
  | .shelf g off n => s.modCore g fun (c : Core) =>
      { c with shelf := (List.range n).foldl (fun (st : Store) i => st.put (off + i) { st.get (off + i) with bad := true }) c.shelf }
  | .lbuf k off n =>
    let l := s.line k
    s.setLine { l with buf := (List.range n).foldl (fun (st : Store) i => st.put (off + i) { st.get (off + i) with bad := true }) l.buf }
  | .window u q k lane => s.modWave u fun (w : Wave) =>
      { w with windows := w.windows.zipIdx.map fun x => if x.2 == q then
          x.1.zipIdx.map fun y => if y.2 == k then { y.1 with bad := y.1.bad ||| BitVec.ofNat 32 (2 ^ lane) } else y.1
        else x.1 }
  | .mapLine g vline off n => { s with tex := { s.tex with lines := s.tex.lines.map fun (l : MapLine) =>
      if l.core == g && l.vline == vline then { l with bad := l.bad ||| byteMask off n } else l } }
  | .weight k i => s.modLine k fun l => { l with dme := { l.dme with wbad := putKeySet i true l.dme.wbad } }
  | .lineAcc k i => s.modLine k fun l => { l with dme := { l.dme with accBad := putKeySet i true l.dme.accBad } }
  | .lineReg k n lane => s.modLine k fun l => { l with wave := l.wave.map fun w => w.poisonReg n lane }
  | .target u b k => s.modWave u fun (w : Wave) => { w with targets := poisonTarget b k w.targets }
  | .lineTarget n b k => s.modLine n fun l => { l with pt := poisonTarget b k l.pt }
  | .body u e k => s.modWave u fun w => w.poisonBody e k
  | .lineBody n e k => s.modLine n fun l => { l with wave := l.wave.map fun w => w.poisonBody e k }
  | .packet u off n => { s with fab := { s.fab with packets := s.fab.packets.map fun (p : Packet) =>
      if p.uid == u then { p with data := p.data.zipIdx.map fun b => { b.1 with bad := b.1.bad || (off ≤ b.2 && b.2 < off + n) } } else p } }
  | _ => s
/-- The physical address of an error in a cached copy of memory, zero for the other places (R429). -/
def softPa (e : SoftLoc) : Nat :=
  match e with
  | .mem pa _ => pa
  | .l1 _ line off _ | .wbuf _ line off _ | .l2 _ line off _ | .llc line off _ => 128 * line + off
  | _ => 0
/-- SOFT_ERROR (R230, R439, R440): a corrected error is counted only. -/
def execSoftError (e : SoftErr) (s : State) : Host.Outcome State Fault Refusal :=
  let sram := match e.loc with | .mem _ _ => false | _ => true
  let s := if !sram then s
    else if e.corrected then { s with sys := { s.sys with serrCorr := satInc s.sys.serrCorr } }
    else { s with sys := { s.sys with serrUncorr := satInc s.sys.serrUncorr } }
  .next (if e.corrected then s
    else match e.loc with
      | .mem pa n => if s.inMem pa n then (s.poisonMem pa n).softRecord pa else s
      | .sram g b off n =>
        let hit (x : Group) : Group := if x.core == g && !x.saved && off + n ≤ 131072 then x.poisonBank b off n else x
        ({ s with groups := s.groups.map hit }).softRecord 0
      | .reg u line lane => s.modWave u fun w => w.poisonWord line lane
      | l => (s.poisonCopy l).softRecord (softPa l))

end Sys2Proof.Machine
end

