-- ==== Sys2Proof/Machine/Lifecycle.lean ====
section
/-! DEFINITION. Start, repair, service, trust and power (22_device_lifecycle.md R513 to R527). -/
namespace Sys2Proof.Machine
open Sys2Proof

/-! Repair (R516 to R518). -/

def unitCode : UnitKind → Nat
  | .core => 1 | .slice => 2 | .way => 3 | .pin => 4
/-- Two units share their spares: the cores of a cluster, 16 slices, the ways of an M-die, the pins of a channel. -/
def sameSpares (a b : UnitFault) : Bool :=
  a.kind == b.kind && (match a.kind with
    | .core => a.die == b.die && a.unit == b.unit
    | .slice => a.die == b.die && a.unit / 16 == b.unit / 16
    | .way => a.die == b.die
    | .pin => a.unit == b.unit)
/-- Spares of a kind (R516). -/
def spareCount : UnitKind → Nat
  | .core => 1 | .slice => 1 | .way => 4 | .pin => 2
/-- An entry of the repair log (R518). -/
def Life.log (l : Life) (u : UnitFault) (ret : Bool) (ms : Nat) : Life :=
  let e := BitVec.ofNat 64 (unitCode u.kind + (if ret then 16 else 0) + 2 ^ 5 * (u.die % 8) + 2 ^ 8 * (u.unit % 4096) + 2 ^ 20 * ms)
  { l with repairHead := l.repairHead + 1, repairLog := l.repairLog.setIfInBounds (l.repairHead % 64) e }
/-- A failing unit: its spare takes over, or it is retired (R516, R517). A unit is a cluster, slice or way of its
die, or a channel of the package. -/
def Life.repair (l : Life) (ms : Nat) (u : UnitFault) : Life :=
  if l.retired.any fun v => v == u then l
  else if (l.spares.filter fun v => sameSpares u v).length < spareCount u.kind then
    { l with spares := l.spares ++ [u] }.log u false ms
  else
    let l := { l with retired := l.retired ++ [u] }.log u true ms
    match u.kind with
    | .core => { l with clusters := l.clusters &&& ~~~(1#96 <<< (12 * u.die + u.unit)) }
    | .pin => { l with channels := l.channels &&& ~~~(1#48 <<< u.unit) }
    | _ => l
/-- Milliseconds of the hub timebase. -/
def State.msNow (s : State) : Nat := s.now / 72000000

/-! Start (R513 to R515). -/

/-- Units of a kind that are not retired. -/
def Life.usable (l : Life) (k : UnitKind) (die n : Nat) : List Nat :=
  (List.range n).filter fun u => !l.retired.any fun v => v == { kind := k, die := die, unit := u }
/-- Channels of an M-die that are trained. -/
def Life.trainedOf (l : Life) (m : Nat) : List Nat := ((List.range 6).map fun k => 6 * m + k).filter fun c => l.channels.getLsbD c
/-- What a start keeps from before: the non-volatile storage, and the outside's offers. -/
def State.restart (s : State) (l : Life) : State :=
  { State.reset with freeCount := s.freeCount, agenda := s.agenda, life := l }
/-- A start ends in failure at a step. -/
def Life.failAt (l : Life) (code : Byte) (step : Nat) : Life :=
  { l with state := .failed, lastCode := code, lastStep := step }
/-- Step 3: the channels that train, and the pins that spares replace. -/
def Life.trainUp (l : Life) (rep : StartReport) : Life :=
  let dead := l.retired.foldl (fun (m : BitVec 48) u => if u.kind == .pin then m ||| (1#48 <<< u.unit) else m) 0
  let l := (rep.fails.filter fun u => u.kind == .pin).foldl (fun l u => l.repair 0 u) { l with channels := rep.trained &&& ~~~dead }
  if l.min then
    let cs := l.trainedOf 3
    { l with minChannels := cs, memTop := cs.length * 2 ^ 33 }
  else { l with minChannels := [], memTop := 0x6000000000 }
/-- Step 4: the units that the self-test leaves. -/
def Life.selfTest (l : Life) (rep : StartReport) : Life :=
  let clus := l.retired.foldl (fun (m : BitVec 96) u =>
    if u.kind == .core then m ||| (1#96 <<< (12 * u.die + u.unit)) else m) 0
  let l := (rep.fails.filter fun u => u.kind != .pin).foldl (fun l u => l.repair 0 u) { l with clusters := ~~~clus }
  if l.min then
    let c := ((List.range 12).find? fun k => l.clusters.getLsbD (36 + k)).map fun k => (1#96 <<< (36 + k))
    { l with clusters := c.getD 0 }
  else l
/-- An image held has a version below the minimum of its KIND (R524). -/
def Life.rolledBack (l : Life) : Bool :=
  l.images.any fun i => decide (i.version.toNat < (l.minVersion.toList.getD (i.kind - 1) 0).toNat)
/-- The first step that fails, with its code (R513). -/
def Life.failing (l : Life) (rep : StartReport) : Option (Byte × Nat) :=
  let dies := if l.min then [3] else List.range 8
  if !rep.ownImageOk then some (0x10, 1)
  else match rep.imageFail with
    | some k => some (if k == 1 then 0x11 else 0x10, 2)
    | none =>
      if l.rolledBack then some (0x11, 2)
      else if dies.any fun m => (l.trainedOf m).isEmpty then some (0x20, 3)
      else if dies.any fun d =>
          (l.usable .slice d 192).isEmpty || !(List.range 12).any fun k => l.clusters.getLsbD (12 * d + k) then some (0x21, 4)
      else if !rep.fabricOk then some (0x23, 5)
      else if !rep.portsOk then some (0x22, 6)
      else none
/-- What a start finds of the ones before it: a start that lost its power has failed too, at the step it had reached (R514,
R515; its CODE is that of a power fault, DESIGN CHOICE, log entry 128). -/
def Life.before (l : Life) : Life :=
  match l.state with
  | .starting h => { l with lastCode := 0x31, lastStep := h }
  | _ => l
/-- A start after a reset (R513, R514, R515). -/
def State.start (s : State) (cold : Bool) (rep : StartReport) : State :=
  let old := s.life.before
  let begun : Life :=
    { lifeReset with f := min 3 (old.f + 1), fails := old.f, min := old.f == 3, lastCode := old.lastCode, lastStep := old.lastStep,
                     stopCode := none, spares := old.spares, retired := old.retired, repairHead := old.repairHead,
                     repairLog := old.repairLog, images := old.images, pendingImages := old.pendingImages,
                     minVersion := old.minVersion }
  let trained := begun.trainUp rep
  let up := trained.selfTest rep
  let failed := up.failing rep
  let stuck := match rep.hang, failed with
    | some h, some e => if h ≤ e.2 then some h else none
    | some h, none => if 1 ≤ h && h ≤ 6 then some h else none
    | none, _ => none
  let reached (k : Nat) : Life := if k < 3 then begun else if k == 3 then trained else up
  match stuck, failed with
  | some h, _ => s.restart { reached h with state := .starting h }
  | none, some e => s.restart ((reached e.2).failAt e.1 e.2)
  | none, none =>
    let code : Byte := match old.stopCode with
      | some c => c
      | none => if old.lastCode != 0 then old.lastCode else if cold then 0 else 1
    let l : Life := { up with state := .ready, cause := code, step := old.lastStep }
    s.restart (if up.min then l else { l with f := 0, lastCode := 0, lastStep := 0 })
/-- RESET_COLD (R513, R514). -/
def execResetCold (rep : StartReport) (s : State) : Host.Outcome State Fault Refusal := .next (s.start true rep)
/-- BOOT_WARM_RESET (R515): the step that a write of BOOT_CTL causes carries c = 1. -/
def execBootWarmReset (rep : StartReport) (s : State) : Host.Outcome State Fault Refusal :=
  .next (if s.arg.c == 1 && s.life.state == .ready then s.start false rep else s)
/-- START_TIMEOUT (R513): 30 s after reset a start that hangs has failed. -/
def execStartTimeout (s : State) : Host.Outcome State Fault Refusal :=
  .next (match s.life.state with
    | .starting k =>
      if k == s.arg.a && 30 * 72000000000 ≤ s.now - s.life.resetAt then { s with life := s.life.failAt 0x02 k } else s
    | _ => s)
/-- BOOT_CLEAR_FAILS (R515). -/
def execBootClearFails (s : State) : Host.Outcome State Fault Refusal := .next { s with life := { s.life with f := 0 } }
/-- The device stops at once: nothing runs until the next reset (R515). -/
def State.trip (s : State) (code : Byte) : State :=
  if s.life.state == .ready then
    { s with life := { s.life with state := .tripped, stopCode := some code }, flight := none, posted := [] }
  else s
/-- THERMAL_TRIP (R515, R526). -/
def execThermalTrip (s : State) : Host.Outcome State Fault Refusal := .next (s.trip 0x30)
/-- POWER_FAULT (R515). -/
def execPowerFault (s : State) : Host.Outcome State Fault Refusal := .next (s.trip 0x31)

/-! Power (R526). -/

/-- The cap in watts. -/
def Life.cap (l : Life) : Nat := let n := bits l.pwrCap 15 0; if n == 0 then 3000 else max n 1200
/-- POWER_WINDOW (R526): the cycles withheld rise while the power is above the cap or a die at 100 degrees; how far
they move is open. -/
def execPowerWindow (p : PowerSample) (s : State) : Host.Outcome State Fault Refusal :=
  let k := s.free
  let r := Config.withhold k.1 % 1001
  let held := if s.life.cap < p.watts || 100 ≤ p.tmax then min 1000 (max r (s.life.held + 1)) else r
  let l : Life := { s.life with power := p.watts, tmax := p.tmax, coolin := p.coolin, flow := p.flow, held := held,
                                   heldFrom := s.cycle, heldSel := s.life.selectionsBefore s.cycle }
  let keep (c : Core) : Core := if s.cycle < c.free then { c with freeSel := l.selectionsBefore c.free } else c
  let t : State := { k.2 with life := l, cores := s.cores.map keep }
  .next (if 110 ≤ p.tmax then t.trip 0x30 else t)

/-! Service requests (R519). -/

/-- The request at the head of the queue: once it has started, as it was read then. -/
def State.svcHead (s : State) : Option (Nat × (Nat ⊕ List Dword)) :=
  (s.life.serviceQ.head?).map fun a => (a.toNat, s.life.running.elim (s.swRead a.toNat) .inr)
def svcOp (ws : List Dword) : Nat := bits (wd ws 0) 3 0
def svcUnit (ws : List Dword) : Nat := bits (wd ws 0) 15 4
/-- A request is legal. -/
def svcOk (ws : List Dword) : Bool :=
  let op := svcOp ws
  let n := if op == 1 then 96 else if op == 2 then 48 else if op == 4 then 16 else 4096
  1 ≤ op && op ≤ 4 && bits (wd ws 0) 63 16 == 0 && svcUnit ws < n
    && (if op == 3 then bits (wd ws 1) 5 0 == 0 else wd ws 1 == 0)
    && (op != 1 || bits (wd ws 2) 11 0 == 0) && bits (wd ws 4) 2 0 == 0 && (ws.drop 5).all fun w => w == 0
/-- The request ends: its status at DONE, and the next begins. -/
def State.svcEnd (s : State) (ws : List Dword) (st : Dword) : State :=
  let s := { s with life := { s.life with serviceQ := s.life.serviceQ.drop 1, inTest := none, running := none, retrain := none },
                    sw := if s.sw.service then { s.sw with phase := .idle, groups := [], words := [], bytes := 0, service := false }
                          else s.sw }
  let s := s.drainReqs
  let a := (wd ws 4).toNat
  if a % 8 == 0 && s.inMem a 8 then s.purgePutWord a st else s.frontFault 0 0 0x05 0 (wd ws 4)
/-- Carry out the head request when it is of an operation; one that is not legal ends with 0x86, one that cannot be
read leaves a record. -/
def State.svcStep (s : State) (op : Nat) (f : State → List Dword → State) : State :=
  match s.svcHead with
  | none => s
  | some (pa, .inl code) =>
    { s with life := { s.life with serviceQ := s.life.serviceQ.drop 1 } }.drainReqs.frontFault 0 0 (BitVec.ofNat 8 code) 0 (BitVec.ofNat 64 pa)
  | some (_, .inr ws) =>
    if !svcOk ws then s.svcEnd ws (statusBad 0x86 0 0) else if svcOp ws == op then f s ws else s
/-- Copies of a retired channel's lines go: its addresses read poisoned from everywhere (R517). -/
def State.dropDead (s : State) : State :=
  let alive (line : Nat) : Bool := !s.channelDead (128 * line)
  { s with
    l2 := s.l2.filter fun l => alive l.line,
    tex := { s.tex with lines := s.tex.lines.filter fun l => alive l.pline },
    cores := s.cores.map fun (c : Core) => { c with l1 := c.l1.filter (fun l => alive l.line), wc := c.wc.filter fun l => alive l.line } }
/-- Units that a step reports as failing are repaired; the units retired by it are counted. -/
def State.repairAll (s : State) (us : List UnitFault) : State × Nat :=
  let l := us.foldl (fun l u => l.repair s.msNow u) s.life
  let t : State := { s with life := l }
  (if l.channels == s.life.channels then t else t.dropDead, l.retired.length - s.life.retired.length)

/-! A cluster test (R520). -/

/-- The groups of a cluster leave for the pool: false when a writeback faults. -/
def State.leaveCluster (s : State) (gs : List Nat) : State × Bool :=
  let r := gs.foldl (fun (acc : State × Bool) g =>
    let s := acc.1
    let s := { s with waves := s.waves.map fun (w : Wave) => if w.group == g then { w with windows := [] } else w }
    let r := s.dormantGroup g
    match r.1.group? g with
    | none => (r.1, acc.2 && r.2)
    | some x =>
      if !r.2 then (r.1, false)
      else
        let off := r.1.sw.bytes
        let s := r.1.saveGroup x ((wd r.1.sw.words 1).toNat + off)
        let s := s.modCore x.core fun (c : Core) => { c with sections := c.sections.filter fun e => e.group != g }
        let s := s.modGroup g fun (y : Group) =>
          { y with saved := true, scratch := Store.empty, acc := { cells := [], bad := [] } }
        let e : SavedGroup := { group := g, slot := 4096, off, size := x.saveBytes }
        ({ s with sw := { s.sw with bytes := off + x.saveBytes, saved := s.sw.saved ++ [e] } }.applyRoles x.core, acc.2))
    (s, true)
  (r.1.reaccept 4096, r.2)
/-- Return the groups that left, on the first cores that take them. -/
def State.settleCluster (s : State) (n : Nat) : State := s.returnAll 4096 0 n
/-- Every group of the cluster finds room on the cores that remain. -/
def State.roomElsewhere (s : State) (gs : List Nat) : Bool :=
  let r := s.leaveCluster gs
  ((r.1.settleCluster gs.length).waitingIn 4096).isEmpty
/-- Test and repair of the emptied cluster. -/
def State.testCluster (s : State) (ws : List Dword) (fails : List UnitFault) : State :=
  let c := svcUnit ws
  let r := s.repairAll (fails.filter fun u => u.kind == .core && 12 * u.die + u.unit == c)
  r.1.svcEnd ws (statusOk 0 0 r.2)
/-- The request begins: the cluster takes no placement, its groups stop, their commands end. -/
def State.startTest (s : State) (ws : List Dword) (fails : List UnitFault) : State :=
  let c := svcUnit ws
  let gs := s.groups.filter fun g => !g.saved && clusterOf g.core == c
  let us := gs.map fun g => g.uid
  let total := natSum (gs.map fun g => g.saveBytes)
  let s := { s with life := { s.life with inTest := some c, running := some ws } }
  if us.isEmpty then s.testCluster ws fails
  else if (wd ws 3).toNat < total then s.svcEnd ws (statusBad 0x86 0 0)
  else if !s.inMem (wd ws 2).toNat total then s.svcEnd ws (statusBad 0x81 2 0)
  else if !s.roomElsewhere us then s.svcEnd ws (statusBad 0x91 0 0)
  else
    let req : List Dword := [0, wd ws 2, wd ws 3, wd ws 4, 0, 0, 0, 0]
    let s := { s with sw := { s.sw with phase := .a, words := req, groups := us, bytes := 0, error := none, service := true } }
    let mine (w : Wave) : Bool := us.any fun g => g == w.group
    let s := { s with waves := s.waves.map fun w => if mine w then w.addBookends else w }
    let s := if (s.section c).t0.isSome then (s.endSection c).restartSection c else s
    (s.leaveOpening us).cancelGroups us 1
/-- SERVICE_TEST_CLUSTER (R520): it begins when no switch runs, and goes on once the cluster's groups stand still. -/
def execServiceTestCluster (fails : List UnitFault) (s : State) : Host.Outcome State Fault Refusal :=
  .next (s.svcStep 1 fun s ws =>
    if s.sw.service then
      if s.sw.phase == .a then
        (if s.bookOpen then s
        else
          let s := s.cancelGroups s.sw.groups 1
          if s.cmdsOpen then s
          else
            let r := s.leaveCluster s.sw.groups
            let n := s.sw.groups.length
            let t := r.1.settleCluster n
            let t := { t with sw := { t.sw with phase := .b, error := if r.2 then none else some (statusBad 0x80 4 0) } }
            if !(t.waitingIn 4096).isEmpty then t
            else match t.sw.error with
              | some e => t.svcEnd ws e
              | none => t.testCluster ws fails)
      else
        let t := s.settleCluster s.sw.saved.length
        if !(t.waitingIn 4096).isEmpty then t
        else match t.sw.error with
          | some e => t.svcEnd ws e
          | none => t.testCluster ws fails
    else if s.sw.phase != .idle then s
    else s.startTest ws fails)

/-! Channels, ports (R521). -/

/-- SERVICE_RETRAIN_CHANNEL (R517, R521). -/
def execServiceRetrainChannel (fails : List UnitFault) (s : State) : Host.Outcome State Fault Refusal :=
  .next (s.svcStep 2 fun s ws =>
    let r := s.repairAll (fails.filter fun u => u.kind == .pin && u.unit == svcUnit ws)
    r.1.svcEnd ws (statusOk 0 0 r.2))
/-- SERVICE_RETRAIN_PEER (R521): the port's link is down while it trains, so that aperture accesses complete 0x8E; how
long that takes the spec leaves open. -/
def execServiceRetrainPeer (s : State) : Host.Outcome State Fault Refusal :=
  .next (s.svcStep 4 fun s ws =>
    let p := s.peer (svcUnit ws)
    match s.life.retrain with
    | none =>
      let k := s.free
      let life := { s.life with running := some ws, retrain := some (p.link, s.now + Config.retrainTicks k.1) }
      { k.2 with life := life }.setPeer { p with link := false }
    | some (link, due) => if s.now < due then s else (s.setPeer { p with link := p.link || link }).svcEnd ws (statusOk 0 0 0))

/-! Images (R522 to R524). -/

/-- Plain bytes of memory. -/
def State.plain (s : State) (pa n : Nat) : List Byte := (s.llcBytes pa n).map fun b => b.v
/-- Why an image at an address is refused: code and detail; else the image. -/
def State.checkImage (s : State) (pa : Nat) : Dword ⊕ Image :=
  if !s.inMem pa 256 then .inl (statusBad 0x81 1 pa)
  else if anyBad (s.llcBytes pa 256) then .inl (statusBad 0x82 1 pa)
  else
    let h := s.plain pa 256
    let num (off n : Nat) : Nat := numAt (h.map clean) off n
    let len := num 0x10 8
    let kind := num 4 4
    let version := BitVec.ofNat 64 (num 8 8)
    let digest := BitVec.ofNat 512 (num 0x18 64)
    if !s.inMem (pa + 256) len then .inl (statusBad 0x81 1 pa)
    else if anyBad (s.llcBytes (pa + 256) len) then .inl (statusBad 0x82 1 pa)
    else if num 0 4 != 0x58495839 || (h.drop 0xCA).any (fun b => b != 0)
        || !vendorSigned (h.take 0x58) ((h.drop 0x58).take 114) || shake256 (s.plain (pa + 256) len) != digest then
      .inl (statusBad 0x90 1 0)
    else if kind < 1 || 4 < kind then .inl (statusBad 0x90 3 0)
    else if version.toNat < (s.life.minVersion.toList.getD (kind - 1) 0).toNat then .inl (statusBad 0x90 2 0)
    else .inr { kind, version, digest }
/-- SERVICE_INSTALL_IMAGE (R524). -/
def execServiceInstallImage (s : State) : Host.Outcome State Fault Refusal :=
  .next (s.svcStep 3 fun s ws =>
    match s.checkImage (wd ws 1).toNat with
    | .inl st => s.svcEnd ws st
    | .inr i =>
      let others := s.life.pendingImages.filter fun k => k.kind != i.kind
      ({ s with life := { s.life with pendingImages := others ++ [i] } }).svcEnd ws (statusOk 0 0 0))
/-- IMAGE_ACTIVE (R524). -/
def execImageActive (s : State) : Host.Outcome State Fault Refusal :=
  .next (match s.life.pendingImages.find? fun k => k.kind == s.arg.a with
    | none => s
    | some i =>
      let old := (s.life.minVersion.toList.getD (i.kind - 1) 0)
      let up := if old.toNat < i.version.toNat then i.version else old
      { s with life := { s.life with
          images := s.life.images.filter (fun k => k.kind != i.kind) ++ [i],
          pendingImages := s.life.pendingImages.filter fun k => k.kind != i.kind,
          minVersion := s.life.minVersion.setIfInBounds (i.kind - 1) up } })

/-! Attestation (R522, R525). -/

/-- The report over a nonce. -/
def State.report256 (s : State) (nonce : List Byte) : List Byte :=
  let imgs := ((List.range 4).filterMap fun k => s.life.images.find? fun i => i.kind == k + 1)
  let dig := shake256 (imgs.flatMap fun i => bytesOfNat 64 i.digest.toNat)
  let body := nonce ++ bytesOfNat 16 Config.serial.toNat ++ bytesOfNat 8 s.life.cause64.toNat ++ bytesOfNat 8 s.life.repairHead
    ++ bytesOfNat 64 dig.toNat ++ s.life.minVersion.toList.flatMap fun (v : Dword) => bytesOfNat 2 (v.toNat % 65536)
  body ++ attestSignature body ++ List.replicate 6 0
/-- The address of an attestation request. -/
def attestAt (x : Dword) : Nat := (keepBits x 51 8).toNat
/-- ATTEST_REPORT (R525). -/
def execAttestReport (s : State) : Host.Outcome State Fault Refusal :=
  let a := attestAt s.arg.x
  .next (if s.inMem a 256 then s.llcWrite none a ((s.report256 (s.plain a 32)).map clean) else s)
/-- ATTEST_CERT_CHAIN (R525). -/
def execAttestCertChain (s : State) : Host.Outcome State Fault Refusal :=
  let a := attestAt s.arg.x
  let bs := Config.certChain.take 4096
  .next (if s.inMem a bs.length then s.llcWrite none a (bs.map clean) else s)

end Sys2Proof.Machine
end

