-- ==== Sys2Proof/Machine/Dispatch.lean ====
section
/-! DEFINITION. One arm for each instruction and step, each a direct call of its meaning. -/
namespace Sys2Proof.Machine
open Sys2Proof

/-- The meaning of an instruction or step on a state. -/
def exec (i : Instr) (s : State) : Host.Outcome State Fault Refusal :=
  match i with
  | .issueGroup u => Sys2Proof.Machine.execIssueGroup u s
  | .br t => Sys2Proof.Machine.execBr t s
  | .nop h => Sys2Proof.Machine.execNop h s
  | .hint h opc x => Sys2Proof.Machine.execHint h opc x s
  | .add h o => Sys2Proof.Machine.execAdd h o s
  | .sub h o => Sys2Proof.Machine.execSub h o s
  | .mul h o => Sys2Proof.Machine.execMul h o s
  | .mulh h o => Sys2Proof.Machine.execMulh h o s
  | .div h o => Sys2Proof.Machine.execDiv h o s
  | .mod h o => Sys2Proof.Machine.execMod h o s
  | .min h o => Sys2Proof.Machine.execMin h o s
  | .max h o => Sys2Proof.Machine.execMax h o s
  | .and h o => Sys2Proof.Machine.execAnd h o s
  | .or h o => Sys2Proof.Machine.execOr h o s
  | .xor h o => Sys2Proof.Machine.execXor h o s
  | .andn h o => Sys2Proof.Machine.execAndn h o s
  | .shl h o => Sys2Proof.Machine.execShl h o s
  | .shr h o => Sys2Proof.Machine.execShr h o s
  | .sar h o => Sys2Proof.Machine.execSar h o s
  | .rol h o => Sys2Proof.Machine.execRol h o s
  | .bfx h o => Sys2Proof.Machine.execBfx h o s
  | .bfi h o => Sys2Proof.Machine.execBfi h o s
  | .popc h o => Sys2Proof.Machine.execPopc h o s
  | .clz h o => Sys2Proof.Machine.execClz h o s
  | .ctz h o => Sys2Proof.Machine.execCtz h o s
  | .brev h o => Sys2Proof.Machine.execBrev h o s
  | .cmp h o => Sys2Proof.Machine.execCmp h o s
  | .test h o => Sys2Proof.Machine.execTest h o s
  | .sel h o => Sys2Proof.Machine.execSel h o s
  | .mov h o => Sys2Proof.Machine.execMov h o s
  | .movw h o => Sys2Proof.Machine.execMovw h o s
  | .movwHi h o => Sys2Proof.Machine.execMovwHi h o s
  | .getid h o => Sys2Proof.Machine.execGetid h o s
  | .setmode h o => Sys2Proof.Machine.execSetmode h o s
  | .rdfl h o => Sys2Proof.Machine.execRdfl h o s
  | .pbr h o => Sys2Proof.Machine.execPbr h o s
  | .pbrx h o => Sys2Proof.Machine.execPbrx h o s
  | .mfb h o => Sys2Proof.Machine.execMfb h o s
  | .loop h o => Sys2Proof.Machine.execLoop h o s
  | .call h o => Sys2Proof.Machine.execCall h o s
  | .ret h o => Sys2Proof.Machine.execRet h o s
  | .exit h => Sys2Proof.Machine.execExit h s
  | .vadd h o => Sys2Proof.Machine.execVadd h o s
  | .vsub h o => Sys2Proof.Machine.execVsub h o s
  | .vmul h o => Sys2Proof.Machine.execVmul h o s
  | .vmulh h o => Sys2Proof.Machine.execVmulh h o s
  | .vfma h o => Sys2Proof.Machine.execVfma h o s
  | .vmin h o => Sys2Proof.Machine.execVmin h o s
  | .vmax h o => Sys2Proof.Machine.execVmax h o s
  | .vabs h o => Sys2Proof.Machine.execVabs h o s
  | .vneg h o => Sys2Proof.Machine.execVneg h o s
  | .vadds h o => Sys2Proof.Machine.execVadds h o s
  | .vsubs h o => Sys2Proof.Machine.execVsubs h o s
  | .vdiv h o => Sys2Proof.Machine.execVdiv h o s
  | .vrint h o => Sys2Proof.Machine.execVrint h o s
  | .vfract h o => Sys2Proof.Machine.execVfract h o s
  | .vldexp h o => Sys2Proof.Machine.execVldexp h o s
  | .vand h o => Sys2Proof.Machine.execVand h o s
  | .vor h o => Sys2Proof.Machine.execVor h o s
  | .vxor h o => Sys2Proof.Machine.execVxor h o s
  | .vandn h o => Sys2Proof.Machine.execVandn h o s
  | .vnot h o => Sys2Proof.Machine.execVnot h o s
  | .vshl h o => Sys2Proof.Machine.execVshl h o s
  | .vshr h o => Sys2Proof.Machine.execVshr h o s
  | .vsar h o => Sys2Proof.Machine.execVsar h o s
  | .vrol h o => Sys2Proof.Machine.execVrol h o s
  | .vbfx h o => Sys2Proof.Machine.execVbfx h o s
  | .vbfi h o => Sys2Proof.Machine.execVbfi h o s
  | .vpopc h o => Sys2Proof.Machine.execVpopc h o s
  | .vclz h o => Sys2Proof.Machine.execVclz h o s
  | .vbrev h o => Sys2Proof.Machine.execVbrev h o s
  | .vsel h o => Sys2Proof.Machine.execVsel h o s
  | .vmov h o => Sys2Proof.Machine.execVmov h o s
  | .vcmp h o => Sys2Proof.Machine.execVcmp h o s
  | .vclass h o => Sys2Proof.Machine.execVclass h o s
  | .vtest h o => Sys2Proof.Machine.execVtest h o s
  | .vsad h o => Sys2Proof.Machine.execVsad h o s
  | .vmulw h o => Sys2Proof.Machine.execVmulw h o s
  | .vmadw h o => Sys2Proof.Machine.execVmadw h o s
  | .vcvt h o => Sys2Proof.Machine.execVcvt h o s
  | .vpack h o => Sys2Proof.Machine.execVpack h o s
  | .vunpk h o => Sys2Proof.Machine.execVunpk h o s
  | .vbyte h o => Sys2Proof.Machine.execVbyte h o s
  | .vrcp h o => Sys2Proof.Machine.execVrcp h o s
  | .vrsq h o => Sys2Proof.Machine.execVrsq h o s
  | .vsqrt h o => Sys2Proof.Machine.execVsqrt h o s
  | .vexp2 h o => Sys2Proof.Machine.execVexp2 h o s
  | .vlog2 h o => Sys2Proof.Machine.execVlog2 h o s
  | .vsin h o => Sys2Proof.Machine.execVsin h o s
  | .vcos h o => Sys2Proof.Machine.execVcos h o s
  | .vtanh h o => Sys2Proof.Machine.execVtanh h o s
  | .vclmul h o => Sys2Proof.Machine.execVclmul h o s
  | .vclmulh h o => Sys2Proof.Machine.execVclmulh h o s
  | .vrbox h o => Sys2Proof.Machine.execVrbox h o s
  | .vrtri h o => Sys2Proof.Machine.execVrtri h o s
  | .vdp4 h o => Sys2Proof.Machine.execVdp4 h o s
  | .vdp2 h o => Sys2Proof.Machine.execVdp2 h o s
  | .pand h o => Sys2Proof.Machine.execPand h o s
  | .por h o => Sys2Proof.Machine.execPor h o s
  | .pxor h o => Sys2Proof.Machine.execPxor h o s
  | .pandn h o => Sys2Proof.Machine.execPandn h o s
  | .pnot h o => Sys2Proof.Machine.execPnot h o s
  | .pmov h o => Sys2Proof.Machine.execPmov h o s
  | .pset h o => Sys2Proof.Machine.execPset h o s
  | .vperm h o => Sys2Proof.Machine.execVperm h o s
  | .vrot h o => Sys2Proof.Machine.execVrot h o s
  | .vshuf h o => Sys2Proof.Machine.execVshuf h o s
  | .vbcast h o => Sys2Proof.Machine.execVbcast h o s
  | .vmatch h o => Sys2Proof.Machine.execVmatch h o s
  | .vballot h o => Sys2Proof.Machine.execVballot h o s
  | .vscan h o => Sys2Proof.Machine.execVscan h o s
  | .vred h o => Sys2Proof.Machine.execVred h o s
  | .vlane h o => Sys2Proof.Machine.execVlane h o s
  | .vfirst h o => Sys2Proof.Machine.execVfirst h o s
  | .vcompact h o => Sys2Proof.Machine.execVcompact h o s
  | .mamax h o => Sys2Proof.Machine.execMamax h o s
  | .mcvt h o => Sys2Proof.Machine.execMcvt h o s
  | .meet h o => Sys2Proof.Machine.execMeet h o s
  | .meetSave h o => Sys2Proof.Machine.execMeetSave h o s
  | .meetRest h o => Sys2Proof.Machine.execMeetRest h o s
  | .meetClr h o => Sys2Proof.Machine.execMeetClr h o s
  | .yield h o => Sys2Proof.Machine.execYield h o s
  | .bar h o => Sys2Proof.Machine.execBar h o s
  | .vote h o => Sys2Proof.Machine.execVote h o s
  | .sleep h o => Sys2Proof.Machine.execSleep h o s
  | .rdclk h o => Sys2Proof.Machine.execRdclk h o s
  | .ld h o => Sys2Proof.Machine.execLd h o s
  | .ldu h o => Sys2Proof.Machine.execLdu h o s
  | .lds h o => Sys2Proof.Machine.execLds h o s
  | .ldp h o => Sys2Proof.Machine.execLdp h o s
  | .ldMark h o => Sys2Proof.Machine.execLdMark h o s
  | .atom h o => Sys2Proof.Machine.execAtom h o s
  | .satom h o => Sys2Proof.Machine.execSatom h o s
  | .st h o => Sys2Proof.Machine.execSt h o s
  | .stu h o => Sys2Proof.Machine.execStu h o s
  | .sts h o => Sys2Proof.Machine.execSts h o s
  | .red h o => Sys2Proof.Machine.execRed h o s
  | .sred h o => Sys2Proof.Machine.execSred h o s
  | .cst4 h o => Sys2Proof.Machine.execCst4 h o s
  | .fence h o => Sys2Proof.Machine.execFence h o s
  | .mon h o => Sys2Proof.Machine.execMon h o s
  | .wait h o => Sys2Proof.Machine.execWait h o s
  | .qpop h o => Sys2Proof.Machine.execQpop h o s
  | .qpush h o => Sys2Proof.Machine.execQpush h o s
  | .tex h o => Sys2Proof.Machine.execTex h o s
  | .tld h o => Sys2Proof.Machine.execTld h o s
  | .vatom h o => Sys2Proof.Machine.execVatom h o s
  | .copy h o => Sys2Proof.Machine.execCopy h o s
  | .gather h o => Sys2Proof.Machine.execGather h o s
  | .scatter h o => Sys2Proof.Machine.execScatter h o s
  | .pref h o => Sys2Proof.Machine.execPref h o s
  | .fill h o => Sys2Proof.Machine.execFill h o s
  | .cflush h o => Sys2Proof.Machine.execCflush h o s
  | .cinv h o => Sys2Proof.Machine.execCinv h o s
  | .tokenComplete e => Sys2Proof.Machine.execTokenComplete e s
  | .dlaunch h o => Sys2Proof.Machine.execDlaunch h o s
  | .launchAccept src => Sys2Proof.Machine.execLaunchAccept src s
  | .fork h o => Sys2Proof.Machine.execFork h o s
  | .join h o => Sys2Proof.Machine.execJoin h o s
  | .enq h o => Sys2Proof.Machine.execEnq h o s
  | .mcfg h o => Sys2Proof.Machine.execMcfg h o s
  | .mcfgQ h o => Sys2Proof.Machine.execMcfgQ h o s
  | .mshelf h o => Sys2Proof.Machine.execMshelf h o s
  | .mloop h o => Sys2Proof.Machine.execMloop h o s
  | .mstep h o => Sys2Proof.Machine.execMstep h o s
  | .mzero h o => Sys2Proof.Machine.execMzero h o s
  | .mrot h o => Sys2Proof.Machine.execMrot h o s
  | .mdrain h o => Sys2Proof.Machine.execMdrain h o s
  | .mscale h o => Sys2Proof.Machine.execMscale h o s
  | .mhistClear h o => Sys2Proof.Machine.execMhistClear h o s
  | .mhistRead h o => Sys2Proof.Machine.execMhistRead h o s
  | .mhistPush h o => Sys2Proof.Machine.execMhistPush h o s
  | .mget h o => Sys2Proof.Machine.execMget h o s
  | .mput h o => Sys2Proof.Machine.execMput h o s
  | .emit h o => Sys2Proof.Machine.execEmit h o s
  | .emitRetest h o => Sys2Proof.Machine.execEmitRetest h o s
  | .emitClose h o => Sys2Proof.Machine.execEmitClose h o s
  | .mapsync h o => Sys2Proof.Machine.execMapsync h o s
  | .present h o => Sys2Proof.Machine.execPresent h o s
  | .trap h o => Sys2Proof.Machine.execTrap h o s
  | .sysc h o => Sys2Proof.Machine.execSysc h o s
  | .bkpt h o => Sys2Proof.Machine.execBkpt h o s
  | .rdsr h o => Sys2Proof.Machine.execRdsr h o s
  | .wrsr h o => Sys2Proof.Machine.execWrsr h o s
  | .softError e => Sys2Proof.Machine.execSoftError e s
  | .mailboxWrite addr data => Sys2Proof.Machine.execMailboxWrite addr data s
  | .vqrot h o => Sys2Proof.Machine.execVqrot h o s
  | .vproj h o => Sys2Proof.Machine.execVproj h o s
  | .vwarp h o => Sys2Proof.Machine.execVwarp h o s
  | .vextr h o => Sys2Proof.Machine.execVextr h o s
  | .vblend h o => Sys2Proof.Machine.execVblend h o s
  | .vdisoc h o => Sys2Proof.Machine.execVdisoc h o s
  | .vpxpk h o => Sys2Proof.Machine.execVpxpk h o s
  | .vpxup h o => Sys2Proof.Machine.execVpxup h o s
  | .xcfg h o => Sys2Proof.Machine.execXcfg h o s
  | .xwld h o => Sys2Proof.Machine.execXwld h o s
  | .xmma h o => Sys2Proof.Machine.execXmma h o s
  | .xact h o => Sys2Proof.Machine.execXact h o s
  | .xdrain h o => Sys2Proof.Machine.execXdrain h o s
  | .xzero h o => Sys2Proof.Machine.execXzero h o s
  | .ffet h o => Sys2Proof.Machine.execFfet h o s
  | .ffetd h o => Sys2Proof.Machine.execFfetd h o s
  | .ffetm h o => Sys2Proof.Machine.execFfetm h o s
  | .fnear h o => Sys2Proof.Machine.execFnear h o s
  | .hemit h o => Sys2Proof.Machine.execHemit h o s
  | .hfill h o => Sys2Proof.Machine.execHfill h o s
  | .pget h o => Sys2Proof.Machine.execPget h o s
  | .dqpop h o => Sys2Proof.Machine.execDqpop h o s
  | .dqdone h o => Sys2Proof.Machine.execDqdone h o s
  | .atlset h o => Sys2Proof.Machine.execAtlset h o s
  | .lbar h o => Sys2Proof.Machine.execLbar h o s
  | .lwait h o => Sys2Proof.Machine.execLwait h o s
  | .rdbeam h o => Sys2Proof.Machine.execRdbeam h o s
  | .send h o => Sys2Proof.Machine.execSend h o s
  | .recv h o => Sys2Proof.Machine.execRecv h o s
  | .barc h o => Sys2Proof.Machine.execBarc h o s
  | .barcClose h o => Sys2Proof.Machine.execBarcClose h o s
  | .xmit h o => Sys2Proof.Machine.execXmit h o s
  | .isel h o => Sys2Proof.Machine.execIsel h o s
  | .coll h o => Sys2Proof.Machine.execColl h o s
  | .peerAccess port a => Sys2Proof.Machine.execPeerAccess port a s
  | .resetCold rep => Sys2Proof.Machine.execResetCold rep s
  | .bootWarmReset rep => Sys2Proof.Machine.execBootWarmReset rep s
  | .powerWindow p => Sys2Proof.Machine.execPowerWindow p s
  | .serviceTestCluster fails => Sys2Proof.Machine.execServiceTestCluster fails s
  | .serviceRetrainChannel fails => Sys2Proof.Machine.execServiceRetrainChannel fails s
  | .preparedTargetFill => Sys2Proof.Machine.execPreparedTargetFill s
  | .doneDecrement => Sys2Proof.Machine.execDoneDecrement s
  | .sleepExpire => Sys2Proof.Machine.execSleepExpire s
  | .writeCombineFlush => Sys2Proof.Machine.execWriteCombineFlush s
  | .monitorTrigger => Sys2Proof.Machine.execMonitorTrigger s
  | .waitLimitExpire => Sys2Proof.Machine.execWaitLimitExpire s
  | .mapCacheExpire => Sys2Proof.Machine.execMapCacheExpire s
  | .lrateWindow => Sys2Proof.Machine.execLrateWindow s
  | .groupPlace => Sys2Proof.Machine.execGroupPlace s
  | .waveActivate => Sys2Proof.Machine.execWaveActivate s
  | .waveDeactivate => Sys2Proof.Machine.execWaveDeactivate s
  | .victimAgeExpire => Sys2Proof.Machine.execVictimAgeExpire s
  | .registerFill => Sys2Proof.Machine.execRegisterFill s
  | .continuationPop => Sys2Proof.Machine.execContinuationPop s
  | .drawerRecordPlace => Sys2Proof.Machine.execDrawerRecordPlace s
  | .drawerTimeout => Sys2Proof.Machine.execDrawerTimeout s
  | .meshletCull => Sys2Proof.Machine.execMeshletCull s
  | .tileResolve => Sys2Proof.Machine.execTileResolve s
  | .tileFinal => Sys2Proof.Machine.execTileFinal s
  | .watchdogTrap => Sys2Proof.Machine.execWatchdogTrap s
  | .faultResume => Sys2Proof.Machine.execFaultResume s
  | .faultReplay => Sys2Proof.Machine.execFaultReplay s
  | .faultKillWave => Sys2Proof.Machine.execFaultKillWave s
  | .faultKillGroup => Sys2Proof.Machine.execFaultKillGroup s
  | .faultKillGrid => Sys2Proof.Machine.execFaultKillGrid s
  | .faultKillContext => Sys2Proof.Machine.execFaultKillContext s
  | .faultVacate => Sys2Proof.Machine.execFaultVacate s
  | .faultHeadWrite => Sys2Proof.Machine.execFaultHeadWrite s
  | .faultTimeout => Sys2Proof.Machine.execFaultTimeout s
  | .switchOut => Sys2Proof.Machine.execSwitchOut s
  | .switchPhaseB => Sys2Proof.Machine.execSwitchPhaseB s
  | .switchPhaseC => Sys2Proof.Machine.execSwitchPhaseC s
  | .switchIn => Sys2Proof.Machine.execSwitchIn s
  | .regionSync => Sys2Proof.Machine.execRegionSync s
  | .bankRole => Sys2Proof.Machine.execBankRole s
  | .transInvalPage => Sys2Proof.Machine.execTransInvalPage s
  | .transInvalSlot => Sys2Proof.Machine.execTransInvalSlot s
  | .transInvalAll => Sys2Proof.Machine.execTransInvalAll s
  | .framePartitionWrite => Sys2Proof.Machine.execFramePartitionWrite s
  | .headReserve => Sys2Proof.Machine.execHeadReserve s
  | .fwinCtl => Sys2Proof.Machine.execFwinCtl s
  | .headEnable => Sys2Proof.Machine.execHeadEnable s
  | .headReread => Sys2Proof.Machine.execHeadReread s
  | .headDisable => Sys2Proof.Machine.execHeadDisable s
  | .framePromote => Sys2Proof.Machine.execFramePromote s
  | .runStart => Sys2Proof.Machine.execRunStart s
  | .bandClose => Sys2Proof.Machine.execBandClose s
  | .poseLatch => Sys2Proof.Machine.execPoseLatch s
  | .lineDeadline => Sys2Proof.Machine.execLineDeadline s
  | .lineScanOut => Sys2Proof.Machine.execLineScanOut s
  | .lineCoreWaitEnd => Sys2Proof.Machine.execLineCoreWaitEnd s
  | .dmeCommandExecute => Sys2Proof.Machine.execDmeCommandExecute s
  | .packetHop => Sys2Proof.Machine.execPacketHop s
  | .packetArrive => Sys2Proof.Machine.execPacketArrive s
  | .sectionOpen => Sys2Proof.Machine.execSectionOpen s
  | .sectionClose => Sys2Proof.Machine.execSectionClose s
  | .collInstanceComplete => Sys2Proof.Machine.execCollInstanceComplete s
  | .cqCtl => Sys2Proof.Machine.execCqCtl s
  | .kick => Sys2Proof.Machine.execKick s
  | .kickTimerExpire => Sys2Proof.Machine.execKickTimerExpire s
  | .cqNop => Sys2Proof.Machine.execCqNop s
  | .cqLaunch => Sys2Proof.Machine.execCqLaunch s
  | .cqSignal => Sys2Proof.Machine.execCqSignal s
  | .cqWait => Sys2Proof.Machine.execCqWait s
  | .cqSwitch => Sys2Proof.Machine.execCqSwitch s
  | .cqInvalid => Sys2Proof.Machine.execCqInvalid s
  | .dbgTable => Sys2Proof.Machine.execDbgTable s
  | .dbgSync => Sys2Proof.Machine.execDbgSync s
  | .dbgHalt => Sys2Proof.Machine.execDbgHalt s
  | .dbgResume => Sys2Proof.Machine.execDbgResume s
  | .dbgStep => Sys2Proof.Machine.execDbgStep s
  | .dbgDeactivate => Sys2Proof.Machine.execDbgDeactivate s
  | .dbgProfileDump => Sys2Proof.Machine.execDbgProfileDump s
  | .dbgProfileClear => Sys2Proof.Machine.execDbgProfileClear s
  | .pcSample => Sys2Proof.Machine.execPcSample s
  | .replayOff => Sys2Proof.Machine.execReplayOff s
  | .replayRecord => Sys2Proof.Machine.execReplayRecord s
  | .replayEnforce => Sys2Proof.Machine.execReplayEnforce s
  | .replayTimeout => Sys2Proof.Machine.execReplayTimeout s
  | .startTimeout => Sys2Proof.Machine.execStartTimeout s
  | .bootClearFails => Sys2Proof.Machine.execBootClearFails s
  | .thermalTrip => Sys2Proof.Machine.execThermalTrip s
  | .powerFault => Sys2Proof.Machine.execPowerFault s
  | .serviceInstallImage => Sys2Proof.Machine.execServiceInstallImage s
  | .serviceRetrainPeer => Sys2Proof.Machine.execServiceRetrainPeer s
  | .attestReport => Sys2Proof.Machine.execAttestReport s
  | .attestCertChain => Sys2Proof.Machine.execAttestCertChain s
  | .faultCtl => Sys2Proof.Machine.execFaultCtl s
  | .peerLinkTrained => Sys2Proof.Machine.execPeerLinkTrained s
  | .peerLinkDown => Sys2Proof.Machine.execPeerLinkDown s
  | .headLinkDown => Sys2Proof.Machine.execHeadLinkDown s
  | .imageActive => Sys2Proof.Machine.execImageActive s

end Sys2Proof.Machine
end

