-- ==== Sys2Proof/Machine/Sched.lean ====
section
/-! DEFINITION. Which step comes next: the operations of the group in flight in the order of R61, the steps that a step
has caused, what the outside offers, what a unit of the device is due to do, and the passing of time
(04_waves_groups_and_regions.md R198, and the rules cited at each source). -/
namespace Sys2Proof.Machine
open Sys2Proof

/-! The group in flight (R20, R26, R61). -/

/-- mhist is one operation whose form is chosen by bits 7:6 of its first scalar as the group issues (R340). -/
def mhistForm (r : Regs) : Instr → Instr
  | .mhistClear h o =>
    match bits (r.sc o.a.toNat) 7 6 with
    | 0 => .mhistClear h o
    | 1 => .mhistRead h o
    | _ => .mhistPush h o
  | i => i
/-- The operation of a group in flight that stands in a bundle's slot. -/
def State.flightOp (s : State) (fl : Flight) (at0 : Nat × Nat) : Option Instr :=
  ((fl.bundles[at0.1]?).bind fun b => decodeSlot fl.owner.prof at0.2 (Sys2Proof.slotOf b.bits at0.2)).map fun i =>
    match s.owner fl.owner with
    | some w => mhistForm w.r i
    | none => i
/-- The next operation of the group in flight, or the transfer tree that ends it: what runs, and the state in which
it runs. The steps of a system-register write come before the operations that follow it (R263). A slot that holds no
operation is passed over, and a group whose wave is gone ends. -/
def State.flightNext (s : State) (fl : Flight) : Option Instr × State :=
  if (s.owner fl.owner).isNone then (some (.br (treeOf (lastBits fl.bundles))), s)
  else match fl.sysw, fl.todo with
  | o :: rest, _ => (some o.instr, { s with arg := o.arg, flight := some { fl with sysw := rest } })
  | [], [] => (some (.br (treeOf (lastBits fl.bundles))), s)
  | [], at0 :: rest => (s.flightOp fl at0, { s with flight := some { fl with todo := rest, cur := at0 } })

/-! Offers (the model's own: who may act when). -/

/-- A step that runs from a queue of offers: a slot operation runs from a group in flight only, save an access of a
system register through a control port (R434). -/
def offerOk (i : Instr) : Bool :=
  match i with
  | .br _ => false
  | .rdsr _ _ | .wrsr _ _ => true
  | _ => i.head?.isNone
/-- A device that has not come to ready takes a cold reset only (R513, R515). -/
def State.admits (s : State) (i : Instr) : Bool :=
  offerOk i && (s.life.state == .ready || (match i with | .resetCold _ => true | _ => false))
/-- The state in which an offered step runs. -/
def State.offered (s : State) (o : Offer) : State := { s with arg := o.arg }
/-- What a step that is offered does: none when it is not enabled and so changes nothing. -/
def State.tryOffer (s : State) (o : Offer) : Option State :=
  let t := s.offered o
  match exec o.instr t with
  | .next u => if u == t then none else some u
  | _ => none

def offer (i : Instr) (a : Nat := 0) (b : Nat := 0) (c : Nat := 0) : Offer := { instr := i, arg := { a, b, c, x := 0 } }

/-! What each unit may be due to do. -/

/-- The first core from 0 on that satisfies a test. -/
def firstCore (p : Nat → Bool) : Option Nat := (List.range 768).find? p
/-- Cores on which a wave lies, by gcore: the order in which triggers of one cycle reach the debug unit (R497). -/
def State.busyCores (s : State) : List Nat := (s.waves.map fun w => s.coreOf w).eraseDups |> sortBy fun a b => decide (a ≤ b)
/-- Commands of the engines (R289, R293): any of a copy engine, the first of a matrix engine, any of the others but enq. -/
def State.engineOffers (s : State) : List Offer :=
  s.cores.flatMap fun c =>
    (List.range c.copyQ.length).map (fun k => offer (.tokenComplete (.copy c.id k)))
      ++ (if c.matQ.isEmpty then [] else [offer (.tokenComplete (.matrix c.id))])
      ++ (List.range c.syncQ.length).map fun k => offer (.tokenComplete (.sync c.id k))
/-- Records that reach their drawers, and drawers whose timer has expired (R314, R315). -/
def State.drawerOffers (s : State) : List Offer :=
  s.drawers.map (fun d => offer .drawerTimeout d.uid)
    ++ s.cores.flatMap fun c => c.syncQ.filterMap fun q => match q.op with
      | .enq _ _ => some (offer .drawerRecordPlace q.uid)
      | _ => none
/-- Launches that wait: those that LRATE held, first come first, bench entries, draws that have closed (R109, R305,
R356). -/
def State.launchOffers (s : State) : List Offer :=
  (s.lrateQ.filter fun x => s.stillWaits x.src).map (fun x => offer (.launchAccept x.src))
    ++ s.groups.filterMap (fun g => (s.benchNext g.uid).map fun c => offer (.launchAccept (.bench g.uid c.uid)))
    ++ (s.draws.filter fun d => d.closed && d.isOpen).map fun d => offer (.launchAccept (.shade d.uid))
/-- Groups and continuations that a core can take (R113, R312). -/
def State.placeOffers (s : State) : List Offer :=
  s.grids.filterMap (fun r => if r.next < r.total then
      (firstCore fun g => s.canPlace r g).map fun g => offer .groupPlace r.uid g else none)
    ++ (List.range s.conts.length).filterMap fun i => match s.contAt i with
      | some (_, _, .inl _) => some (offer .continuationPop i)
      | some (_, lrec, .inr l) => (firstCore fun g => s.canPop l g && s.repPlace l.eff.slot g 0 lrec).map fun g => offer .continuationPop i g
      | none => none
/-- Waves that come to a slot or leave one (R127, R128). -/
def State.slotOffers (s : State) : List Offer :=
  s.busyCores.flatMap fun g =>
    ((s.firstReady g).toList.map fun w => offer .waveActivate w.uid)
      ++ (match s.victimNow g with
        | some (1, w) => [offer .waveDeactivate w.uid]
        | some _ => [offer .victimAgeExpire g]
        | none => [])
/-- Waits that end by time (R197, R285). -/
def State.waitOffers (s : State) : List Offer :=
  s.waves.flatMap fun w => (w.inState .waiting).list.filterMap fun i =>
    match (w.threads.get i).wkind with
    | .sleep => some (offer .sleepExpire w.uid i.val)
    | .waitLim => some (offer .waitLimitExpire w.uid i.val)
    | _ => none
/-- Buffers and counts that age (R109, R269, R373). -/
def State.agingOffers (s : State) : List Offer :=
  s.cores.filterMap (fun c => if c.wc.isEmpty then none else some (offer .writeCombineFlush c.id))
    ++ (s.tex.lines.filter fun l => !l.texel).map (fun l => offer .mapCacheExpire l.core l.vline)
    ++ (if s.lrate.isEmpty then [] else [offer .lrateWindow])
/-- The graphics units (R351 to R356). -/
def State.graphicsOffers (s : State) : List Offer :=
  s.culls.filterMap (fun c => if c.queue.isEmpty then none else some (offer .meshletCull c.die))
    ++ s.draws.flatMap (fun d =>
      let r := DrawRec.parse d.words
      (List.range (r.tx * r.ty)).flatMap fun t =>
        (if d.tris.any (fun q => q.tx == t % r.tx && q.ty == t / r.tx) || r.dsc then [offer .tileResolve d.die d.uid t] else [])
          ++ [offer .tileFinal d.die d.uid t])
/-- The rings' sections and collectives (R473, R478). -/
def State.fabricOffers (s : State) : List Offer :=
  s.fab.packets.filterMap (fun p => if (p.arrived s.cycle).isEmpty then none else some (offer .packetArrive p.cluster p.uid))
    ++ s.fab.sections.flatMap (fun r => [offer .sectionOpen r.cluster, offer .sectionClose r.cluster])
    ++ s.fab.colls.map fun i => offer .collInstanceComplete i.uid
/-- Command queues (R482, R483). -/
def State.queueOffers (s : State) : List Offer :=
  s.hub.queues.flatMap fun q =>
    (if q.timer.isSome then [offer .kickTimerExpire q.id] else [])
      ++ (if q.state != .reading || s.now < q.readAt then []
        else match s.cqPacket q with
          | none => []
          | some (.inl _) => [offer .cqInvalid q.id]
          | some (.inr ws) =>
            match bits (wd ws 1) 7 0, cqReserved ws with
            | 0, false => [offer .cqNop q.id]
            | 1, false => [offer .cqLaunch q.id]
            | 2, false => [offer .cqSignal q.id]
            | 3, false => [offer .cqWait q.id]
            | 4, false => [offer .cqSwitch q.id]
            | _, _ => [offer .cqInvalid q.id])
/-- A queue whose next packet is not valid arms its monitor (R482). -/
def State.armOffers (s : State) : List Offer :=
  s.hub.queues.filterMap fun q => if q.up && q.state == .reading && (s.cqPacket q).isNone then some (offer .cqInvalid q.id) else none
/-- Heads and line cores (R391 to R412). -/
def State.displayOffers (s : State) : List Offer :=
  let heads := (s.disp.heads.filter fun (x : HeadUnit) => x.en).map fun x => x.id
  heads.map (fun h => offer .framePromote h) ++ heads.map (fun h => offer .poseLatch h) ++ heads.map (fun h => offer .lineDeadline h)
    ++ heads.map (fun h => offer .lineScanOut h) ++ heads.map (fun h => offer .bandClose h)
    ++ (if heads.isEmpty then [] else (List.range 64).filterMap fun k =>
          if s.lineFree k then (s.bandFor k).map fun b => offer .runStart k b.1 else none)
    ++ s.disp.lines.flatMap fun l =>
      (((List.range 8).filter fun b => (l.pt.toList.getD b PTEntry.blank).left != 0).map fun b => offer .preparedTargetFill l.id b 1)
        ++ (if l.wait.isSome then [offer .lineCoreWaitEnd l.id] else [])
        ++ (if l.xq.isEmpty then [] else [offer .dmeCommandExecute l.id])
/-- Records whose time has passed (R428). -/
def State.timeoutOffers (s : State) : List Offer :=
  (s.fault.opened.filter fun o => o.expires.isSome).map fun o => offer .faultTimeout o.idx
/-- Switches and service requests (R445, R447, R451, R519). -/
def State.switchOffers (_ : State) : List Offer :=
  [offer .switchPhaseC, offer .switchPhaseB, offer .switchOut, offer .switchIn]
/-- Service requests in their order (R519), and images to become active (R524). -/
def State.serviceOffers (s : State) : List Offer :=
  (match s.svcHead with
    | none => []
    | some (_, .inl _) => [offer .serviceRetrainPeer]
    | some (_, .inr ws) =>
      if svcOp ws == 1 then [offer (.serviceTestCluster [])]
      else if svcOp ws == 2 then [offer (.serviceRetrainChannel [])]
      else if svcOp ws == 3 then [offer .serviceInstallImage] else [offer .serviceRetrainPeer])
    ++ s.life.pendingImages.map fun k => offer .imageActive k.kind
/-- Samples and replay timeouts (R495, R512). -/
def State.debugOffers (s : State) : List Offer :=
  s.cores.filterMap (fun c => if c.sampling then some (offer .pcSample c.id) else none)
    ++ (s.rep.logs.filter fun l => s.repLate l || s.runGone l.unit).map fun l => offer .replayTimeout l.unit
/-- Cores and line cores that may issue (R124, R384). -/
def State.issueOffers (s : State) : List Offer :=
  (s.busyCores.map fun g => offer (.issueGroup (.core g)))
    ++ (s.disp.lines.filter fun l => l.run.isSome).map fun l => offer (.issueGroup (.line l.id))
/-- Lines that a group only needs a place for, where a place is free (R208). -/
def State.roomOffers (s : State) : List Offer :=
  s.busyCores.flatMap fun g => (s.wavesOn g).filterMap fun w =>
    match s.readiness w with
    | .line n false => if s.rcRoom w then some (offer .registerFill w.uid n) else none
    | _ => none
/-- The units in a fixed order: where several could act in one cycle, the first named acts first. -/
def sources : List (State → List Offer) :=
  [State.fabricOffers, State.engineOffers, State.drawerOffers, State.launchOffers, State.queueOffers, State.armOffers,
   State.displayOffers, State.waitOffers, State.agingOffers, State.graphicsOffers, State.timeoutOffers, State.switchOffers,
   State.serviceOffers, State.debugOffers, State.placeOffers, State.slotOffers, State.roomOffers,
   State.issueOffers]
/-- What happens next in the current cycle, by the device itself; none when nothing more does. -/
def State.due (s : State) : Option State :=
  match s.life.state with
  | .ready => sources.findSome? fun f => (f s).findSome? fun o => s.tryOffer o
  | .starting k => s.tryOffer (offer .startTimeout k)
  | _ => none

/-! Time (R198). -/

/-- The tick after now at which a compute cycle or a display cycle begins. -/
def nextTick (now : Nat) : Nat := min ((now / 40 + 1) * 40) ((now / 45 + 1) * 45)
/-- What the conflict counters of a core add for the compute cycle that ends (R504). -/
def State.countConflicts (s : State) (g : Nat) : State :=
  let c := s.core g
  if c.copyQ.isEmpty && c.matQ.isEmpty && c.freed.isEmpty && c.ports.isEmpty then s
  else
    let cells := (s.wavesOn g).flatMap fun w =>
      if w.isActive && c.counted (s.slotOf w) && !s.issuing w then
        (match s.readiness w with | .banks cells => cells.eraseDups | _ => [])
      else []
    if cells.isEmpty then s
    else
      let lost := c.free ≤ s.cycle
      s.modCore g fun (c : Core) =>
        let c := cells.foldl (fun (c : Core) e => c.addConflict e.1 e.2 1) c
        if lost then { c with lostCyc := c.lostCyc + 1 } else c
/-- The end of a compute cycle: the sections' multiplexers, the counters, and the waves that have become ready. -/
def State.endCycle (s : State) : State :=
  let s := s.secTick s.cycle
  let s := (s.cores.map fun c => c.id).foldl (fun s g => s.traceCycle g) s
  ((s.busyCores.foldl (fun s g => s.countConflicts g) s).noteReady).repCount
/-- What the begin of a compute cycle sets off: one bundle for each prepared target, one flit on each link of a ring, and the
fill of one register line on each core where a wave waits for it (R30, R129, R208, R462). -/
def State.cycleOffers (s : State) : List Offer :=
  let fills := s.waves.flatMap fun w =>
    if w.isActive then (w.targets.toList.zipIdx.filter fun e => e.1.left != 0 && e.1.next ≤ s.cycle).map fun e => offer .preparedTargetFill w.uid e.2
    else []
  let hops := (s.fab.packets.map fun p => p.cluster).eraseDups.map fun c => offer .packetHop c
  let lines := s.busyCores.filterMap fun g => (s.wavesOn g).findSome? fun w =>
    match s.readiness w with
    | .line n _ => if s.lineCanCome w then some (offer .registerFill w.uid n) else none
    | _ => none
  fills ++ hops ++ lines
/-- Nothing more happens now: time goes on. -/
def State.tick (s : State) : State :=
  let t := nextTick s.now
  if s.life.state != .ready then { s with now := t }
  else if t % 40 == 0 then
    let s := { s.endCycle with now := t }
    { s with posted := s.posted ++ s.cycleOffers }
  else { s with now := t }

/-! A wave that runs one given bundle (the model's own; see State.withFetchWord). -/

/-- A grid for a wave that stands alone. -/
def soloGrid (uid : Nat) : Grid :=
  { uid, seq := 0, launch := 0, region := 0, slot := 0, rslot := 0,
    kd := { addr := 0, entry := 0, waves := 1, prof := 0, regs := 128, sbanks := 0, acc := false, surv := false, xsh := 32,
            ysh := 1, zsh := 1, sentry := 0 },
    nx := 1, ny := 1, nz := 1, lmode := 0, coop := false, args := [], done := 0, next := 1, ended := 0, killed := false,
    doneWait := none, held := false, who := .program, entry := none, batch := none, home := none }
/-- A group for a wave that stands alone, on core 0. -/
def soloGroup (uid grid : Nat) : Group :=
  { uid, grid, lin := 0, core := 0, sbanks := [], obanks := [], scratch := Store.empty, acc := { cells := [], bad := [] },
    barGen := 0, voteT := false, voteF := false, arrive := Vector.replicate 8 0, mat := matReset, tensors := [],
    bench := [], inSection := false, batch := none, saved := false, heldFlits := [], draw := none, emitted := 0 }
/-- A state with a wave that can issue for a profile, and who it is: the first wave there is, else a new one. -/
def State.withIssuer (s : State) (p : Profile) : State × Owner :=
  match p with
  | .c =>
    match s.waves with
    | w :: _ => (s, .wave w.uid)
    | [] =>
      let k := s.nextUid
      let r := soloGrid k
      let w : Wave := { newWave r 0 (k + 2) (k + 1) 0 false none 0 0 s.cycle with
        act := .active 0 s.cycle, cur := BitVec.allOnes 32 }
      ({ s with nextUid := k + 3, grids := s.grids ++ [r], groups := s.groups ++ [soloGroup (k + 1) k], waves := [w] }, .wave (k + 2))
  | .d =>
    match (s.line 0).wave with
    | some _ => (s, .line 0)
    | none =>
      let k := s.nextUid
      let run : Run := { head := 0, entry := 0, frame := 0, first := 0, lines := 1, popped := none }
      let w := runWave k 0 0 1 0 0 0
      let l : LineCore := { s.line 0 with wave := some w, stochSeen := w.r.stoch, run := some run }
      ({ s with nextUid := k + 1 }.setLine l, .line 0)
/-- One bundle in flight, all 32 threads in its group, with the operation of one slot still to run, or none. -/
def State.fly (s : State) (o : Owner) (b : Bundle) (k : Option Nat) : State :=
  match s.owner o with
  | none => s
  | some w =>
    let todo : List (Nat × Nat) := match k with | some k => [(0, k)] | none => []
    { s with flight := some (newFlight o w.r w.nextPc [{ bits := b, bad := false }] (BitVec.allOnes 32) todo) }
/-- The bundle of an instruction word in flight. -/
def State.flyWord (s : State) (nbits w : Nat) : State :=
  match tablePick nbits w with
  | none => s
  | some (b, p, k, _) =>
    let q := s.withIssuer p
    q.1.fly q.2 b k

end Sys2Proof.Machine
end

