-- ==== Sys2Proof/Machine/Step.lean ====
section
/-! DEFINITION. One step of the machine. The group in flight goes on first, so that a group is whole (R20, R22); then the
steps that a step has caused; then what the outside offers, once its time has come; then what a unit is due to do; and
when nothing is due, time passes. -/
namespace Sys2Proof.Machine
open Sys2Proof

/-- One step. -/
def step (s : State) : Host.Outcome State Fault Refusal :=
  match s.flight with
  | some fl =>
    match s.flightNext fl with
    | (some i, t) => exec i t
    | (none, t) => .next t
  | none =>
    match s.posted with
    | o :: rest => exec o.instr ({ s with posted := rest }.offered o)
    | [] =>
      match s.agenda with
      | (t, o) :: rest =>
        if t ≤ s.now then
          if s.admits o.instr then exec o.instr ({ s with agenda := rest }.offered o) else .next { s with agenda := rest }
        else .next (s.due.getD s.tick)
      | [] => .next (s.due.getD s.tick)

/-- `s` with the bundle of an instruction word in flight, so that the next step runs that instruction. -/
def State.withFetchWord (s : State) (nbits w : Nat) : State := s.flyWord nbits w

end Sys2Proof.Machine
end

