-- ==== Sys2Proof/Safety.lean ====
section
/-! DEFINITION. What counts as a safe state and a safe run, in the terms that claims use. -/
namespace Sys2Proof

/-- Element j of width n of a lane word, as a bit vector (R157). -/
def elt (x : Word) (n j : Nat) : BitVec n := x.extractLsb' (n * j) n

/-- The value of n bits: signed or unsigned (R12). -/
def bitsVal (signed : Bool) {n : Nat} (x : BitVec n) : Int := if signed then x.toInt else x.toNat

/-- A number cut to the width of a type and extended by its signedness (R71). -/
def extOf (t : Ty) (r : Int) : Dword :=
  if t.signed then (BitVec.ofInt t.width r).signExtend 64 else (BitVec.ofInt t.width r).zeroExtend 64

/-- The fields of an S operation: its type, its destination, its first and its second operand (R71). -/
def SFmt.type : SFmt → Ty
  | .r o => o.ty
  | .i o => o.ty
def SFmt.dest : SFmt → BitVec 6
  | .r o => o.d
  | .i o => o.d
def SFmt.left (r : Machine.Regs) : SFmt → Dword
  | .r o => r.sc o.a.toNat
  | .i o => r.sc o.a.toNat
def SFmt.right (r : Machine.Regs) : SFmt → Dword
  | .r o => r.sc o.b.toNat
  | .i o => o.imm.signExtend 64
def SFmt.code : SFmt → Nat
  | .r o => o.cond.toNat
  | .i o => o.cond.toNat

/-- The comparison that a condition code names: eq, ne, lt, le, gt, ge (R51). -/
def Holds (k : Nat) (a b : Int) : Prop :=
  match k with
  | 0 => a = b | 1 => a ≠ b | 2 => a < b | 3 => a ≤ b | 4 => a > b | _ => a ≥ b

/-- The three forms of mhist share one encoding, which decodes to one of them; which form runs is read from a register as the group issues (R340). -/
def Instr.coded : Instr → Instr
  | .mhistRead h o => .mhistClear h o
  | .mhistPush h o => .mhistClear h o
  | i => i

end Sys2Proof

namespace Sys2Proof.Machine
open Sys2Proof

/-- A rising list of numbers: the form of the lists of poisoned bytes. -/
def rising : List Nat → Bool
  | [] => true
  | [_] => true
  | a :: b :: t => decide (a < b) && rising (b :: t)
/-- Device memory and its poison are in canonical form. -/
def State.memOk (s : State) : Bool := Memory.wf s.mem && rising s.memBad
/-- A step goes on: it ends neither in a fault nor in a refusal. -/
def goesOn (s : State) : Bool := match step s with | .next _ => true | _ => false
/-- A group in flight belongs to a wave that the state holds. -/
def State.flightOk (s : State) : Bool := s.flight.all fun fl => (s.owner fl.owner).isSome
/-- Nothing waits to reach the LLC: no store in the core's write buffer, and no L2 with a dirty byte. -/
def State.calm (s : State) (g : Nat) : Prop := (s.core g).wc = [] ∧ ∀ l, l ∈ s.l2 → l.dirty = 0

/-! What statements about slot operations say. -/

/-- The operation with head `h` runs: group `fl` is in flight, `w` is its wave with the registers as the running bundle reads
them (on a line core with the results that have landed by then, R34), and the tag and the guard of `h` hold in at least one
of its threads (R25, R27). -/
structure Running (s : State) (h : Head) (fl : Flight) (w : Wave) : Prop where
  flight : s.flight = some fl
  owner : (s.owner fl.owner).map (s.reader fl) = some w
  thread : runMask w.r fl h ≠ 0

/-- The state in which the group in flight has deferred some register writes more, with a stated latency, and nothing
else is different (R22). -/
def State.leaves (s : State) (fl : Flight) (lat : Nat) (ws : List RegWrite) : State :=
  { s with flight := some { fl with writes := fl.writes ++ ws.map fun x => { lat := fl.latency lat, w := x } } }

/-- A deferred write of predicate d in lanes m; one of p0 is discarded (R18). -/
def predWrites (d : BitVec 5) (m x : Mask) : List RegWrite := if d = 0 then [] else [.p d m x]

/-- An operation leaves one vector write in lanes m at latency `lat`, and lane by lane its value satisfies `P`. -/
def WritesLanes (i : Instr) (s : State) (fl : Flight) (m : Mask) (lat : Nat) (d : BitVec 7) (P : Fin 32 → Word → Prop) : Prop :=
  ∃ x : Line, exec i s = .next (s.leaves fl lat [.v d m x 0]) ∧ ∀ k, m.has k = true → P k (x.get k)

/-- An operation leaves one predicate write in lanes m at latency `lat`, none for p0, and lane by lane its value is `P`. -/
def WritesPred (i : Instr) (s : State) (fl : Flight) (m : Mask) (lat : Nat) (d : BitVec 5) (P : Fin 32 → Prop) : Prop :=
  ∃ x : Mask, exec i s = .next (s.leaves fl lat (predWrites d m x)) ∧ ∀ k, m.has k = true → (x.has k = true ↔ P k)

/-- The group in flight after draws: on a line core the new stochastic state is kept with its latency (R145, R146). -/
def Flight.drew (fl : Flight) (lat : Nat) (st : Stoch) : Flight :=
  { fl with stoch := st,
            draws := if fl.owner.prof = .d ∧ st ≠ fl.stoch then fl.draws ++ [(fl.latency lat, st)] else fl.draws }
/-- The group in flight after a rounding operation: its draws and the flags it raised are kept until the group's end, on a
line core as a deferred write of its own (R34, R87, R145, R148), and its register writes are deferred. -/
def Flight.rounded (fl : Flight) (lat : Nat) (st : Stoch) (f : BitVec 5) (ws : List RegWrite) : Flight :=
  let put (l : List RegWrite) : List LatWrite := fl.writes ++ l.map fun x => { lat := fl.latency lat, w := x }
  let fl := fl.drew lat st
  if f = 0 then { fl with writes := put ws }
  else if fl.owner.prof = .d then { fl with writes := put (.flags f :: ws) }
  else { fl with raised := fl.raised ||| f, flagsIn := max fl.flagsIn (fl.latency lat), writes := put ws }

/-- An operation leaves one vector write in lanes m at latency `lat`, draws that end at `st` and flags `f`, and lane by
lane its value satisfies `P`. -/
def WritesRounded (i : Instr) (s : State) (fl : Flight) (m : Mask) (lat : Nat) (d : BitVec 7) (st : Stoch) (f : BitVec 5)
    (P : Fin 32 → Word → Prop) : Prop :=
  ∃ x : Line, exec i s = .next { s with flight := some (fl.rounded lat st f [.v d m x 0]) } ∧ ∀ k, m.has k = true → P k (x.get k)

/-- The generator after n draws (R143). -/
def Stoch.after : Nat → Stoch → Stoch
  | 0, st => st
  | n + 1, st => Stoch.after n st.draw.2
/-- The word that the n-th draw from a state gives under the stochastic mode (R143, R144), lane k drawing `per` times after the
running lanes below it; a word that no other mode looks at. -/
def drawnAt (md : Rm) (st : Stoch) (m : Mask) (per : Nat) (k : Fin 32) (j : Nat) : Word :=
  if md = .rst then (Stoch.after ((m.list.countP fun i => decide (i < k)) * per + j) st).draw.1 else 0
/-- The generator after every running lane has drawn `per` times under the stochastic mode (R144). -/
def drawnAll (md : Rm) (st : Stoch) (m : Mask) (per : Nat) : Stoch := if md = .rst then Stoch.after (m.list.length * per) st else st

/-! What statements about floating-point results say. -/

/-- What an operation finds before its one rounding: a NaN or an infinity with the flags that go with it, or an exact real, with
the sign that it takes if it is zero (R135, R136, R142, R148). -/
inductive Exact where
  | nan (flags : BitVec 5)
  | inf (neg : Bool) (flags : BitVec 5)
  | real (neg : Bool) (x : Rat)
  deriving DecidableEq, Repr
/-- Its encoding, and the flags it raises (R140 to R142). -/
def Fm.settle (f : Fm) (md : Rm) (fz : Bool) (r : Word) : Exact → Nat × BitVec 5
  | .nan fl => (f.nan, fl)
  | .inf n fl => (f.signBit n + f.infBits, fl)
  | .real n x => if x = 0 then (f.signBit n, 0) else f.round md fz r x
/-- The sum of two values (R142, R152, R161). -/
def exactSum (md : Rm) : FVal → FVal → Exact
  | .nan, _ => .nan 0
  | _, .nan => .nan 0
  | .inf p, .inf q => if p = q then .inf p 0 else .nan fNV
  | .inf p, .num .. => .inf p 0
  | .num .., .inf q => .inf q 0
  | .num p x, .num q y => .real (if x = 0 ∧ y = 0 ∧ p = q then p else decide (md = .rdn)) (x + y)
/-- The product of two values (R142, R161). -/
def exactProduct : FVal → FVal → Exact
  | .nan, _ => .nan 0
  | _, .nan => .nan 0
  | .inf p, .inf q => .inf (p != q) 0
  | .inf p, .num q y => if y = 0 then .nan fNV else .inf (p != q) 0
  | .num p x, .inf q => if x = 0 then .nan fNV else .inf (p != q) 0
  | .num p x, .num q y => .real (p != q) (x * y)
/-- A product and an addend (R152). -/
def exactFused (md : Rm) (a b d : FVal) : Exact :=
  match exactProduct a b with
  | .nan fl => .nan (if d = .nan then 0 else fl)
  | .inf p _ => exactSum md (.inf p) d
  | .real p x => exactSum md (.num p x) d
/-- The quotient of two values (R142, R164). -/
def exactQuotient : FVal → FVal → Exact
  | .nan, _ => .nan 0
  | _, .nan => .nan 0
  | .inf _, .inf _ => .nan fNV
  | .inf p, .num q _ => .inf (p != q) 0
  | .num p _, .inf q => .real (p != q) 0
  | .num p x, .num q y => if y = 0 then (if x = 0 then .nan fNV else .inf (p != q) fDZ) else .real (p != q) (x / y)
/-- A value times a power of two (R165). -/
def exactScaled (k : Int) : FVal → Exact
  | .nan => .nan 0
  | .inf p => .inf p 0
  | .num p x => .real p (x * pow2 k)
/-- vrint of a value under the rounding word r (R165): a value without a fraction is unchanged, another rounds to an integer. -/
def Fm.rintOf (f : Fm) (md : Rm) (fz : Bool) (r : Word) : FVal → Nat × BitVec 5
  | .nan => (f.nan, 0)
  | .inf p => (f.signBit p + f.infBits, 0)
  | .num p x =>
    if (2 ^ f.fw : Nat) ≤ x ∨ x ≤ -(2 ^ f.fw : Nat) then f.settle md fz 0 (.real p x)
    else
      let n := roundInt x md r
      ((f.settle .rne false 0 (.real p n)).1, if (n : Rat) = x then 0 else fNX)
/-- vfract of a value (R165): its distance from its floor, which never rounds up to 1. -/
def Fm.fractOf (f : Fm) (md : Rm) (fz : Bool) (r : Word) : FVal → Nat × BitVec 5
  | .nan => (f.nan, 0)
  | .inf _ => (f.nan, fNV)
  | .num _ x =>
    let one := f.bias * 2 ^ f.fw
    let e := f.settle md fz r (.real false (x - x.floor))
    if e.1 = one then (one - 1, e.2 ||| fNX) else e
/-- A value converted to a format (R149): e4m3 has no infinities. -/
def Fm.converted (f : Fm) (md : Rm) (fz : Bool) (r : Word) : FVal → Nat × BitVec 5
  | .nan => f.settle md fz r (.nan 0)
  | .inf p => f.settle md fz r (if f.infs then .inf p 0 else .nan fNV)
  | .num p x => f.settle md fz r (.real p x)
/-- A value converted to an integer of n bits (R150). -/
def intOf (n : Nat) (sg : Bool) (md : Rm) (r : Word) (x : FVal) : Int × BitVec 5 :=
  let lo : Int := if sg then -2 ^ (n - 1) else 0
  let hi : Int := if sg then 2 ^ (n - 1) - 1 else 2 ^ n - 1
  match x with
  | .nan => (0, fNV)
  | .inf p => (if p then lo else hi, fNV)
  | .num _ x =>
    let k := roundInt x md r
    if k < lo then (lo, fNV) else if hi < k then (hi, fNV) else (k, if (k : Rat) = x then 0 else fNX)
/-- Flags are the OR of what each element of each running lane raises (R148, R159). -/
def Raised (m : Mask) (e : Nat) (fg : BitVec 5) (F : Fin 32 → Nat → BitVec 5) : Prop :=
  ∀ i, i < 5 → (fg.getLsbD i = true ↔ ∃ k j, m.has k = true ∧ j < e ∧ (F k j).getLsbD i = true)

/-- The order of values that are not NaN (R162, R170), −0 below +0. -/
def FVal.atMost : FVal → FVal → Prop
  | .nan, _ => False
  | _, .nan => False
  | .inf true, _ => True
  | _, .inf false => True
  | .inf false, _ => False
  | _, .inf true => False
  | .num p x, .num q y => x < y ∨ (x = y ∧ (p = true ∨ q = false))
/-- A value is less than another (R170). -/
def FVal.less : FVal → FVal → Prop
  | .nan, _ => False
  | _, .nan => False
  | .inf p, .inf q => p = true ∧ q = false
  | .inf p, .num .. => p = true
  | .num .., .inf q => q = false
  | .num _ x, .num _ y => x < y

/-! What statements about the end of a group say. -/

/-- R36, in at most n rounds: what a next PC, that of a taken transfer or not, and a loop stack, top first, become after a group whose last
bundle is at `last`; the flag says that the PC returns to a loop's start. -/
inductive LoopRule (taken : Bool) (last : Dword) : Nat → Dword → List LoopEntry → Dword → List LoopEntry → Bool → Prop
  | over (pc : Dword) (st : List LoopEntry) : LoopRule taken last 0 pc st pc st false
  | empty (n : Nat) (pc : Dword) : LoopRule taken last (n + 1) pc [] pc [] false
  | leaves (n : Nat) (pc pc' : Dword) (e : LoopEntry) (st st' : List LoopEntry) (b : Bool) : taken = true →
      pc.toNat < e.start.toNat ∨ e.stop.toNat < pc.toNat → LoopRule taken last n pc st pc' st' b →
      LoopRule taken last (n + 1) pc (e :: st) pc' st' b
  | stays (n : Nat) (pc : Dword) (e : LoopEntry) (st : List LoopEntry) : taken = true → e.start.toNat ≤ pc.toNat →
      pc.toNat ≤ e.stop.toNat → LoopRule taken last (n + 1) pc (e :: st) pc (e :: st) false
  | again (n : Nat) (pc : Dword) (e : LoopEntry) (st : List LoopEntry) : taken = false → last = e.stop → 1 < e.count.toNat →
      LoopRule taken last (n + 1) pc (e :: st) e.start ({ e with count := e.count - 1 } :: st) true
  | ends (n : Nat) (pc pc' : Dword) (e : LoopEntry) (st st' : List LoopEntry) (b : Bool) : taken = false → last = e.stop →
      e.count.toNat ≤ 1 → LoopRule taken last n pc st pc' st' b → LoopRule taken last (n + 1) pc (e :: st) pc' st' b
  | inside (n : Nat) (pc : Dword) (e : LoopEntry) (st : List LoopEntry) : taken = false → last ≠ e.stop →
      LoopRule taken last (n + 1) pc (e :: st) pc (e :: st) false
/-- A loop entry but for the bundles of its body that the core holds (R35, R38). -/
def LoopEntry.bounds (e : LoopEntry) : Dword × Dword × Word := (e.start, e.stop, e.count)
/-- The loop stack on which R36 runs, top first: a loop that runs in some thread with a count above zero has been pushed (R35, R92). -/
def Flight.stackFor (fl : Flight) (r : Regs) : List LoopEntry :=
  let kept := if r.loops.length < 4 then r.loops else r.loops.drop 1
  match fl.ctl with
  | .loop m a b n => if m ≠ 0 ∧ n ≠ 0 then { start := a, stop := b, count := n } :: kept.reverse else r.loops.reverse
  | _ => r.loops.reverse
/-- How a thread leaves a group (R26, R92 to R94, R193, R472): past the group where it begins to wait at a barrier; to the target of the first test of the
tree that holds for it; else to that of a call or a return; else past the body of a loop due no run, or past the group. -/
def Flight.LeavesTo (fl : Flight) (r : Regs) (t : Tree) (i : Fin 32) (pc : Dword) (taken : Bool) : Prop :=
  let holds (e : Test) : Prop := r.pred e.pred.toNat i ≠ e.neg
  let first (e : Test) : Prop := ∃ n : Nat, t.tests[n]? = some e ∧ holds e ∧ ∀ (m : Nat) (d : Test), m < n → t.tests[m]? = some d → ¬holds d
  let falls : Prop := pc = fl.pc + BitVec.ofNat 64 (64 * fl.bundles.length) ∧ taken = false
  let waits : Prop := ∃ q, q ∈ fl.waits ∧ (q.kind = .bar ∨ q.kind = .vote ∨ q.kind = .barc) ∧ q.m.has i = true
  (waits → falls) ∧
  (¬waits → (∀ e, first e → pc = btAddr (r.bt e.bt.toNat) ∧ taken = true) ∧
    ((∀ e, e ∈ t.tests → ¬holds e) →
      match fl.ctl with
      | .call m a _ => if m.has i = true then pc = a ∧ taken = true else falls
      | .loop m _ b n => if m.has i = true ∧ n = 0 then pc = b + 64 ∧ taken = false else falls
      | _ => falls))
/-- The thread exits with the group (R95). -/
def Flight.exitsIn (fl : Flight) (i : Fin 32) : Prop :=
  match fl.ctl with
  | .exit m _ => m.has i = true
  | _ => False

/-! What statements about memory say. -/

/-- An operation with head `h` runs and sees `c`: its flight, its wave, the threads in which it runs, its core. -/
structure RunsIn (s : State) (h : Head) (c : Ctx) : Prop where
  ctx : slotCtx s h = some c
  thread : c.run ≠ 0

/-- Every wave is unchanged but for its mark set and its monitor's trigger (R262, R275). -/
def SameWaves (s t : State) : Prop :=
  t.waves.map (fun w => { w with c := { w.c with marks := [], monTrig := false } })
    = s.waves.map fun w => { w with c := { w.c with marks := [], monTrig := false } }
/-- Every core is unchanged but for what its L1, its translations and its write buffer hold (R199, R236, R269). -/
def SameCores (s t : State) : Prop :=
  ∀ g : Nat, ({ t.core g with l1 := [], tlb := [], wc := [] } : Core) = { s.core g with l1 := [], tlb := [], wc := [] }
/-- Nothing but the levels of memory differs, the hub's registers, monitors and marks, and what the flight has deferred. -/
structure MemoryOnly (s t : State) : Prop where
  rest : t = { s with mem := t.mem, memBad := t.memBad, l2 := t.l2, views := t.views, cores := t.cores, waves := t.waves,
                      tex := t.tex, posted := t.posted, freeCount := t.freeCount, hub := t.hub, flight := t.flight }
  waves : SameWaves s t
  cores : SameCores s t

/-- The words that a lane loads: bytes in little-endian order, cut to the type and extended by its signedness (R265). -/
def LoadedAs (t : Ty) (bs : List PByte) (lo hi : Word) : Prop :=
  if t.wide then hi ++ lo = BitVec.ofNat 64 (natOf bs)
  else if t.signed then lo = (BitVec.ofNat t.width (natOf bs)).signExtend 32 else lo = (BitVec.ofNat t.width (natOf bs)).zeroExtend 32
/-- The register writes of a vector load (R265). -/
def loadWrites (t : Ty) (d : BitVec 7) (m : Mask) (lo hi : Line) (bad : Mask) : List RegWrite :=
  if t.wide then [.v d m lo bad, .v (d + 1) m hi bad] else [.v d m lo bad]
/-- The low bytes of a register value, least significant first, as a store writes them (R3, R265). -/
def lowBytes (n : Nat) (x : Dword) : List PByte := (List.range n).map fun j => clean (x.extractLsb' (8 * j) 8)
/-- The register value of a lane that a vector store takes its bytes from: v[D+1] above v[D] (R265). -/
def Ctx.stored (c : Ctx) (d : Nat) (k : Fin 32) : Dword := (c.w.r.vec (d + 1)).get k ++ (c.w.r.vec d).get k

/-- Every access performs at a physical address of device memory in a write-back page, its translation at hand: the place
that the check of the issuing group has found, or that its check finds now (R266). -/
def Passes (s : State) (c : Ctx) (k : Acc) (as : List MemAcc) (pa : Fin 32 → Nat) : Prop :=
  ∀ a, a ∈ as → s.placeAcc c (.mem k) (s.priv c.w) a = (s, .ok (pa a.lane) 0) ∧ s.range (pa a.lane) = .mem
/-- L1 of the core holds every line of every access, and no store of the core waits in its write buffer. -/
def InL1 (s : State) (c : Ctx) (as : List MemAcc) (pa : Fin 32 → Nat) : Prop :=
  (s.core c.core).wc = [] ∧ ∀ a, a ∈ as → ∀ l, l ∈ linesOf (pa a.lane) a.size → ((s.core c.core).l1Find l).isSome = true
/-- The bytes that the core reads from an address on. -/
def State.coreBytes (s : State) (g a n : Nat) : List PByte := (List.range n).map fun j => s.l1Byte g (a + j)
/-- A byte reads as before at the LLC and in every die. -/
def SameByte (s t : State) (x : Nat) : Prop := t.llcByte x = s.llcByte x ∧ ∀ d, t.dieByte d x = s.dieByte d x
/-- No window's view holds a byte, and its channel is in service (R229, R517). -/
def State.plainByte (s : State) (x : Nat) : Prop := s.viewAt x = none ∧ s.channelDead x = false
/-- The write buffer of a core holds the line of a byte. -/
def State.buffers (s : State) (g x : Nat) : Prop := ∃ l, l ∈ (s.core g).wc ∧ l.line = x / 128
/-- What a byte reads as once a core's write buffer and its die's L2 have sent their line to the LLC (R269): the byte that the
core has stored last, else one that the die has written, else the LLC's. -/
def State.settled (s : State) (g x : Nat) : PByte :=
  let die : PByte := match s.l2Find (dieOf g) (x / 128) with
    | some l => if l.owed.getLsbD (x % 128) then { v := lineByte l.data (x % 128), bad := l.bad.getLsbD (x % 128) } else s.llcByte x
    | none => s.llcByte x
  match (s.core g).wc.find? fun l => l.line == x / 128 with
  | some l => if l.mask.getLsbD (x % 128) then { v := lineByte l.data (x % 128), bad := l.bad.getLsbD (x % 128) } else die
  | none => die
/-- A byte has reached the LLC from a core: the LLC and the core's die read it, another die what it read before or the same. -/
def Settled (s t : State) (g x : Nat) : Prop :=
  t.llcByte x = s.settled g x ∧ t.dieByte (dieOf g) x = s.settled g x ∧
  ∀ d, t.dieByte d x = s.dieByte d x ∨ t.dieByte d x = s.settled g x

/-- What loads of a core leave (R220, R229, R251, R269, R399): they store nothing, so every byte reads as before, but that a line of
which the write buffer holds stores, or which is read uncached, first reaches the LLC. The L1s read as before, but for a
copy that a load has passed by. A view line stays as it was decoded. -/
structure LoadsOnly (s t : State) (c : Ctx) (as : List MemAcc) (mark : Bool) : Prop where
  cached : s.memOk = true → (s.core c.core).wc = [] → (∀ a, a ∈ as → ∃ p, c.place? a = some p ∧ (p.zero = true ∨ p.mt = 0)) → ∀ x : Nat,
    SameByte s t x ∧ ∀ k, mark = false ∨ k ≠ c.core → t.l1Byte k x = s.l1Byte k x
  placed : s.memOk = true → (∀ a, a ∈ as → (c.place? a).isSome = true) → ∀ x : Nat, s.viewAt x = none →
    let reads (uncached : Bool) : Prop := ∃ a p, a ∈ as ∧ c.place? a = some p ∧ p.zero = false ∧ s.range p.pa = .mem ∧
      x / 128 ∈ linesOf p.pa a.size ∧ (uncached = true → p.mt ≠ 0)
    let settles : Prop := reads true ∨ (reads false ∧ s.buffers c.core x)
    (¬settles → SameByte s t x ∧
      ∀ k, (k ≠ c.core ∨ mark = false ∨ ¬reads false ∨ (s.core c.core).l1Find (x / 128) = none) → t.l1Byte k x = s.l1Byte k x) ∧
    (settles → s.channelDead x = false → Settled s t c.core x ∧ t.l1Byte c.core x = s.settled c.core x)
  line : ∀ k, c.fl.owner = .line k → ∀ x : Nat, SameByte s t x ∧ ∀ g, t.l1Byte g x = s.l1Byte g x

/-- What a byte reads as after a release of a core (R246, R258, R269): what its write buffer held is at the LLC, and with a scope of
the package or wider what its die had written; every other byte is as before. -/
def Released (s t : State) (g : Nat) (pkg : Bool) (x : Nat) : Prop :=
  s.memOk = true → s.plainByte x →
  (s.buffers g x → Settled s t g x) ∧
  (¬s.buffers g x → t.dieByte (dieOf g) x = s.dieByte (dieOf g) x ∧ t.llcByte x = (if pkg = true then s.settled g x else s.llcByte x) ∧
    (pkg = false ∨ (∀ l, s.l2Find (dieOf g) (x / 128) = some l → l.dirty = 0) → SameByte s t x))

/-- A sample's reads leave the bytes of the LLC as they are while nothing waits to reach it, and a die reads a byte as before or as
the LLC gives it (R269, R371, R373). -/
def ReadsOnly (s t : State) (g : Nat) : Prop :=
  s.calm g → t.calm g ∧ ∀ x : Nat, t.llcByte x = s.llcByte x ∧ ∀ d, t.dieByte d x = s.dieByte d x ∨ t.dieByte d x = s.llcByte x
/-- The samples of an instruction from a state to another: reads, and surveys of the resource's ring (R371, R375). -/
inductive SampleRun (k : Sampled) (r : TexRes) : State → State → Prop
  | done (s : State) : SampleRun k r s s
  | read (s t u : State) : ReadsOnly s t k.core → SampleRun k r t u → SampleRun k r s u
  | survey (s u : State) (l : Nat) (tile : Nat × Nat) (code : Nat) : SampleRun k r (s.survey k r l tile code) u → SampleRun k r s u
/-- The f32 word of a byte as a fraction of 255 (R369). -/
def unormWord (b : PByte) : Word := rne32 (some (mkRat b.v.toNat 255))
/-- A channel of a texel and its poison, by format (R364, R369, R377). -/
def ChannelIs (fmt : Nat) (bs : List PByte) (n : Nat) (x : Word) (bad : Bool) : Prop :=
  let b (i : Nat) : PByte := bs.getD i (clean 0)
  match fmt with
  | 0 => x = unormWord (b n) ∧ bad = (b n).bad
  | 1 =>
    let e := (b (2 * n)).v.toNat + 256 * (b (2 * n + 1)).v.toNat
    (fmF16.read false e = .nan → x = 0x7FC00000) ∧ (fmF16.read false e ≠ .nan → fmF32.read false x.toNat = fmF16.read false e) ∧
      bad = ((b (2 * n)).bad || (b (2 * n + 1)).bad)
  | 2 =>
    if n = 0 then x.toNat = natOf (bs.take 4) ∧ bad = anyBad (bs.take 4)
    else x = (if n = 3 then 0x3F800000 else 0) ∧ bad = false
  | _ => if n = 0 then x = unormWord (b 0) ∧ bad = (b 0).bad else x = (if n = 3 then 0x3F800000 else 0) ∧ bad = false

/-- What a push or a join relies on: nothing waits to reach the LLC, and the die reads what the LLC holds. -/
def State.agrees (s : State) (g : Nat) : Prop := s.calm g ∧ ∀ x : Nat, s.dieByte (dieOf g) x = s.llcByte x
/-- Eight bytes lie in one line of plain device memory and hold a number without poison. -/
def State.word8 (s : State) (pa n : Nat) : Prop :=
  pa % 128 + 8 ≤ 128 ∧ (∀ i, i < 128 → s.plainByte (128 * (pa / 128) + i)) ∧ s.llcBytes pa 8 = cleanBytes 8 n
/-- The bytes of a word lie at an address. -/
abbrev inWord (pa x : Nat) : Prop := pa ≤ x ∧ x < pa + 8
/-- After words have been written at the LLC, in order: their lines have left every L2, each byte reads as the last word that covers it
gives it, and every other byte as before. -/
def WordsWritten (s t : State) (ws : List (Nat × Nat)) : Prop :=
  ∀ x : Nat, s.viewAt x = none →
    ((∀ w, w ∈ ws → ¬inWord w.1 x) → t.llcByte x = s.llcByte x) ∧
    (∀ pre w post, ws = pre ++ w :: post → inWord w.1 x → (∀ v, v ∈ post → ¬inWord v.1 x) →
      t.llcByte x = clean (BitVec.ofNat 8 (w.2 / 256 ^ (x - w.1)))) ∧
    (∀ d, (∃ w, w ∈ ws ∧ w.1 / 128 = x / 128) → t.dieByte d x = t.llcByte x) ∧
    (∀ d, (∀ w, w ∈ ws → w.1 / 128 ≠ x / 128) → t.dieByte d x = s.dieByte d x)
/-- Stores of a core to write-back pages, one after the other. -/
def State.storeSeq (s : State) (g : Nat) (cls : BitVec 4) (ws : List (Nat × List PByte)) : State :=
  ws.foldl (fun (s : State) e => s.storePa g 0 cls e.1 e.2) s

/-- The new value of an integer atomic from the old value, the operand and the comparison value (R277). -/
def AtomicValue (t : Ty) (aop : Nat) (o b k n : BitVec t.width) : Prop :=
  let least := if t.signed then o.sle b else o.ule b
  match aop with
  | 0 => n = o + b
  | 1 => n = if least then o else b
  | 2 => n = if least then b else o
  | 3 => n = o &&& b
  | 4 => n = o ||| b
  | 5 => n = o ^^^ b
  | 6 => n = b
  | 7 => n = if o = k then b else o
  | 8 => n = if b.toNat ≤ o.toNat then 0 else o + 1
  | 9 => n = if o = 0 ∨ b.toNat < o.toNat then b else o - 1
  | _ => False

/-! What statements about the display and texture operations say. -/

/-- A result of the vector additions of profile D (R408): the canonical NaN when an operand that it depends on is NaN or infinite,
or where `f` gives no real; else the real that `f` gives of the operands, rounded to nearest even. -/
def RealResult (ops : List (Option Rat)) (f : List Rat → Option Rat) (r : Word) : Prop :=
  (∀ vs : List Rat, ops = vs.map some → r = rne32 (f vs)) ∧ (none ∈ ops → r = 0x7FC00000)
/-- An operation leaves writes of a run of registers from d on, in lanes m, with no poison. -/
def WritesRun (i : Instr) (s : State) (c : Ctx) (lat : Nat) (d : BitVec 7) (xs : List Line) : Prop :=
  exec i s = .next (s.leaves c.fl lat (xs.zipIdx.map fun e => .v (d + BitVec.ofNat 7 e.2) c.run e.1 0))

end Sys2Proof.Machine
end

