-- ==== Sys2Proof/Certificates/Slice0/Obligations.lean ====
section
/-! DEFINITION. The statements about the model: what each instruction and step does, what it leaves alone, what the machine
keeps, and that decoding is right. -/
open Sys2Proof Sys2Proof.Machine

/-! The S slot (03_scalar_and_control_instructions.md). -/

/-- The two-operand arithmetic and logic of R73, every TYPE, both formats: the one effect is the deferred write of the
result, cut to the width and extended by signedness. -/
def Obligations.ScalarArithmetic : Prop :=
  ∀ (s : State) (h : Head) (o : SFmt) (fl : Flight) (w : Wave), Running s h fl w →
    let n := o.type.width
    let a := bitsVal o.type.signed ((o.left w.r).setWidth n)
    let b := bitsVal o.type.signed ((o.right w.r).setWidth n)
    let x := (o.left w.r).setWidth n
    let y := (o.right w.r).setWidth n
    let gives (r : Int) : Host.Outcome State Fault Refusal := .next (s.leaves fl 1 [.s o.dest (extOf o.type r) 0])
    exec (.add h o) s = gives (a + b) ∧ exec (.sub h o) s = gives (a - b) ∧ exec (.mul h o) s = gives (a * b) ∧
    exec (.mulh h o) s = gives (a * b / 2 ^ n) ∧
    exec (.min h o) s = gives (if a ≤ b then a else b) ∧ exec (.max h o) s = gives (if a ≥ b then a else b) ∧
    exec (.and h o) s = gives ((x &&& y).toNat) ∧ exec (.or h o) s = gives ((x ||| y).toNat) ∧
    exec (.xor h o) s = gives ((x ^^^ y).toNat) ∧ exec (.andn h o) s = gives ((x &&& ~~~y).toNat)

/-- div and mod (R74): every operand pair has a result, and with a signed TYPE the quotient of a zero divisor reads as −1. -/
def Obligations.ScalarDivision : Prop :=
  ∀ (s : State) (h : Head) (o : SFmt) (fl : Flight) (w : Wave), Running s h fl w →
    let n := o.type.width
    let a := bitsVal o.type.signed ((o.left w.r).setWidth n)
    let b := bitsVal o.type.signed ((o.right w.r).setWidth n)
    let wraps : Prop := o.type.signed = true ∧ a = -2 ^ (n - 1) ∧ b = -1
    ∃ q m : Int,
      exec (.div h o) s = .next (s.leaves fl 1 [.s o.dest (extOf o.type q) 0]) ∧
      exec (.mod h o) s = .next (s.leaves fl 1 [.s o.dest (extOf o.type m) 0]) ∧
      (b = 0 → q = 2 ^ n - 1 ∧ m = a ∧ (o.type.signed = true → extOf o.type q = -1)) ∧
      (b ≠ 0 → wraps → q = a ∧ m = 0) ∧
      (b ≠ 0 → ¬wraps → a = b * q + m ∧ m.natAbs < b.natAbs ∧ 0 ≤ a * m ∧ 0 ≤ a * b * q)

/-- The shifts and the rotation (R75): the count is the whole second operand, and a count of the width or more leaves
nothing, or copies of the top bit. -/
def Obligations.ScalarShifts : Prop :=
  ∀ (s : State) (h : Head) (o : SFmt) (fl : Flight) (w : Wave), Running s h fl w →
    let n := o.type.width
    let x := (o.left w.r).setWidth n
    let c := (o.right w.r).toNat
    let gives (r : BitVec n) : Host.Outcome State Fault Refusal := .next (s.leaves fl 1 [.s o.dest (extOf o.type r.toNat) 0])
    exec (.shl h o) s = gives (x <<< c) ∧ exec (.shr h o) s = gives (x >>> c) ∧
    exec (.sar h o) s = gives (x.sshiftRight c) ∧ exec (.rol h o) s = gives (x.rotateLeft c)

/-- Bit fields and bit counts (R76, R77), the fields within the legal limit: each bit of the result stands where the rule
says. -/
def Obligations.ScalarBitFields : Prop :=
  ∀ (s : State) (h : Head) (o : SrFmt) (fl : Flight) (w : Wave), Running s h fl w →
    let n := o.ty.width
    let x := (w.r.sc o.a.toNat).setWidth n
    let p := o.pos.toNat
    let l := o.len.toNat + 1
    let gives (r : Int) : Host.Outcome State Fault Refusal := .next (s.leaves fl 1 [.s o.d (extOf o.ty r) 0])
    (p + l ≤ n → exec (.bfx h o) s = gives (bitsVal o.ty.signed ((w.r.sc o.a.toNat).extractLsb' p l))) ∧
    (p + l ≤ n → ∃ t : BitVec n, exec (.bfi h o) s = gives (bitsVal o.ty.signed t) ∧
      ∀ i, i < n → t.getLsbD i = if p ≤ i ∧ i < p + l then (w.r.sc o.a.toNat).getLsbD (i - p) else (w.r.sc o.b.toNat).getLsbD i) ∧
    exec (.popc h o) s = gives ((List.range n).countP fun i => x.getLsbD i) ∧
    (∃ k, k ≤ n ∧ exec (.clz h o) s = gives k ∧ (k < n → x.getLsbD (n - 1 - k) = true) ∧
      ∀ i, n - k ≤ i → x.getLsbD i = false) ∧
    (∃ k, k ≤ n ∧ exec (.ctz h o) s = gives k ∧ (k < n → x.getLsbD k = true) ∧ ∀ i, i < k → x.getLsbD i = false) ∧
    ∃ t : BitVec n, exec (.brev h o) s = gives (bitsVal o.ty.signed t) ∧
      ∀ i, i < n → t.getLsbD (n - 1 - i) = x.getLsbD i

/-- Comparisons, selection and moves (R78 to R82). -/
def Obligations.ScalarSelection : Prop :=
  ∀ (s : State) (h : Head) (o : SFmt) (q : SrFmt) (l : SlFmt) (fl : Flight) (w : Wave), Running s h fl w →
    let m := runMask w.r fl h
    let n := o.type.width
    let x := (o.left w.r).setWidth n
    let y := (o.right w.r).setWidth n
    let d : BitVec 5 := o.dest.setWidth 5
    WritesPred (.cmp h o) s fl m 1 d (fun _ => Holds o.code (bitsVal o.type.signed x) (bitsVal o.type.signed y)) ∧
    (o.code ≤ 1 → WritesPred (.test h o) s fl m 1 d (fun _ => if o.code = 0 then x &&& y = 0 else x &&& y ≠ 0)) ∧
    (∀ on : Prop, (on ↔ ∃ k : Fin 32, m.has k = true ∧ w.r.pred (q.pos.toNat % 32) k = true) →
      (on → exec (.sel h q) s = .next (s.leaves fl 1 [.s q.d (extOf q.ty (w.r.sc q.a.toNat).toInt) 0])) ∧
      (¬on → exec (.sel h q) s = .next (s.leaves fl 1 [.s q.d (extOf q.ty (w.r.sc q.b.toNat).toInt) 0]))) ∧
    exec (.mov h o) s = .next (s.leaves fl 1
      [.s o.dest (extOf o.type (match o with | .r f => (w.r.sc f.a.toNat).toInt | .i f => f.imm.toInt)) 0]) ∧
    exec (.movw h l) s = .next (s.leaves fl 1 [.s l.d (BitVec.ofNat 64 l.imm.toNat) 0]) ∧
    ∃ v : Dword, exec (.movwHi h l) s = .next (s.leaves fl 1 [.s l.d v 0]) ∧
      v.extractLsb' 32 32 = l.imm ∧ v.extractLsb' 0 32 = (w.r.sc l.d.toNat).extractLsb' 0 32

/-- getid, setmode and rdfl (R83, R85 to R87). The identifiers are those of a placed wave; a line core answers selectors 2, 3
and 16 and zero elsewhere. On a line core rdfl sees and clears at once the flags whose latencies have elapsed, those of its own
group too (the model's reading: log entry 114); that each of two setmodes of a group starts from the mode before it is log entry 99. -/
def Obligations.ScalarIdentity : Prop :=
  ∀ (s : State) (h : Head) (o : SiFmt) (f : SFmt) (q : SrFmt) (fl : Flight) (w : Wave), Running s h fl w →
    (∃ x : Dword, exec (.getid h o) s = .next (s.leaves fl 1 [.s o.d x 0]) ∧
      (∀ u g r, fl.owner = .wave u → s.group? w.group = some g → s.grid? g.grid = some r →
        (∃ die cl k, cl < 12 ∧ k < 8 ∧ die * 96 + cl * 8 + k = g.core ∧
          (o.imm = 0 → x = BitVec.ofNat 64 die) ∧ (o.imm = 1 → x = BitVec.ofNat 64 cl) ∧ (o.imm = 2 → x = BitVec.ofNat 64 k)) ∧
        (o.imm = 3 → x = BitVec.ofNat 64 g.core) ∧ (o.imm = 4 → x = BitVec.ofNat 64 w.index) ∧
        (o.imm = 8 → x = BitVec.ofNat 64 r.nx) ∧ (o.imm = 9 → x = BitVec.ofNat 64 r.ny) ∧ (o.imm = 10 → x = BitVec.ofNat 64 r.nz) ∧
        (o.imm = 11 → x = BitVec.ofNat 64 r.kd.waves) ∧ (o.imm = 12 → x = BitVec.ofNat 64 r.slot) ∧ (o.imm = 13 → x = r.region) ∧
        (o.imm = 14 → x = r.launch) ∧ (o.imm = 15 → x = BitVec.ofNat 64 g.sbanks.length) ∧ (o.imm = 16 → x = r.kd.entry) ∧
        (0 < r.nx → 0 < r.ny → ∃ gx gy gz, gx < r.nx ∧ gy < r.ny ∧ g.lin = gx + r.nx * (gy + r.ny * gz) ∧
          (o.imm = 5 → x = BitVec.ofNat 64 gx) ∧ (o.imm = 6 → x = BitVec.ofNat 64 gy) ∧ (o.imm = 7 → x = BitVec.ofNat 64 gz))) ∧
      (∀ k, fl.owner = .line k →
        (o.imm = 2 ∨ o.imm = 3 → x = BitVec.ofNat 64 k) ∧
        (∀ r, (s.line k).run = some r → o.imm = 16 → x = r.entry) ∧
        (o.imm ≠ 2 → o.imm ≠ 3 → o.imm ≠ 16 → x = 0))) ∧
    (∃ new : BitVec 5,
      exec (.setmode h f) s = .next (({ s with flight := some { fl with mode := some new } } : State).leaves
        { fl with mode := some new } 1 [.s f.dest (w.r.mode.zeroExtend 64) 0]) ∧
      let v : BitVec 5 := match f with | .r r => (w.r.sc r.a.toNat).extractLsb' 0 5 | .i r => r.imm.extractLsb' 0 5
      let k : BitVec 5 := match f with | .r r => (w.r.sc r.b.toNat).extractLsb' 0 5 | .i r => r.imm.extractLsb' 8 5
      let both := (w.r.mode &&& ~~~k) ||| (v &&& k)
      new.extractLsb' 3 2 = both.extractLsb' 3 2 ∧
      new.extractLsb' 0 3 = (if (both.extractLsb' 0 3).toNat > 4 then w.r.mode.extractLsb' 0 3 else both.extractLsb' 0 3)) ∧
    (∀ u, fl.owner = .wave u → exec (.rdfl h q) s =
      .next (({ s with flight := some { fl with cleared := fl.cleared ||| q.pos.extractLsb' 0 5 } } : State).leaves
        { fl with cleared := fl.cleared ||| q.pos.extractLsb' 0 5 } 1 [.s q.d (w.r.flags.zeroExtend 64) 0])) ∧
    ∀ k, fl.owner = .line k → ∃ (t : State) (v : Wave) (f : BitVec 5),
      (∀ i, f.getLsbD i = true ↔ w.r.flags.getLsbD i = true ∨
        ∃ x g, x ∈ fl.writes ∧ x.w = RegWrite.flags g ∧ x.lat ≤ fl.cur.1 ∧ g.getLsbD i = true) ∧
      exec (.rdfl h q) s = .next (t.leaves { fl with writes := fl.writes.filter fun x => !(x.w.isFlags && decide (x.lat ≤ fl.cur.1)) }
        1 [.s q.d (f.zeroExtend 64) 0]) ∧
      (t.line k).wave = some v ∧ v.r.flags = f &&& ~~~(q.pos.extractLsb' 0 5) ∧
      t = { s with flight := t.flight, disp := { s.disp with lines := t.disp.lines } } ∧ ∀ j, j ≠ k → t.line j = s.line j

/-- Branch targets (R29, R54, R88, R89): a target is a bundle address with a depth, and its write starts a fill. -/
def Obligations.BranchTargets : Prop :=
  ∀ (s : State) (h : Head) (o : SbFmt) (q : SxFmt) (fl : Flight) (w : Wave), Running s h fl w →
    let fills (bt : BitVec 3) (x : Dword) : Host.Outcome State Fault Refusal :=
      .next (({ s with flight := some { fl with fills := fl.fills ++ [(bt, x)] } } : State).leaves
        { fl with fills := fl.fills ++ [(bt, x)] } 1 [.b bt x])
    (∃ x : Dword, exec (.pbr h o) s = fills o.bt x ∧
      x.extractLsb' 6 58 = (fl.pc + BitVec.ofNat 64 (64 * fl.cur.1) + BitVec.ofInt 64 (64 * o.off.toInt)).extractLsb' 6 58 ∧
      x.extractLsb' 0 6 = 3) ∧
    (∃ x : Dword, exec (.pbrx h q) s = fills q.bt x ∧ x.extractLsb' 6 58 = (w.r.sc q.a.toNat).extractLsb' 6 58 ∧
      x.extractLsb' 2 4 = 0 ∧ x.extractLsb' 0 2 = (w.r.sc q.a.toNat).extractLsb' 0 2) ∧
    exec (.mfb h q) s = .next (s.leaves fl 1 [.s q.a (w.r.bt q.bt.toNat) 0])

/-- loop, call, ret and exit (R90 to R95) in a wave: the control effect belongs to the threads in which the operation runs,
and call writes its return address once. -/
def Obligations.ControlOperations : Prop :=
  ∀ (s : State) (h : Head) (l : SlpFmt) (o : SxFmt) (fl : Flight) (w : Wave) (u : Nat), Running s h fl w → fl.owner = .wave u →
    let m := runMask w.r fl h
    let last := fl.pc + BitVec.ofNat 64 (64 * (fl.bundles.length - 1))
    let ctl (c : Ctl) : State := { s with flight := some { fl with ctl := c } }
    (∃ stop : Dword, ∃ n : Word,
      exec (.loop h l) s = .next (ctl (.loop m (last + 64) stop n)) ∧
      stop = last + 64 + BitVec.ofNat 64 (64 * l.off.toNat) ∧
      (l.i = true → n.toNat = l.cnt.toNat) ∧ (l.i = false → n = (w.r.sc l.a.toNat).extractLsb' 0 32)) ∧
    (∃ a : Dword, a.extractLsb' 6 58 = (w.r.bt o.bt.toNat).extractLsb' 6 58 ∧ a.extractLsb' 0 6 = 0 ∧
      exec (.call h o) s = .next ((ctl (.call m a o.bt)).leaves { fl with ctl := .call m a o.bt } 1 [.s o.a (last + 64) 0]) ∧
      exec (.ret h o) s = .next (ctl (.call m a o.bt))) ∧
    exec (.exit h) s = .next (ctl (.exit m (fl.pc + BitVec.ofNat 64 (64 * fl.cur.1))))

/-- On a line core thread 0 decides a control operation for every thread (R383): where it runs there, loop, call, ret and exit
belong to all threads, with the bounds, the count and the target of R91 to R95; where it does not, they have no effect. -/
def Obligations.LineControlOperations : Prop :=
  ∀ (s : State) (h : Head) (l : SlpFmt) (o : SxFmt) (fl : Flight) (w : Wave) (k : Nat), Running s h fl w → fl.owner = .line k →
    let last := fl.pc + BitVec.ofNat 64 (64 * (fl.bundles.length - 1))
    let ctl (c : Ctl) : State := { s with flight := some { fl with ctl := c } }
    (fl.lanes ≠ 0 → runMask w.r fl h &&& 1 = 1 →
      (∃ stop : Dword, ∃ n : Word, exec (.loop h l) s = .next (ctl (.loop fl.lanes (last + 64) stop n)) ∧
        stop = last + 64 + BitVec.ofNat 64 (64 * l.off.toNat) ∧
        (l.i = true → n.toNat = l.cnt.toNat) ∧ (l.i = false → n = (w.r.sc l.a.toNat).extractLsb' 0 32)) ∧
      (∃ t : Dword, t.extractLsb' 6 58 = (w.r.bt o.bt.toNat).extractLsb' 6 58 ∧ t.extractLsb' 0 6 = 0 ∧
        exec (.ret h o) s = .next (ctl (.call fl.lanes t o.bt)) ∧
        exec (.call h o) s = .next ((ctl (.call fl.lanes t o.bt)).leaves { fl with ctl := .call fl.lanes t o.bt } 1 [.s o.a (last + 64) 0])) ∧
      exec (.exit h) s = .next (ctl (.exit fl.lanes (fl.pc + BitVec.ofNat 64 (64 * fl.cur.1))))) ∧
    (runMask w.r fl h &&& 1 = 0 →
      exec (.loop h l) s = .next s ∧ exec (.ret h o) s = .next s ∧ exec (.call h o) s = .next s ∧ exec (.exit h) s = .next s)

/-- nop and the hint space read and write nothing, whatever their fields hold (R47, R57). -/
def Obligations.NoOperations : Prop :=
  ∀ (s : State) (h : Head) (k : BitVec 4) (x : BitVec 39) (fl : Flight) (w : Wave), Running s h fl w →
    exec (.nop h) s = .next s ∧ exec (.hint h k x) s = .next s

/-- An operation whose guard is false, or whose tag does not match, in every thread has no effect (R25, R27): every slot
operation, on a compute core and on a line core. -/
def Obligations.GuardFalseNoEffect : Prop :=
  ∀ (i : Instr) (h : Head) (s : State) (fl : Flight) (w : Wave), i.head? = some h → s.flight = some fl →
    (s.owner fl.owner).map (s.reader fl) = some w → runMask w.r fl h = 0 → exec i s = .next s

/-- The threads in which an operation runs (R18, R25, R27): those of the group whose outcome its tag names and in which its
guard holds, p0 never holding as a predicate and GP = 0 standing for no guard. The outcome of a thread is the first test of the
last bundle's tree that holds in the predicates from before the group, or 0; on a line core thread 0 decides it for all (R22, R26,
R43, R383). What the operation reads (R44, R49, R156): the vector registers that the low seven bits of its source fields
name, or, with BSEL, in every lane the half of the scalar that its bundle's header broadcasts. -/
def Obligations.RunsWhere : Prop :=
  (∀ (r : Regs) (fl : Flight) (h : Head) (k : Fin 32), h.wf = true →
    ((runMask r fl h).has k = true ↔
      fl.lanes.has k = true ∧
      (∀ n, h.tag.outcome = some n → (fl.outcomes.getD n 0).has k = true) ∧
      (h.gp ≠ 0 → (r.pred h.gp.toNat k = true ↔ h.neg = false)))) ∧
  (∀ (u : Owner) (r : Regs) (pc : Dword) (bs : List FBundle) (b : FBundle) (m : Mask) (n : Nat) (k : Fin 32),
    bs.getLast? = some b → n ≤ 4 → bits b.bits 5 3 ≤ 4 →
    let field (j : Nat) : BitVec 9 := b.bits.extractLsb' (9 * j - 3) 9
    let holds (j : Nat) : Prop :=
      1 ≤ j ∧ j ≤ bits b.bits 5 3 ∧ (r.pred ((field j).extractLsb' 0 5).toNat (if u.prof = .d then 0 else k) = true ↔ (field j).getLsbD 5 = false)
    (((newFlight u r pc bs m []).outcomes.getD n 0).has k = true ↔
      m.has k = true ∧ (∀ j, j ≤ 4 → 0 < n → j < n → ¬holds j) ∧ (0 < n → holds n) ∧ (n = 0 → ∀ j, j ≤ 4 → ¬holds j))) ∧
  ∀ (s : State) (h : Head) (o : VFmt) (fl : Flight) (w : Wave) (c : Ctx) (b : FBundle) (j : Nat) (k : Fin 32), Running s h fl w →
    slotCtx s h = some c → fl.bundles[fl.cur.1]? = some b →
    let reg (x : BitVec 8) : Line := w.r.vec ((x.extractLsb' 0 7).toNat + j)
    (c.va o j).get k = (reg o.a).get k ∧ (c.vc o j).get k = (reg o.c).get k ∧
    (o.bsel = false → (c.vb o j).get k = (reg o.b).get k) ∧
    (o.bsel = true → (c.vb o j).get k =
      (w.r.sc (b.bits.extractLsb' 43 6).toNat).extractLsb' (if b.bits.getLsbD 49 then 32 else 0) 32)

/-! The V slots (06_vector_and_wave_instructions.md). -/

/-- Integer arithmetic, element by element (R157, R158, R161): results wrap, the saturating forms stop at the range of the
type, and only running lanes are written (R155). -/
def Obligations.VectorIntegerArithmetic : Prop :=
  ∀ (s : State) (h : Head) (o : VFmt) (fl : Flight) (w : Wave) (c : Ctx), Running s h fl w → slotCtx s h = some c →
    o.ty.isInt = true →
    let m := runMask w.r fl h
    let n := o.ty.width
    let sg := o.ty.signed
    let a (k : Fin 32) (j : Nat) : BitVec n := elt ((c.va o).get k) n j
    let b (k : Fin 32) (j : Nat) : BitVec n := elt ((c.vb o).get k) n j
    let d (k : Fin 32) (j : Nat) : BitVec n := elt ((c.vc o).get k) n j
    let lo : Int := if sg then -2 ^ (n - 1) else 0
    let hi : Int := if sg then 2 ^ (n - 1) - 1 else 2 ^ n - 1
    let writes (i : Instr) (lat : Nat) (f : Fin 32 → Nat → BitVec n) : Prop :=
      WritesLanes i s fl m lat o.d fun k x => ∀ j, j < 32 / n → elt x n j = f k j
    writes (.vadd h o) 2 (fun k j => a k j + b k j) ∧ writes (.vsub h o) 2 (fun k j => a k j - b k j) ∧
    writes (.vmul h o) 4 (fun k j => a k j * b k j) ∧ writes (.vfma h o) 4 (fun k j => a k j * b k j + d k j) ∧
    writes (.vmulh h o) 4 (fun k j => BitVec.ofInt n (bitsVal sg (a k j) * bitsVal sg (b k j) / 2 ^ n)) ∧
    writes (.vmin h o) 2 (fun k j => if bitsVal sg (a k j) ≤ bitsVal sg (b k j) then a k j else b k j) ∧
    writes (.vmax h o) 2 (fun k j => if bitsVal sg (a k j) ≥ bitsVal sg (b k j) then a k j else b k j) ∧
    (sg = true → writes (.vabs h o) 2 (fun k j => if (a k j).toInt < 0 then -(a k j) else a k j)) ∧
    (sg = true → writes (.vneg h o) 2 (fun k j => -(a k j))) ∧
    writes (.vadds h o) 2 (fun k j => BitVec.ofInt n (min (max (bitsVal sg (a k j) + bitsVal sg (b k j)) lo) hi)) ∧
    writes (.vsubs h o) 2 (fun k j => BitVec.ofInt n (min (max (bitsVal sg (a k j) - bitsVal sg (b k j)) lo) hi))

/-- Bitwise operations, shifts, counts and moves (R75, R166, R168). -/
def Obligations.VectorBitwise : Prop :=
  ∀ (s : State) (h : Head) (o : VFmt) (fl : Flight) (w : Wave) (c : Ctx), Running s h fl w → slotCtx s h = some c →
    let m := runMask w.r fl h
    let n := o.ty.width
    let A (k : Fin 32) : Word := (c.va o).get k
    let B (k : Fin 32) : Word := (c.vb o).get k
    let a (k : Fin 32) (j : Nat) : BitVec n := elt (A k) n j
    let b (k : Fin 32) (j : Nat) : BitVec n := elt (B k) n j
    let word (i : Instr) (f : Fin 32 → Word) : Prop := WritesLanes i s fl m 2 o.d fun k x => x = f k
    let elts (i : Instr) (f : Fin 32 → Nat → BitVec n) : Prop :=
      WritesLanes i s fl m 2 o.d fun k x => ∀ j, j < 32 / n → elt x n j = f k j
    word (.vand h o) (fun k => A k &&& B k) ∧ word (.vor h o) (fun k => A k ||| B k) ∧
    word (.vxor h o) (fun k => A k ^^^ B k) ∧ word (.vandn h o) (fun k => A k &&& ~~~(B k)) ∧
    word (.vnot h o) (fun k => ~~~(A k)) ∧ word (.vmov h o) B ∧
    word (.vsel h o) (fun k => if w.r.pred (o.c.toNat % 128) k = true then A k else B k) ∧
    elts (.vshl h o) (fun k j => a k j <<< (b k j).toNat) ∧ elts (.vshr h o) (fun k j => a k j >>> (b k j).toNat) ∧
    elts (.vsar h o) (fun k j => (a k j).sshiftRight (b k j).toNat) ∧
    elts (.vrol h o) (fun k j => (a k j).rotateLeft (b k j).toNat) ∧
    elts (.vpopc h o) (fun k j => BitVec.ofNat n ((List.range n).countP fun i => (a k j).getLsbD i)) ∧
    (WritesLanes (.vclz h o) s fl m 2 o.d fun k x => ∀ j, j < 32 / n → (elt x n j).toNat ≤ n ∧
      ((elt x n j).toNat < n → (a k j).getLsbD (n - 1 - (elt x n j).toNat) = true) ∧
      ∀ i, n - (elt x n j).toNat ≤ i → (a k j).getLsbD i = false) ∧
    WritesLanes (.vbrev h o) s fl m 2 o.d fun k x => ∀ j, j < 32 / n → ∀ i, i < n →
      (elt x n j).getLsbD (n - 1 - i) = (a k j).getLsbD i

/-- Per-lane bit fields (R167): the field ends at bit 31 at most, and an empty one writes 0 or the old word. -/
def Obligations.VectorBitFields : Prop :=
  ∀ (s : State) (h : Head) (o : VFmt) (fl : Flight) (w : Wave) (c : Ctx), Running s h fl w → slotCtx s h = some c →
    let m := runMask w.r fl h
    let a (k : Fin 32) : Word := (c.va o).get k
    let p (k : Fin 32) : Nat := ((c.vb o).get k).toNat % 32
    let l (k : Fin 32) : Nat := min (((c.vc o).get k).toNat % 64) (32 - p k)
    (WritesLanes (.vbfx h o) s fl m 2 o.d fun k x =>
      (l k = 0 → x = 0) ∧ (0 < l k → o.ty.signed = true → x = ((a k).extractLsb' (p k) (l k)).signExtend 32) ∧
      (0 < l k → o.ty.signed = false → x = ((a k).extractLsb' (p k) (l k)).zeroExtend 32)) ∧
    WritesLanes (.vbfi h o) s fl m 2 o.d fun k x => ∀ i, i < 32 →
      x.getLsbD i = if p k ≤ i ∧ i < p k + l k then (a k).getLsbD (i - p k) else ((w.r.vec o.d.toNat).get k).getLsbD i

/-- Comparisons, classes and predicate logic (R169, R171, R185): only running lanes, and p0 never. -/
def Obligations.VectorPredicates : Prop :=
  ∀ (s : State) (h : Head) (o : VFmt) (fl : Flight) (w : Wave) (c : Ctx), Running s h fl w → slotCtx s h = some c →
    let m := runMask w.r fl h
    let d : BitVec 5 := o.d.setWidth 5
    let A (k : Fin 32) : Word := (c.va o).get k
    let B (k : Fin 32) : Word := (c.vb o).get k
    let p (k : Fin 32) : Prop := w.r.pred (o.a.toNat % 128) k = true
    let q (k : Fin 32) : Prop := w.r.pred (o.b.toNat % 128) k = true
    (o.ty = .i32 → WritesPred (.vcmp h o) s fl m 2 d fun k => Holds o.md.toNat (A k).toInt (B k).toInt) ∧
    (o.ty = .n32 → WritesPred (.vcmp h o) s fl m 2 d fun k => Holds o.md.toNat (A k).toNat (B k).toNat) ∧
    (WritesPred (.vtest h o) s fl m 2 d fun k => if o.md = 0 then A k &&& B k = 0 else A k &&& B k ≠ 0) ∧
    (WritesPred (.vclass h o) s fl m 2 d fun k =>
      let e := (A k).extractLsb' 23 8
      let f := (A k).extractLsb' 0 23
      let neg := (A k).getLsbD 31
      ((o.c.getLsbD 0 = true ∧ e = 0xFF ∧ f ≠ 0) ∨ (o.c.getLsbD 1 = true ∧ e = 0xFF ∧ f = 0 ∧ neg = true) ∨
       (o.c.getLsbD 2 = true ∧ e ≠ 0xFF ∧ e ≠ 0 ∧ neg = true) ∨ (o.c.getLsbD 3 = true ∧ e = 0 ∧ f ≠ 0 ∧ neg = true) ∨
       (o.c.getLsbD 4 = true ∧ e = 0 ∧ f = 0) ∨ (o.c.getLsbD 5 = true ∧ e = 0 ∧ f ≠ 0 ∧ neg = false) ∨
       (o.c.getLsbD 6 = true ∧ e ≠ 0xFF ∧ e ≠ 0 ∧ neg = false) ∨ (o.c.getLsbD 7 = true ∧ e = 0xFF ∧ f = 0 ∧ neg = false))) ∧
    (WritesPred (.pand h o) s fl m 2 d fun k => p k ∧ q k) ∧ (WritesPred (.por h o) s fl m 2 d fun k => p k ∨ q k) ∧
    (WritesPred (.pxor h o) s fl m 2 d fun k => ¬(p k ↔ q k)) ∧ (WritesPred (.pandn h o) s fl m 2 d fun k => p k ∧ ¬q k) ∧
    (WritesPred (.pnot h o) s fl m 2 d fun k => ¬p k) ∧ (WritesPred (.pmov h o) s fl m 2 d p) ∧
    WritesPred (.pset h o) s fl m 2 d fun _ => o.c.getLsbD 0 = true

/-- An f32 comparison (R170): with a NaN only ne and uno hold; numbers and infinities of either sign follow the order of their
values, the two zeros being equal. -/
def Obligations.FloatCompare : Prop :=
  ∀ (s : State) (h : Head) (o : VFmt) (fl : Flight) (w : Wave) (c : Ctx), Running s h fl w → slotCtx s h = some c →
    o.ty = .f32 →
    let fz := w.r.mode.getLsbD 3
    let a (k : Fin 32) : FVal := fmF32.read fz ((c.va o).get k).toNat
    let b (k : Fin 32) : FVal := fmF32.read fz ((c.vb o).get k).toNat
    ∃ P : Fin 32 → Prop, WritesPred (.vcmp h o) s fl (runMask w.r fl h) 2 (o.d.setWidth 5) P ∧ ∀ k,
      let lt := FVal.less (a k) (b k)
      let gt := FVal.less (b k) (a k)
      (a k = .nan ∨ b k = .nan → (P k ↔ o.md = 1 ∨ o.md = 7)) ∧
      (a k ≠ .nan → b k ≠ .nan →
        (o.md = 0 → (P k ↔ ¬lt ∧ ¬gt)) ∧ (o.md = 1 → (P k ↔ lt ∨ gt)) ∧ (o.md = 2 → (P k ↔ lt)) ∧ (o.md = 3 → (P k ↔ ¬gt)) ∧
        (o.md = 4 → (P k ↔ gt)) ∧ (o.md = 5 → (P k ↔ ¬lt)) ∧ (o.md = 6 → P k) ∧ (o.md = 7 → ¬P k))

/-- Widening products, sums of differences, integer dot products, byte selection and carry-less products (R172 to R174,
R178, R180). -/
def Obligations.VectorWidening : Prop :=
  ∀ (s : State) (h : Head) (o : VFmt) (fl : Flight) (w : Wave) (c : Ctx), Running s h fl w → slotCtx s h = some c →
    let m := runMask w.r fl h
    let n := o.ty.width
    let sg := o.ty.signed
    let a (k : Fin 32) (j : Nat) : Int := bitsVal sg (elt ((c.va o).get k) n j)
    let b (k : Fin 32) (j : Nat) : Int := bitsVal sg (elt ((c.vb o).get k) n j)
    let sum (f : Nat → Int) : Int := ((List.range (32 / n)).map f).sum
    let pair (i : Instr) (add : Fin 32 → Nat → Int) : Prop := ∃ x y : Line,
      exec i s = .next (s.leaves fl 5 [.v o.d m x 0, .v (o.d + 1) m y 0]) ∧ ∀ k, m.has k = true → ∀ j, j < 32 / n →
        (y.get k ++ x.get k).extractLsb' (2 * n * j) (2 * n) = BitVec.ofInt (2 * n) (a k j * b k j + add k j)
    let q (k : Fin 32) : Dword := (c.vb o).get k ++ (c.va o).get k
    (o.ty.isInt = true → WritesLanes (.vsad h o) s fl m 5 o.d fun k x =>
      x = BitVec.ofInt 32 (((c.vc o).get k).toNat + sum fun j => ((a k j - b k j).natAbs : Int))) ∧
    (o.ty.isInt = true → pair (.vmulw h o) fun _ _ => 0) ∧
    (o.ty.isInt = true → pair (.vmadw h o) fun k j =>
      bitsVal sg (((c.vc o 1).get k ++ (c.vc o).get k).extractLsb' (2 * n * j) (2 * n))) ∧
    (o.ty.isInt = true → ∀ i ∈ [Instr.vdp4 h o, Instr.vdp2 h o], WritesLanes i s fl m 5 o.d fun k x =>
      x = BitVec.ofInt 32 (bitsVal sg ((c.vc o).get k) + sum fun j => a k j * b k j)) ∧
    (WritesLanes (.vbyte h o) s fl m 4 o.d fun k x => ∀ j, j < 4 →
      let sel : Byte := elt ((c.vc o).get k) 8 j
      elt x 8 j = if sel.getLsbD 7 then 0 else (q k).extractLsb' (8 * (sel.toNat % 8)) 8) ∧
    ∃ P : Fin 32 → Dword,
      (∀ k i, i < 64 → (P k).getLsbD i =
        decide (((List.range 32).countP fun t => ((c.vb o).get k).getLsbD t && decide (t ≤ i) && ((c.va o).get k).getLsbD (i - t)) % 2 = 1)) ∧
      (WritesLanes (.vclmul h o) s fl m 4 o.d fun k x => x = (P k).extractLsb' 0 32) ∧
      WritesLanes (.vclmulh h o) s fl m 4 o.d fun k x => x = (P k).extractLsb' 32 32

/-- Exchanges between lanes (R186, R188): a lane is read whether it runs or not, masks name running lanes only. -/
def Obligations.LaneExchange : Prop :=
  ∀ (s : State) (h : Head) (o : VFmt) (fl : Flight) (w : Wave) (c : Ctx), Running s h fl w → slotCtx s h = some c →
    let m := runMask w.r fl h
    let A (k : Nat) : Word := (c.va o).get (Fin.ofNat 32 k)
    let p (k : Fin 32) : Prop := w.r.pred (o.a.toNat % 128) k = true
    (WritesLanes (.vperm h o) s fl m 4 o.d fun k x => x = A (((c.vb o).get k).toNat % 32)) ∧
    (WritesLanes (.vrot h o) s fl m 4 o.d fun k x => x = A ((k.val + o.c.toNat) % 32)) ∧
    (o.c.toNat < 32 → WritesLanes (.vshuf h o) s fl m 4 o.d fun k x => x = A (k.val ^^^ o.c.toNat)) ∧
    (WritesLanes (.vbcast h o) s fl m 4 o.d fun _ x => x = A (o.c.toNat % 32)) ∧
    (WritesLanes (.vmatch h o) s fl m 4 o.d fun k x => ∀ j : Fin 32,
      x.getLsbD j.val = true ↔ m.has j = true ∧ (c.va o).get j = (c.va o).get k) ∧
    (WritesLanes (.vballot h o) s fl m 4 o.d fun _ x => ∀ j : Fin 32, x.getLsbD j.val = true ↔ m.has j = true ∧ p j) ∧
    exec (.vlane h o) s = .next (s.leaves fl 4 [.s (o.d.setWidth 6) (BitVec.ofNat 64 (A (o.c.toNat % 32)).toNat) 0]) ∧
    (∃ j : Nat, exec (.vfirst h o) s = .next (s.leaves fl 4 [.s (o.d.setWidth 6) (BitVec.ofNat 64 j) 0]) ∧
      (∀ i : Fin 32, m.has i = true → p i → j ≤ i.val) ∧
      (j = 32 ∨ ∃ i : Fin 32, i.val = j ∧ m.has i = true ∧ p i)) ∧
    ∃ sel : List (Fin 32), sel = m.list.filter (fun k => w.r.pred (o.b.toNat % 128) k) ∧
      (sel = [] → exec (.vcompact h o) s = .next s) ∧
      (sel ≠ [] → ∃ d : Mask, WritesLanes (.vcompact h o) s fl d 4 o.d
          (fun k x => ∃ t : Nat, m.list[t]? = some k ∧ ∃ j, sel[t]? = some j ∧ x = (c.va o).get j) ∧
        d.list = m.list.take sel.length)

/-- Integer scans and reductions (R187): over the running lanes only, an exclusive scan starting at the identity. -/
def Obligations.ScanReduce : Prop :=
  ∀ (s : State) (h : Head) (o : VFmt) (fl : Flight) (w : Wave) (c : Ctx), Running s h fl w → slotCtx s h = some c →
    o.ty = .i32 ∨ o.ty = .n32 →
    let m := runMask w.r fl h
    let sg := o.ty.signed
    let op := o.c.toNat % 8
    let A (k : Fin 32) : Word := (c.va o).get k
    let two (x y : Word) : Word :=
      if op = 0 then x + y
      else if op = 1 then (if bitsVal sg x ≤ bitsVal sg y then x else y)
      else if op = 2 then (if bitsVal sg x ≥ bitsVal sg y then x else y)
      else if op = 3 then x &&& y else if op = 4 then x ||| y else x ^^^ y
    let unit : Word :=
      if op = 1 then (if sg then 0x7FFFFFFF else 0xFFFFFFFF)
      else if op = 2 then (if sg then 0x80000000 else 0) else if op = 3 then 0xFFFFFFFF else 0
    let all (f : Fin 32 → Bool) : Word := ((m.list.filter f).map A).foldr two unit
    op ≤ 5 →
    (WritesLanes (.vred h o) s fl m 4 o.d fun _ x => x = all fun _ => true) ∧
    (o.c.getLsbD 3 = false → WritesLanes (.vscan h o) s fl m 4 o.d fun k x => x = all fun j => decide (j ≤ k)) ∧
    (o.c.getLsbD 3 = true → WritesLanes (.vscan h o) s fl m 4 o.d fun k x => x = all fun j => decide (j < k))

/-! Floating-point results (05_number_formats.md and the float rules of 06_vector_and_wave_instructions.md). -/

/-- What an encoding stands for (R133, R134): sign, exponent and fraction fields of the five formats give zero, a subnormal,
a normal number, an infinity or a NaN; with its flush bit a subnormal reads as a zero of its sign (R147). -/
def Obligations.FormatValues : Prop :=
  ∀ f ∈ [fmF32, fmF16, fmBf16, fmE4m3, fmE5m2], ∀ (neg fz : Bool) (e m : Nat), e < 2 ^ f.ew → m < 2 ^ f.fw →
    let b := (if neg then 2 ^ (f.ew + f.fw) else 0) + e * 2 ^ f.fw + m
    let top := e = 2 ^ f.ew - 1
    (top → f ≠ fmE4m3 → f.read fz b = if m = 0 then .inf neg else .nan) ∧
    (top → f = fmE4m3 → m = 7 → f.read fz b = .nan) ∧
    (¬top ∨ (f = fmE4m3 ∧ m ≠ 7) → ∃ x : Rat, f.read fz b = .num neg x ∧
      (e = 0 → fz = true → x = 0) ∧
      (e = 0 → fz = false → (if neg then -x else x) * (2 ^ (f.bias + f.fw - 1) : Nat) = (m : Nat)) ∧
      (e ≠ 0 → (if neg then -x else x) * (2 ^ (f.bias + f.fw) : Nat) = ((2 ^ f.fw + m) * 2 ^ e : Nat)))

/-- RoundTo toward zero, down and up (R140), for a real between the largest finite values: the result is a number on the
named side of the real, and no number of the format lies between them; NX tells whether it differs. Under the stochastic mode the
result is the neighbour away from zero where the word drawn lies below 2^32 times the real's distance from the neighbour toward
zero, in parts of the distance between the two, and that neighbour elsewhere. -/
def Obligations.RoundDirected : Prop :=
  ∀ f ∈ [fmF32, fmF16, fmBf16, fmE4m3, fmE5m2], ∀ (x : Rat) (r : Word) (big : Rat), x ≠ 0 →
    f.read false f.top = .num false big → x ≤ big → -big ≤ x →
    (∀ md ∈ [Rm.rtz, .rdn, .rup], ∃ neg y, f.read false (f.round md false r x).1 = .num neg y ∧
      (md = .rdn → y ≤ x ∧ ∀ b n v, f.read false b = .num n v → v ≤ x → v ≤ y) ∧
      (md = .rup → x ≤ y ∧ ∀ b n v, f.read false b = .num n v → x ≤ v → y ≤ v) ∧
      (md = .rtz → (0 < x → 0 ≤ y ∧ y ≤ x ∧ ∀ b n v, f.read false b = .num n v → v ≤ x → v ≤ y) ∧
        (x < 0 → y ≤ 0 ∧ x ≤ y ∧ ∀ b n v, f.read false b = .num n v → x ≤ v → y ≤ v)) ∧
      ((f.round md false r x).2.getLsbD 4 = true ↔ y ≠ x)) ∧
    let near := (f.round .rtz false 0 x).1
    let far := (f.round (if x < 0 then .rdn else .rup) false 0 x).1
    ∀ p q u v, f.read false near = .num p u → f.read false far = .num q v →
      (f.round .rst false r x).1 = if u ≠ v ∧ (r.toNat : Int) < ((x - u) / (v - u) * 4294967296).floor then far else near

/-- RoundNearestEven (R140): no number of the format lies nearer to the real than the result, and in a tie the result's
last fraction bit is 0. -/
def Obligations.RoundNearest : Prop :=
  ∀ f ∈ [fmF32, fmF16, fmBf16, fmE4m3, fmE5m2], ∀ (x : Rat) (r : Word) (big : Rat), x ≠ 0 →
    f.read false f.top = .num false big → x ≤ big → -big ≤ x →
    let e := (f.round .rne false r x).1
    ∃ neg y, f.read false e = .num neg y ∧ ∀ b n v, f.read false b = .num n v →
      (y - x) * (y - x) ≤ (v - x) * (v - x) ∧ ((y - x) * (y - x) = (v - x) * (v - x) → v ≠ y → e % 2 = 0)

/-- A representable number is its own rounding in every mode, without a flag (R140). -/
def Obligations.RoundExact : Prop :=
  ∀ f ∈ [fmF32, fmF16, fmBf16, fmE4m3, fmE5m2], ∀ (md : Rm) (r : Word) (b : Nat) (neg : Bool) (x : Rat), b < 2 ^ f.width →
    f.read false b = .num neg x → x ≠ 0 → f.round md false r x = (b, 0)

/-- Overflow (R141): a magnitude that rounds above the largest finite value raises OF and NX, and mode, sign and format give
the result; shown for the modes whose choice needs no draw and for reals of twice the largest value or more. -/
def Obligations.RoundOverflow : Prop :=
  ∀ f ∈ [fmF32, fmF16, fmBf16, fmE4m3, fmE5m2], ∀ (x : Rat) (r : Word) (big : Rat),
    f.read false f.top = .num false big → 2 * big ≤ x →
    let inf := if f = fmE4m3 then f.top else f.infBits
    f.round .rne false r x = (inf, fOF ||| fNX) ∧ f.round .rup false r x = (inf, fOF ||| fNX) ∧
    f.round .rtz false r x = (f.top, fOF ||| fNX) ∧ f.round .rdn false r x = (f.top, fOF ||| fNX) ∧
    f.round .rne false r (-x) = (f.signBit true + inf, fOF ||| fNX) ∧
    f.round .rdn false r (-x) = (f.signBit true + inf, fOF ||| fNX) ∧
    f.round .rup false r (-x) = (f.signBit true + f.top, fOF ||| fNX) ∧
    f.round .rtz false r (-x) = (f.signBit true + f.top, fOF ||| fNX)

/-- Float arithmetic on vectors (R142, R152, R158, R161, R164, R165), every operand and every mode, the stochastic one with the
word that its draw gives (R140, R143, R144): each element is the exact result of its operands rounded once, a NaN, an
infinity, or a zero of its sign, as the rules say, and the flags are the OR of what the elements of the running lanes raise (R148,
R159). -/
def Obligations.VectorFloatArithmetic : Prop :=
  ∀ (s : State) (h : Head) (o : VFmt) (fl : Flight) (w : Wave) (c : Ctx) (f : Fm), Running s h fl w → slotCtx s h = some c →
    fmOf o.ty = some f → o.ty.vFloat = true →
    let md := modeOf w.r.mode o.md
    let fz := fzOf w.r.mode o.ty
    let m := runMask w.r fl h
    let n := o.ty.width
    let e := 32 / n
    let a (k : Fin 32) (j : Nat) : FVal := f.read fz (elt ((c.va o).get k) n j).toNat
    let b (k : Fin 32) (j : Nat) : FVal := f.read fz (elt ((c.vb o).get k) n j).toNat
    let d (k : Fin 32) (j : Nat) : FVal := f.read fz (elt ((c.vc o).get k) n j).toNat
    let gives (i : Instr) (lat : Nat) (g : Fin 32 → Nat → Word → Nat × BitVec 5) : Prop :=
      let r (k : Fin 32) (j : Nat) : Nat × BitVec 5 := g k j (drawnAt md fl.stoch m e k j)
      ∃ fg, Raised m e fg (fun k j => (r k j).2) ∧
        WritesRounded i s fl m lat o.d (drawnAll md fl.stoch m e) fg fun k x => ∀ j, j < e → (elt x n j).toNat = (r k j).1
    gives (.vadd h o) 4 (fun k j r => f.settle md fz r (exactSum md (a k j) (b k j))) ∧
    gives (.vsub h o) 4 (fun k j r => f.settle md fz r (exactSum md (a k j)
      (match b k j with | .nan => .nan | .inf p => .inf (!p) | .num p x => .num (!p) (-x)))) ∧
    gives (.vmul h o) 4 (fun k j r => f.settle md fz r (exactProduct (a k j) (b k j))) ∧
    gives (.vfma h o) 4 (fun k j r => f.settle md fz r (exactFused md (a k j) (b k j) (d k j))) ∧
    gives (.vdiv h o) 12 (fun k j r => f.settle md fz r (exactQuotient (a k j) (b k j))) ∧
    gives (.vldexp h o) 4 (fun k j r => f.settle md fz r (exactScaled (elt ((c.vb o).get k) n j).toInt (a k j))) ∧
    gives (.vrint h o) 4 (fun k j r => f.rintOf md fz r (a k j)) ∧
    gives (.vfract h o) 4 (fun k j r => f.fractOf md fz r (a k j))

/-- vmin and vmax give the other operand where one is NaN, the canonical NaN where both are, and else the lesser or greater of two
values, infinities among them and −0 below +0 (R162); vabs and vneg change the sign bit alone (R163). None of them draws or
raises a flag. -/
def Obligations.VectorFloatSelection : Prop :=
  ∀ (s : State) (h : Head) (o : VFmt) (fl : Flight) (w : Wave) (c : Ctx) (f : Fm), Running s h fl w → slotCtx s h = some c →
    fmOf o.ty = some f → o.ty.vFloat = true →
    let fz := fzOf w.r.mode o.ty
    let m := runMask w.r fl h
    let n := o.ty.width
    let a (k : Fin 32) (j : Nat) : FVal := f.read fz (elt ((c.va o).get k) n j).toNat
    let b (k : Fin 32) (j : Nat) : FVal := f.read fz (elt ((c.vb o).get k) n j).toNat
    let picks (i : Instr) (le : FVal → FVal → Prop) : Prop :=
      WritesRounded i s fl m 4 o.d fl.stoch 0 fun k x => ∀ j, j < 32 / n →
        let r := f.read false (elt x n j).toNat
        (a k j = .nan → b k j = .nan → (elt x n j).toNat = f.nan) ∧ (a k j = .nan → b k j ≠ .nan → r = b k j) ∧
        (a k j ≠ .nan → b k j = .nan → r = a k j) ∧
        (a k j ≠ .nan → b k j ≠ .nan → (r = a k j ∨ r = b k j) ∧ le r (a k j) ∧ le r (b k j))
    picks (.vmin h o) (fun x y => x.atMost y) ∧ picks (.vmax h o) (fun x y => y.atMost x) ∧
    (WritesLanes (.vabs h o) s fl m 2 o.d fun k x => ∀ j, j < 32 / n → ∀ i, i < n →
      (elt x n j).getLsbD i = ((elt ((c.va o).get k) n j).getLsbD i && decide (i ≠ n - 1))) ∧
    WritesLanes (.vneg h o) s fl m 2 o.d fun k x => ∀ j, j < 32 / n → ∀ i, i < n →
      (elt x n j).getLsbD i = ((elt ((c.va o).get k) n j).getLsbD i != decide (i = n - 1))

/-- Under the stochastic mode every element of a running lane draws once for its one rounding, whatever its operands (R140,
R144). -/
def Obligations.StochasticDraws : Prop :=
  ∀ (s : State) (h : Head) (o : VFmt) (fl : Flight) (w : Wave) (f : Fm), Running s h fl w →
    fmOf o.ty = some f → o.ty.isInt = false → modeOf w.r.mode o.md = .rst →
    ∀ i ∈ [Instr.vadd h o, .vsub h o, .vmul h o, .vfma h o, .vdiv h o, .vldexp h o, .vrint h o, .vfract h o, .vrcp h o, .vrsq h o,
        .vsqrt h o, .vexp2 h o, .vlog2 h o, .vsin h o, .vcos h o, .vtanh h o],
      ∃ lat fg, WritesRounded i s fl (runMask w.r fl h) lat o.d
        (Stoch.after ((runMask w.r fl h).list.length * (32 / o.ty.width)) fl.stoch) fg fun _ _ => True

/-- The draws of the operations with one or two roundings a lane (R144, R174 to R176, R187): a conversion to or from a float
draws once a lane, a packing twice, a dot product once, an f32 sum scan once a lane but for its exclusive first one, an f32
sum reduction once for all lanes. That a conversion draws whatever its operand is the model's reading: log entry 84. -/
def Obligations.StochasticDrawsPerLane : Prop :=
  ∀ (s : State) (h : Head) (o : VFmt) (fl : Flight) (w : Wave), Running s h fl w → modeOf w.r.mode o.md = .rst →
    let m := runMask w.r fl h
    let k := m.list.length
    let draws (i : Instr) (lat n : Nat) : Prop :=
      ∃ fg, WritesRounded i s fl m lat o.d (Stoch.after n fl.stoch) fg fun _ _ => True
    (∀ src, Ty.ofCode (o.c.extractLsb' 0 4) = some src → ¬(src.isInt = true ∧ o.ty.isInt = true) → draws (.vcvt h o) 4 k) ∧
    (o.ty.isInt = false → draws (.vpack h o) 4 (2 * k) ∧ draws (.vdp4 h o) 5 k ∧ draws (.vdp2 h o) 5 k) ∧
    (o.ty = .f32 → o.c.toNat % 8 = 0 → draws (.vred h o) 4 1 ∧ (o.c.getLsbD 3 = false → draws (.vscan h o) 4 k) ∧
      (o.c.getLsbD 3 = true → draws (.vscan h o) 4 (k - 1)))

/-- The functions of slot V1 (R179), in every mode but the stochastic one: special values by the table, the reciprocal rounded
once, a rational square root, an integral power and half-turns exact, and a square root not above the real
one toward zero and down. -/
def Obligations.VectorFunctions : Prop :=
  ∀ (s : State) (h : Head) (o : VFmt) (fl : Flight) (w : Wave) (c : Ctx) (f : Fm), Running s h fl w → slotCtx s h = some c →
    (o.ty = .f32 ∨ o.ty = .f16) → fmOf o.ty = some f →
    let md := modeOf w.r.mode o.md
    let fz := fzOf w.r.mode o.ty
    let n := o.ty.width
    let a (k : Fin 32) (j : Nat) : FVal := f.read fz (elt ((c.va o).get k) n j).toNat
    let gives (i : Instr) (P : FVal → Nat → Prop) : Prop :=
      ∃ fg, WritesRounded i s fl (runMask w.r fl h) 12 o.d fl.stoch fg fun k x => ∀ j, j < 32 / n →
        (a k j = .nan → (elt x n j).toNat = f.nan) ∧ P (a k j) (elt x n j).toNat
    let rnd (x : Rat) : Nat := (f.round md fz 0 x).1
    md ≠ .rst →
    (gives (.vrcp h o) fun a x => (∀ p, a = .inf p → x = f.signBit p) ∧
      (∀ p u, a = .num p u → (u = 0 → x = f.signBit p + f.infBits) ∧ (u ≠ 0 → x = rnd (1 / u)))) ∧
    (gives (.vrsq h o) fun a x => (a = .inf false → x = 0) ∧ (a = .inf true → x = f.nan) ∧
      (∀ p u, a = .num p u → (u = 0 → x = f.signBit p + f.infBits) ∧ (u < 0 → x = f.nan) ∧
        (∀ r : Rat, 0 < r → r * r * u = 1 → x = rnd r))) ∧
    (gives (.vsqrt h o) fun a x => (a = .inf false → x = f.infBits) ∧ (a = .inf true → x = f.nan) ∧
      (∀ p u, a = .num p u → (u = 0 → x = f.signBit p) ∧ (u < 0 → x = f.nan) ∧ (∀ r : Rat, 0 < r → r * r = u → x = rnd r) ∧
        (0 < u → md = .rdn ∨ md = .rtz → ∀ q v, f.read false x = .num q v → v * v ≤ u))) ∧
    (gives (.vexp2 h o) fun a x => (a = .inf false → x = f.infBits) ∧ (a = .inf true → x = 0) ∧
      (∀ p (k : Int), a = .num p (k : Rat) → -300 ≤ k → k ≤ 300 → x = rnd (pow2 k))) ∧
    (gives (.vlog2 h o) fun a x => (a = .inf false → x = f.infBits) ∧ (a = .inf true → x = f.nan) ∧
      (∀ p u, a = .num p u → (u = 0 → x = f.signBit true + f.infBits) ∧ (u < 0 → x = f.nan) ∧ (u = 1 → x = 0) ∧
        (∀ k : Int, k ≠ 0 → u = pow2 k → x = rnd (k : Rat)))) ∧
    (gives (.vsin h o) fun a x => (∀ p, a = .inf p → x = f.nan) ∧
      (∀ p u, a = .num p u → (u = u.floor → x = f.signBit p) ∧
        ((u - mkRat 1 2) / 2 = ((u - mkRat 1 2) / 2).floor → x = rnd 1))) ∧
    (gives (.vcos h o) fun a x => (∀ p, a = .inf p → x = f.nan) ∧
      (∀ p u, a = .num p u → (u + mkRat 1 2 = (u + mkRat 1 2).floor → x = 0) ∧ (u / 2 = (u / 2).floor → x = rnd 1))) ∧
    gives (.vtanh h o) fun a x => (∀ p, a = .inf p → x = rnd (if p then -1 else 1)) ∧ (∀ p u, a = .num p u → u = 0 → x = f.signBit p)

/-- Conversions (R149, R150, R175 to R177), in every mode: vcvt replaces one element of the destination, vpack two or all, vunpk
widens one. Integers wrap or saturate; a number rounds once, under the stochastic mode with its draw's word; to an integer a NaN gives
0, and an infinity or a number out of range the end of the range, each with NV; infinities stay so, but for e4m3, which has none; a
NaN gives the canonical NaN; the flags are the OR of what each conversion of a running lane raises. -/
def Obligations.VectorConversions : Prop :=
  ∀ (s : State) (h : Head) (o : VFmt) (fl : Flight) (w : Wave) (c : Ctx), Running s h fl w → slotCtx s h = some c →
    let md := modeOf w.r.mode o.md
    let m := runMask w.r fl h
    let n := o.ty.width
    let A (k : Fin 32) : Word := (c.va o).get k
    let B (k : Fin 32) : Word := (c.vb o).get k
    let old (k : Fin 32) : Word := (w.r.vec o.d.toNat).get k
    (∀ src, o.cvtOk = true → Ty.ofCode (o.c.extractLsb' 0 4) = some src →
      let whole := src.isInt = true ∧ o.ty.isInt = true
      ∃ (fg : BitVec 5) (F : Fin 32 → BitVec 5), Raised m 1 fg (fun k _ => F k) ∧
      WritesRounded (.vcvt h o) s fl m 4 o.d (if whole then fl.stoch else drawnAll md fl.stoch m 1) fg fun k x =>
        let e := elt (A k) src.width (bits o.c 5 4)
        let r := elt x n (bits o.c 7 6)
        let u := drawnAt md fl.stoch m 1 k 0
        (∀ j, j < 32 / n → j ≠ bits o.c 7 6 → elt x n j = elt (old k) n j) ∧
        (whole → r = BitVec.ofInt n (bitsVal src.signed e) ∧ F k = 0) ∧
        (∀ g, src.isInt = true → fmOf o.ty = some g →
          (r.toNat, F k) = g.settle md (fzOf w.r.mode o.ty) u (.real false (bitsVal src.signed e : Int))) ∧
        (∀ f, fmOf src = some f → o.ty.isInt = true →
          let z := intOf n o.ty.signed md u (f.read (fzOf w.r.mode src) e.toNat)
          r = BitVec.ofInt n z.1 ∧ F k = z.2) ∧
        (∀ f g, fmOf src = some f → fmOf o.ty = some g →
          (r.toNat, F k) = g.converted md (fzOf w.r.mode o.ty) u (f.read (fzOf w.r.mode src) e.toNat))) ∧
    (o.packOk = true → ∃ (fg : BitVec 5) (F : Fin 32 → Nat → BitVec 5), Raised m 2 fg F ∧
      WritesRounded (.vpack h o) s fl m 4 o.d (if o.ty.isInt then fl.stoch else drawnAll md fl.stoch m 2) fg fun k x =>
        let conv (j : Nat) (y : Word) (r : BitVec n) : Prop :=
          (o.ty.isInt = true → F k j = 0 ∧ r = BitVec.ofInt n (min (max y.toInt (if o.ty.signed then -2 ^ (n - 1) else 0))
            (if o.ty.signed then 2 ^ (n - 1) - 1 else 2 ^ n - 1))) ∧
          (∀ g, fmOf o.ty = some g → (r.toNat, F k j) =
            g.converted md (fzOf w.r.mode o.ty) (drawnAt md fl.stoch m 2 k j) (fmF32.read (fzOf w.r.mode .f32) y.toNat))
        (n = 16 → conv 0 (A k) (elt x n 0) ∧ conv 1 (B k) (elt x n 1)) ∧
        (n = 8 → let i := o.c.toNat % 2
          conv 0 (A k) (elt x n (2 * i)) ∧ conv 1 (B k) (elt x n (2 * i + 1)) ∧
          ∀ j, j < 4 → j ≠ 2 * i → j ≠ 2 * i + 1 → elt x n j = elt (old k) n j)) ∧
    (o.unpkOk = true → WritesLanes (.vunpk h o) s fl m 4 o.d fun k x =>
      let e := elt (A k) n o.c.toNat
      (o.ty.isInt = true → x = BitVec.ofInt 32 (bitsVal o.ty.signed e)) ∧
      (∀ f, fmOf o.ty = some f →
        let v := f.read (fzOf w.r.mode o.ty) e.toNat
        (v = .nan → x = 0x7FC00000) ∧ (v ≠ .nan → fmF32.read false x.toNat = v)))

/-- RoundInt (R150): toward minus infinity, plus infinity, zero, or the nearest integer with ties to even. -/
def Obligations.RoundIntModes : Prop :=
  ∀ (x : Rat) (r : Word), roundInt x .rdn r = x.floor ∧ roundInt x .rup r = -(-x).floor ∧
    (0 ≤ x → roundInt x .rtz r = x.floor) ∧ (x ≤ 0 → roundInt x .rtz r = -(-x).floor) ∧
    ∃ d : Rat, d = 2 * (x - (roundInt x .rne r : Int)) ∧ -1 ≤ d ∧ d ≤ 1 ∧ (d = 1 ∨ d = -1 → roundInt x .rne r % 2 = 0)

/-- The float dot products (R153, R174): the exact sum of the products and the accumulator, rounded once to f32. -/
def Obligations.VectorFloatDot : Prop :=
  ∀ (s : State) (h : Head) (o : VFmt) (fl : Flight) (w : Wave) (c : Ctx) (f : Fm), Running s h fl w → slotCtx s h = some c →
    fmOf o.ty = some f → o.ty.isInt = false →
    let md := modeOf w.r.mode o.md
    let fz32 := w.r.mode.getLsbD 3
    let n := o.ty.width
    let val (x : Word) (j : Nat) : FVal := f.read (fzOf w.r.mode o.ty) (elt x n j).toNat
    md ≠ .rst →
    ∀ i ∈ [Instr.vdp4 h o, .vdp2 h o], ∃ fg, WritesRounded i s fl (runMask w.r fl h) 5 o.d fl.stoch fg fun k x =>
      ∀ (a b : Nat → Rat) (t : Rat), (∀ j, j < 32 / n → ∃ p q, val ((c.va o).get k) j = .num p (a j) ∧ val ((c.vb o).get k) j = .num q (b j)) →
        (∃ p, fmF32.read fz32 ((c.vc o).get k).toNat = .num p t) →
        let sum := ((List.range (32 / n)).map fun j => a j * b j).foldr (· + ·) t
        sum ≠ 0 → x.toNat = (fmF32.round md fz32 0 sum).1

/-- The f32 scans and reductions (R162, R187) of running lanes that all hold numbers: a sum is exact and rounded once, a minimum
or maximum is one of the operands and bounds them all. -/
def Obligations.FloatScanReduce : Prop :=
  ∀ (s : State) (h : Head) (o : VFmt) (fl : Flight) (w : Wave) (c : Ctx) (v : Fin 32 → Rat), Running s h fl w →
    slotCtx s h = some c → o.ty = .f32 → (o.c.toNat % 8 = 0 → modeOf w.r.mode o.md ≠ .rst) →
    let md := modeOf w.r.mode o.md
    let fz := w.r.mode.getLsbD 3
    let m := runMask w.r fl h
    let op := o.c.toNat % 8
    (∀ k, m.has k = true → ∃ p, fmF32.read fz ((c.va o).get k).toNat = .num p (v k)) →
    let is (f : Fin 32 → Bool) (x : Word) : Prop :=
      let ks := m.list.filter f
      (op = 0 → (ks.map v).foldr (· + ·) 0 ≠ 0 → x.toNat = (fmF32.round md fz 0 ((ks.map v).foldr (· + ·) 0)).1) ∧
      (op = 1 → ks ≠ [] → ∃ p y, fmF32.read false x.toNat = .num p y ∧ (∃ k ∈ ks, y = v k) ∧ ∀ k ∈ ks, y ≤ v k) ∧
      (op = 2 → ks ≠ [] → ∃ p y, fmF32.read false x.toNat = .num p y ∧ (∃ k ∈ ks, y = v k) ∧ ∀ k ∈ ks, v k ≤ y)
    let writes (i : Instr) (f : Fin 32 → Fin 32 → Bool) : Prop :=
      ∃ fg, WritesRounded i s fl m 4 o.d fl.stoch fg fun k x => is (f k) x
    writes (.vred h o) (fun _ _ => true) ∧
    (o.c.getLsbD 3 = false → writes (.vscan h o) fun k j => decide (j ≤ k)) ∧
    (o.c.getLsbD 3 = true → writes (.vscan h o) fun k j => decide (j < k))

/-- The ray tests (R181 to R184): an invalid ray sets status bit 1 alone, an invalid primitive bit 2 alone. A valid ray
hits a box whose bounds are numbers in order exactly where some t from 0 to tmax lies in every slab; the t written is the least
such t, rounded down, and bit 3 says that the line also lies in the slabs before its origin. It hits a triangle of numbers exactly
where it is not parallel to its plane and meets it, edges included, at some t from 0 to tmax; that t and the two coordinates are
written, rounded to nearest even, and bit 3 says that it comes from the back. A miss writes infinity and zeros. No flag, no draw. -/
def Obligations.RayTests : Prop :=
  ∀ (s : State) (h : Head) (o : VFmt) (fl : Flight) (w : Wave) (c : Ctx), Running s h fl w → slotCtx s h = some c →
    let m := runMask w.r fl h
    let val (l : Line) (k : Fin 32) : FVal := fmF32.read false (l.get k).toNat
    let f32 (md : Rm) (x : Rat) : Word := if x = 0 then 0 else BitVec.ofNat 32 (fmF32.round md false 0 x).1
    let invalid (k : Fin 32) : Prop :=
      (∃ j, j < 3 ∧ ((∀ p x, val (c.va o j) k ≠ .num p x) ∨ ∀ p x, val (c.vb o j) k ≠ .num p x)) ∨
      (∀ j, j < 3 → ∃ p, val (c.vb o j) k = .num p 0) ∨ val (c.va o 3) k = .nan
    let upTo (k : Fin 32) (x : Rat) : Prop := val (c.va o 3) k = .inf false ∨ ∃ p t, val (c.va o 3) k = .num p t ∧ x ≤ t
    (∃ t u : Line, exec (.vrbox h o) s = .next (s.leaves fl 8 [.v o.d m t 0, .v (o.d + 1) m u 0]) ∧
      ∀ k, m.has k = true →
        (invalid k → t.get k = 0x7F800000 ∧ u.get k = 2) ∧
        (¬invalid k → (∃ j, j < 6 ∧ val (c.vc o j) k = .nan) → t.get k = 0x7F800000 ∧ u.get k = 4) ∧
        (¬invalid k → ∀ org dir lo hi : Nat → Rat,
          (∀ j, j < 3 → ∃ p q r z, val (c.va o j) k = .num p (org j) ∧ val (c.vb o j) k = .num q (dir j) ∧
            val (c.vc o j) k = .num r (lo j) ∧ val (c.vc o (j + 3)) k = .num z (hi j) ∧ lo j ≤ hi j) →
          let within (x : Rat) : Prop := ∀ j, j < 3 → lo j ≤ org j + x * dir j ∧ org j + x * dir j ≤ hi j
          let hit : Prop := ∃ x : Rat, 0 ≤ x ∧ upTo k x ∧ within x
          ((u.get k).getLsbD 0 = true ↔ hit) ∧ ((u.get k).getLsbD 3 = true ↔ hit ∧ ∃ x : Rat, x < 0 ∧ within x) ∧
          (∀ i, i ≠ 0 → i ≠ 3 → (u.get k).getLsbD i = false) ∧ (¬hit → t.get k = 0x7F800000) ∧
          ∀ x : Rat, 0 ≤ x → upTo k x → within x → (∀ y : Rat, 0 ≤ y → within y → x ≤ y) → t.get k = f32 .rdn x)) ∧
    ∃ t u a b : Line, exec (.vrtri h o) s =
        .next (s.leaves fl 14 [.v o.d m t 0, .v (o.d + 1) m u 0, .v (o.d + 2) m a 0, .v (o.d + 3) m b 0]) ∧
      ∀ k, m.has k = true →
        (invalid k → t.get k = 0x7F800000 ∧ u.get k = 2 ∧ a.get k = 0 ∧ b.get k = 0) ∧
        (¬invalid k → (∃ j, j < 9 ∧ ∀ p x, val (c.vc o j) k ≠ .num p x) →
          t.get k = 0x7F800000 ∧ u.get k = 4 ∧ a.get k = 0 ∧ b.get k = 0) ∧
        (¬invalid k → ∀ org dir v : Nat → Rat,
          (∀ j, j < 3 → ∃ p q, val (c.va o j) k = .num p (org j) ∧ val (c.vb o j) k = .num q (dir j)) →
          (∀ j, j < 9 → ∃ p, val (c.vc o j) k = .num p (v j)) →
          let e1 (j : Nat) : Rat := v (3 + j) - v j
          let e2 (j : Nat) : Rat := v (6 + j) - v j
          let dn : Rat := dir 0 * (e1 1 * e2 2 - e1 2 * e2 1) + dir 1 * (e1 2 * e2 0 - e1 0 * e2 2) + dir 2 * (e1 0 * e2 1 - e1 1 * e2 0)
          let meets (x y z : Rat) : Prop := dn ≠ 0 ∧ 0 ≤ y ∧ 0 ≤ z ∧ y + z ≤ 1 ∧ 0 ≤ x ∧ upTo k x ∧
            ∀ j, j < 3 → org j + x * dir j = v j + y * e1 j + z * e2 j
          (∀ x y z, meets x y z → t.get k = f32 .rne x ∧ u.get k = (if 0 < dn then 9 else 1) ∧ a.get k = f32 .rne y ∧ b.get k = f32 .rne z) ∧
          ((∀ x y z, ¬meets x y z) → t.get k = 0x7F800000 ∧ u.get k = 0 ∧ a.get k = 0 ∧ b.get k = 0))

/-! The Y slot: meetings, waits, traps and registers. -/

/-- Meeting registers, rotation, barrier and timed waits, and the clocks (R190, R192 to R198, R285): each completes with what it
leaves for the end of its group, and nothing else is different, but that a barrier's arrival first releases the core's
earlier accesses at group scope (R195). -/
def Obligations.WaveSynchronisation : Prop :=
  ∀ (s : State) (h : Head) (o : YgFmt) (fl : Flight) (w : Wave), Running s h fl w →
    let m := runMask w.r fl h
    let gives (f : Flight) : Host.Outcome State Fault Refusal := .next { s with flight := some f }
    let target : Dword := fl.pc + BitVec.ofNat 64 (64 * fl.cur.1) + BitVec.ofInt 64 (64 * (o.imm.extractLsb' 0 18).toInt)
    let old (k : Fin 32) : Dword := (w.threads.get k).meet
    exec (.meet h o) s = gives { fl with meets := fl.meets ++ [(m, lanes.map fun _ => target)] } ∧
    exec (.meetClr h o) s = gives { fl with meets := fl.meets ++ [(m, lanes.map fun _ => 0)] } ∧
    exec (.meetRest h o) s = gives { fl with meets := fl.meets ++ [(m, lanes.map fun k =>
      (w.r.vec (o.d.toNat + 1)).get k ++ (w.r.vec o.d.toNat).get k)] } ∧
    (∃ x y : Line, (∀ k, y.get k ++ x.get k = old k) ∧
      exec (.meetSave h o) s = gives { fl with
        writes := fl.writes ++ [{ lat := fl.latency 1, w := .v o.d m x 0 }, { lat := fl.latency 1, w := .v (o.d + 1) m y 0 }],
        meets := fl.meets ++ [(m, lanes.map fun _ => target)] }) ∧
    exec (.yield h o) s = gives { fl with yielded := true } ∧
    (o.imm = 0 → exec (.sleep h o) s = .next s) ∧
    (o.imm ≠ 0 → ∃ q : WaitReq, q.m = m ∧ q.kind = .sleep ∧ q.cycles = o.imm.toNat ∧
      exec (.sleep h o) s = gives { fl with waits := fl.waits ++ [q] }) ∧
    (∃ q : WaitReq, q.m = m ∧ q.kind = (if o.imm = 0 then WKind.wait else .waitLim) ∧ q.pd = o.d.setWidth 5 ∧ q.cycles = 64 * o.imm.toNat ∧
      exec (.wait h o) s = gives { fl with waits := fl.waits ++ [q] }) ∧
    (∃ (q : WaitReq) (r : State), q.m = m ∧ q.kind = .bar ∧ r = s.fenceCore (match fl.owner with | .wave _ => s.coreOf w | .line k => k) false true 1 (BitVec.allOnes 16) ∧
      exec (.bar h o) s = .next { r with flight := r.flight.map fun f => { f with waits := f.waits ++ [q] } }) ∧
    (∃ (q : WaitReq) (r : State), q.m = m ∧ q.kind = .vote ∧ q.pd = o.d.setWidth 5 ∧ q.vform.toNat = o.imm.toNat % 4 ∧
      q.votes = w.r.predMask (o.a.toNat % 32) ∧
      r = s.fenceCore (match fl.owner with | .wave _ => s.coreOf w | .line k => k) false true 1 (BitVec.allOnes 16) ∧
      exec (.vote h o) s = .next { r with flight := r.flight.map fun f => { f with waits := f.waits ++ [q] } }) ∧
    (o.imm = 0 → exec (.rdclk h o) s = .next (s.leaves fl 1 [.s (o.d.setWidth 6) (BitVec.ofNat 64 (s.now / 40 + fl.cur.1)) 0])) ∧
    (o.imm = 1 → exec (.rdclk h o) s =
      .next (s.leaves fl 1 [.s (o.d.setWidth 6) (BitVec.ofNat 64 ((s.now + 40 * fl.cur.1) / 72)) 0]))

/-- Traps by instruction and system registers (R430, R432, R433, R146): trap raises 0x10 on an error, or with its bit 16 on any
status but done, sysc 0x0D with its number, bkpt 0x0B; they take effect after the group. rdsr gives the register;
on a line core the system registers read zero (log entry 69); BANK_ROLE gives the roles last written, pending ones too (log entry 42). A wrsr of a wave
(R263, R433): the words of the stochastic state follow the group's draws, the steps of a register with steps of its own come before the
group's later operations (log entry 109), the others take the bits of their writable fields at once, and a request joins its queue or, when that
is full, completes later (log entry 32). A register write through a control port (R6, R422, R431, R434, R445, R519) does the same, its steps
before whatever was posted. -/
def Obligations.TrapsAndRegisters : Prop :=
  (∀ (s : State) (h : Head) (o : YgFmt) (q : YsFmt) (fl : Flight) (w : Wave), Running s h fl w →
     let m := runMask w.r fl h
     let x := w.r.sc o.a.toNat
     let asks (code : Byte) (addr info : Dword) : Host.Outcome State Fault Refusal :=
       .next { s with flight := some { fl with trap := some { code, m, slot := fl.cur.2, addr, info } } }
     let core : Nat := match fl.owner with | .wave _ => s.coreOf w | .line k => k
     (o.imm.getLsbD 16 = false → exec (.trap h o) s = if 0x80 ≤ x.toNat % 256 then asks 0x10 0 x else .next s) ∧
     (o.imm.getLsbD 16 = true → exec (.trap h o) s = if x.toNat % 256 ≠ 0 then asks 0x10 0 x else .next s) ∧
     exec (.sysc h o) s = asks 0x0D (BitVec.ofNat 64 o.imm.toNat) x ∧
     exec (.bkpt h o) s = asks 0x0B 0 (BitVec.ofNat 64 (o.imm.toNat % 2 ^ 16)) ∧
     (∃ v : Dword, exec (.rdsr h q) s = .next (s.leaves fl 1 [.s q.s v 0]) ∧
      (∀ k, fl.owner = .line k → q.srn.toNat < 0x020 ∨ 0x023 < q.srn.toNat → v = 0) ∧
      ∀ u, fl.owner = .wave u →
       (q.srn = 0x010 → v = s.fault.base) ∧ (q.srn = 0x011 → v = s.fault.ctl) ∧ (q.srn = 0x012 → v = s.fault.head) ∧
       (q.srn = 0x013 → v = s.fault.tail) ∧ (q.srn = 0x014 → v = 0) ∧ (q.srn = 0x018 → v = s.sys.serrUncorr ++ s.sys.serrCorr) ∧
       (q.srn = 0x020 → v.toNat = w.r.stoch.x.toNat) ∧ (q.srn = 0x021 → v.toNat = w.r.stoch.y.toNat) ∧
       (q.srn = 0x022 → v.toNat = w.r.stoch.z.toNat) ∧ (q.srn = 0x023 → v.toNat = w.r.stoch.w.toNat) ∧
       (q.srn = 0x040 → ((s.core core).roleWait = [] → v = (s.core core).bankRole) ∧
         ∀ k r, k < 32 → r < 4 → (s.core core).roleWait = [(k + 3, r)] → ∀ j, j < 32 →
           v.toNat / 4 ^ j % 4 = if j = k then r else (s.core core).bankRole.toNat / 4 ^ j % 4) ∧ (q.srn = 0x080 → v = s.sys.ctxTable) ∧
       (∀ k, k ≤ 0x103 → q.srn.toNat = 0x400 + k → v = (s.head k).reserve) ∧
       (∀ k, k ≤ 0x103 → q.srn.toNat = 0x600 + k → v = (s.head k).ctl) ∧
       (q.srn = 0xA05 → v = s.dbg.pc) ∧ (q.srn = 0xC08 → v = s.life.pwrCap)) ∧
     (∀ k, k < 4 → q.srn.toNat = 0x020 + k → exec (.wrsr h q) s =
       .next { s with flight := some { fl with stochW := fl.stochW ++ [(k, (w.r.sc q.s.toNat).extractLsb' 0 32)] } }) ∧
     (let x := w.r.sc q.s.toNat
      let before (i : Instr) (a : Nat) : Prop :=
        exec (.wrsr h q) s = .next { s with flight := some { fl with sysw := fl.sysw ++ [{ instr := i, arg := { a, b := 0, c := 0, x } }] } }
      let late : State := { s with lateWr := s.lateWr ++ [{ wave := some w.uid, srn := q.srn.toNat, value := x }] }
      let acts (is : List Instr) (a b : Nat) (y : Dword) : Prop := exec (.wrsr h q) s =
        .next { s with flight := some { fl with sysw := fl.sysw ++ is.map fun i => { instr := i, arg := { a, b, c := 0, x := y } } } }
      let code := x.toNat % 16
      (q.srn = 0x014 →
        let act (i : Instr) : Prop := acts [i] (x.toNat / 256) (w.uid + 1) x
        (code = 0 → act .faultResume) ∧ (code = 1 → act .faultReplay) ∧ (code = 2 → act .faultKillWave) ∧ (code = 3 → act .faultKillGroup) ∧
        (code = 4 → act .faultKillGrid) ∧ (code = 5 → act .faultKillContext) ∧ (code = 8 → act .faultVacate) ∧
        (code ∉ [0, 1, 2, 3, 4, 5, 8] → exec (.wrsr h q) s = .next s)) ∧
      (q.srn = 0xA03 → (code = 1 → before .dbgHalt 0) ∧ (code = 2 → before .dbgResume 0) ∧
        (code = 3 → acts [.dbgStep] (x.toNat / 16 % 1024) (x.toNat / 16384 % 64) x) ∧ (code = 4 → before .dbgDeactivate 0) ∧
        (code = 5 → before .dbgProfileDump 0) ∧ (code = 6 → before .dbgProfileClear 0) ∧ (code ∉ [1, 2, 3, 4, 5, 6] → exec (.wrsr h q) s = .next s)) ∧
      (q.srn = 0xA31 → let mode := x.toNat / 4096 % 4
        (mode = 0 → before .replayOff 0) ∧ (mode = 1 → before .replayRecord 0) ∧ (mode = 2 → before .replayEnforce 0)) ∧
      (q.srn = 0xC01 →
        let warm : Offer := { instr := .bootWarmReset s.startReport, arg := { a := 0, b := 0, c := 1, x := 0 } }
        let clear : Offer := { instr := .bootClearFails, arg := { a := 0, b := 0, c := 1, x := 0 } }
        ∃ os : List Offer, exec (.wrsr h q) s = .next { s with flight := some { fl with sysw := fl.sysw ++ os } } ∧
          os = (if x.getLsbD 0 then [clear] else []) ++ (if x.getLsbD 1 then [warm] else [])) ∧
      (q.srn = 0x011 → before .faultCtl 0) ∧ (q.srn = 0x012 → before .faultHeadWrite 0) ∧ (q.srn = 0x040 → before .bankRole core) ∧
      (q.srn = 0x082 → before .regionSync 0) ∧ (q.srn = 0x090 → before .framePartitionWrite 0) ∧
      (q.srn = 0x091 → before .framePartitionWrite 1) ∧ (q.srn = 0x092 → before .framePartitionWrite 2) ∧
      (q.srn = 0xA00 → before .dbgTable 0) ∧ (q.srn = 0xA01 → before .dbgSync 0) ∧
      (∀ k, k ≤ 0x103 → q.srn.toNat = 0x400 + k → before .headReserve k) ∧
      (∀ k, k < 16 → q.srn.toNat = 0x103 + 4 * k → before .fwinCtl k) ∧
      (q.srn = 0x080 → exec (.wrsr h q) s = .next { s with sys := { s.sys with ctxTable := x &&& 0x000FFFFFFFFFF000 } }) ∧
      (q.srn = 0xC08 → exec (.wrsr h q) s = .next { s with life := { s.life with pwrCap := x &&& 0xFFFF } }) ∧
      (q.srn = 0x070 → exec (.wrsr h q) s = .next (if s.sw.queue.length < 16 then
        { s with sw := { s.sw with queue := s.sw.queue ++ [(x &&& 0x000FFFFFFFFFFFC0, none)] } } else late)) ∧
      (q.srn = 0xC04 → exec (.wrsr h q) s = .next (if s.life.serviceQ.length < 4 then
        { s with life := { s.life with serviceQ := s.life.serviceQ ++ [x &&& 0x000FFFFFFFFFFFC0] } } else late)))) ∧
  (∀ (s : State) (h : Head) (q : YsFmt), s.flight = none →
     let x := s.arg.x
     let begins (i : Instr) (a b : Nat) : Prop :=
       exec (.wrsr h q) s = .next { s with posted := { instr := i, arg := { a, b, c := 0, x } } :: s.posted }
     let causes (i : Instr) (a : Nat) : Prop := begins i a 0
     let late : State := { s with lateWr := s.lateWr ++ [{ wave := none, srn := q.srn.toNat, value := x }] }
     (q.srn = 0x011 → causes .faultCtl 0) ∧ (q.srn = 0x012 → causes .faultHeadWrite 0) ∧
     (q.srn = 0x014 →
       let j := x.toNat / 256
       let acts (i : Instr) : Prop := begins i j s.arg.b
       (x.toNat % 16 = 0 → acts .faultResume) ∧ (x.toNat % 16 = 1 → acts .faultReplay) ∧
       (x.toNat % 16 = 2 → acts .faultKillWave) ∧ (x.toNat % 16 = 3 → acts .faultKillGroup) ∧
       (x.toNat % 16 = 4 → acts .faultKillGrid) ∧ (x.toNat % 16 = 5 → acts .faultKillContext) ∧
       (x.toNat % 16 = 8 → acts .faultVacate)) ∧
     (q.srn = 0x040 → causes .bankRole s.arg.a) ∧ (q.srn = 0x082 → causes .regionSync 0) ∧
     (q.srn = 0x090 → causes .framePartitionWrite 0) ∧ (q.srn = 0x091 → causes .framePartitionWrite 1) ∧
     (q.srn = 0x092 → causes .framePartitionWrite 2) ∧ (q.srn = 0xA00 → causes .dbgTable 0) ∧
     (∀ k, k ≤ 0x103 → q.srn.toNat = 0x400 + k → causes .headReserve k) ∧
     (∀ k, k ≤ 0x103 → q.srn.toNat = 0x600 + k →
       (x.getLsbD 0 = false → causes .headDisable k) ∧
       (x.getLsbD 0 = true → (s.head k).en = true → causes .headReread k) ∧
       (x.getLsbD 0 = true → (s.head k).en = false → causes .headEnable k)) ∧
     (q.srn = 0x080 → exec (.wrsr h q) s = .next { s with sys := { s.sys with ctxTable := x &&& 0x000FFFFFFFFFF000 } }) ∧
     (q.srn = 0x018 → exec (.wrsr h q) s =
       .next { s with sys := { s.sys with serrCorr := x.extractLsb' 0 32, serrUncorr := x.extractLsb' 32 32 } }) ∧
     (q.srn = 0x070 → exec (.wrsr h q) s = .next (if s.sw.queue.length < 16 then
       { s with sw := { s.sw with queue := s.sw.queue ++ [(x &&& 0x000FFFFFFFFFFFC0, none)] } } else late)) ∧
     (q.srn = 0xC04 → exec (.wrsr h q) s = .next (if s.life.serviceQ.length < 4 then
       { s with life := { s.life with serviceQ := s.life.serviceQ ++ [x &&& 0x000FFFFFFFFFFFC0] } } else late)) ∧
     (q.srn = 0xC08 → exec (.wrsr h q) s = .next { s with life := { s.life with pwrCap := x &&& 0xFFFF } }) ∧
     exec (.rdsr h q) s = .next s)

/-! Decoding, the step, and what every step keeps. -/

/-- Every well-formed slot operation, with every operand at every value its encoding admits, is the decoding of its own word in
every slot where it may stand (R46, R48, R55, R56); the three forms of mhist share one word (R340). -/
def Obligations.EncodeThenDecode : Prop :=
  ∀ (p : Profile) (k : Nat) (i : Instr), i.wf = true → k ∈ i.slots p →
    ∃ w : Slot, encodeSlot i = some w ∧ decodeSlot p k w = some i.coded

/-- A slot that decodes does so to a well-formed operation that may stand there, and encoding that operation gives the slot's
word again, all 56 bits of it: no two words share a meaning and no bit is dropped (R46 to R58). -/
def Obligations.DecodeThenEncode : Prop :=
  ∀ (p : Profile) (k : Nat) (w : Slot) (i : Instr), k < 8 → decodeSlot p k w = some i →
    i.wf = true ∧ k ∈ i.slots p ∧ encodeSlot i = some w

/-- Words that the spec's worked examples write out bit by bit decode to the operations they stand for. -/
def Obligations.DecodedWords : Prop :=
  decodeSlot .c 0 0x00_1020_0000_0008 = some (.pbr { tag := .always, neg := false, gp := 0 } { bt := 2, off := 8 }) ∧
  decodeSlot .c 1 0x00_2A05_0400_0000 = some (.vmatch { tag := .always, neg := false, gp := 0 }
    { d := 5, a := 4, b := 0, c := 0, ty := .i8, md := 0, bsel := false }) ∧
  decodeSlot .c 4 0x00_0288_A118_0080 = some (.ldMark { tag := .always, neg := false, gp := 0 }
    { cls := 1, d := 10, base := 4, ty := .n32, addr := .off 0x80 }) ∧
  decodeSlot .c 6 0x00_00A4_0C00_0A09 = some (.copy { tag := .always, neg := false, gp := 0 }
    { tn := 1, td := 8, t1 := 6, t2 := 0, t3 := 0, a := 20, md := 9 }) ∧
  decodeSlot .c 7 0x00_0480_1400_0042 = some (.sysc { tag := .always, neg := false, gp := 0 } { d := 0, a := 5, b := 0, imm := 0x42 }) ∧
  decodeSlot .d 7 0x00_1128_5000_0002 = some (.pget { tag := .always, neg := false, gp := 0 } { d := 40, a := 20, b := 0, imm := 2 }) ∧
  decodeSlot .c 1 0x00_7780_0000_0000 = none

/-- What a step runs. A group in flight goes on first: a step that a system-register write of it has caused runs before its later
operations (R263); else the slot that stands next is decoded and its operation runs, in the form that its scalar names if it is
mhist; an empty slot is passed over; with no slot left the transfer tree of the group's last bundle runs, which ends it (R20,
R22, R26, R61). Otherwise the oldest posted step runs; then the oldest offer whose time
has come and which the device may take; then what a unit is due to do; and then time passes (the model's order: log entries 9
and 10; that the form of mhist is chosen as it runs is log entry 21, that a register write's steps come before later operations log entry 109). -/
def Obligations.StepRunsDecoded : Prop :=
  (∀ (s : State) (fl : Flight) (w : Wave) (b : FBundle) (k n : Nat) (rest : List (Nat × Nat)) (i : Instr),
    s.flight = some fl → s.owner fl.owner = some w → fl.sysw = [] → fl.todo = (k, n) :: rest → fl.bundles[k]? = some b →
    decodeSlot fl.owner.prof n (slotOf b.bits n) = some i →
    step s = exec (mhistForm w.r i) { s with flight := some { fl with todo := rest, cur := (k, n) } }) ∧
  (∀ (s : State) (fl : Flight) (w : Wave) (b : FBundle) (k n : Nat) (rest : List (Nat × Nat)),
    s.flight = some fl → s.owner fl.owner = some w → fl.sysw = [] → fl.todo = (k, n) :: rest → fl.bundles[k]? = some b → decodeSlot fl.owner.prof n (slotOf b.bits n) = none →
    step s = .next { s with flight := some { fl with todo := rest, cur := (k, n) } }) ∧
  (∀ (s : State) (fl : Flight) (w : Wave) (o : Offer) (rest : List Offer), s.flight = some fl → s.owner fl.owner = some w →
    fl.sysw = o :: rest → step s = exec o.instr { s with arg := o.arg, flight := some { fl with sysw := rest } }) ∧
  (∀ (s : State) (fl : Flight) (b : FBundle), s.flight = some fl → fl.sysw = [] → fl.todo = [] → fl.bundles.getLast? = some b →
    step s = exec (.br (treeOf b.bits)) s) ∧
  (∀ (s : State) (o : Offer) (rest : List Offer), s.flight = none → s.posted = o :: rest →
    step s = exec o.instr { s with posted := rest, arg := o.arg }) ∧
  (∀ (s : State) (t : Nat) (o : Offer) (rest : List (Nat × Offer)), s.flight = none → s.posted = [] → s.agenda = (t, o) :: rest →
    t ≤ s.now → s.admits o.instr = true → step s = exec o.instr { s with agenda := rest, arg := o.arg }) ∧
  (∀ s : State, s.flight = none → s.posted = [] → s.agenda = [] → s.due = none → step s = .next s.tick)

/-- Every step keeps device memory in its canonical form: addresses strictly rising, no byte listed that an unlisted one reads
as, and the poisoned addresses rising (the model's form of the memory that R199, R223 and R230 give the machine). -/
def Obligations.MemoryFormEveryStep : Prop :=
  ∀ s t : State, s.memOk = true → step s = .next t → t.memOk = true

/-- The machine right after reset: memory in canonical form with nothing listed, no wave, group or grid, and every register at
its Reset value (R8, R215, R422, R434, R480, R481, R513): the fault ring, CTX_TABLE, the frame partition and the format
windows, each core's bank roles, each head, command queue and port disabled, replay off, the device ready. That memory lists nothing is the model's choice of log entry 1,
and that the device stands after a full cold start, ready, that of log entry 2. -/
def Obligations.ResetState : Prop :=
  State.reset.memOk = true ∧ State.reset.flight = none ∧ State.reset.waves = [] ∧ State.reset.groups = [] ∧ State.reset.grids = [] ∧
  (∀ pa : Nat, cell State.reset.mem pa = 0 ∧ inKeys pa State.reset.memBad = false) ∧
  (∀ g srn : Nat, srn ∈ [0x010, 0x011, 0x012, 0x013, 0x018, 0x040, 0x080, 0x090, 0x091, 0x092, 0xA00, 0xA02, 0xA04, 0xA05, 0xA30, 0xA31,
    0xA32, 0xC00, 0xC02, 0xC08] → State.reset.sysRead g srn = 0) ∧
  (∀ k, k < 64 → State.reset.sysRead 0 (0x100 + k) = 0) ∧
  (∀ g : Nat, (State.reset.core g).bankRole = 0 ∧ (State.reset.core g).copyQ = [] ∧ (State.reset.core g).matQ = []) ∧
  (∀ h : Nat, (State.reset.head h).en = false ∧ (State.reset.head h).reserve = 0 ∧ (State.reset.head h).ctl = 0) ∧
  (∀ q : Nat, (State.reset.queue q).ctl = 0 ∧ (State.reset.queue q).base = 0) ∧
  (∀ p : Nat, (State.reset.peer p).en = false ∧ (State.reset.peer p).link = false) ∧
  State.reset.rep.state = 0 ∧ State.reset.life.state = .ready

/-! Loads and stores. -/

/-- Loads. Every load completes, whatever its checks and its memory give: it leaves the writes of its destination (v[D], v[D+1] for a
64-bit type, the residency predicate of ldp, one scalar for ldu) for the end of its group, and changes nothing but what the
levels of memory hold, mark sets and monitors; every other register, every flag and every special register is as before. It
stores nothing: every byte reads as before at the LLC, in every die and in every L1, but for a line of which the core's write buffer
holds stores, or which is read uncached: what the core and its die have written of that line reaches the LLC first (R220, R251, R269;
the accesses lie where the group's check has placed them, R235). Where
the accesses pass their checks in write-back pages and the core's L1 holds their lines, each running lane gets the bytes at its
address, little-endian, cut and extended by the type, and poison where one of them is poisoned, a probe also sets its
predicate, ldu extends to 64 bits, and nothing else is different (R3, R264, R265, R267, R272 to R275). -/
def Obligations.Loads : Prop :=
  (∀ (s : State) (h : Head) (o : LmFmt) (c : Ctx), RunsIn s h c →
    let n := o.ty.size
    let lanes' : List MemAcc := c.perLane n (c.laneAddr o n)
    let only (t : State) (as : List MemAcc) (mark : Bool) (ws : List RegWrite) : Prop :=
      MemoryOnly s t ∧ LoadsOnly s t c as mark ∧ t.flight = (s.leaves c.fl (c.lat 1 240) ws).flight
    (∃ (t : State) (lo hi : Line) (bad : Mask), exec (.ld h o) s = .next t ∧ only t lanes' false (loadWrites o.ty o.d c.run lo hi bad)) ∧
    (∃ (t : State) (lo hi : Line) (bad : Mask), exec (.ldMark h o) s = .next t ∧ only t lanes' true (loadWrites o.ty o.d c.run lo hi bad)) ∧
    (∃ (t : State) (lo hi : Line) (bad hit : Mask), exec (.ldp h o) s = .next t ∧
      only t (c.perLane n (c.probeAddr o)) false (loadWrites o.ty o.d c.run lo hi bad ++
        (match o.addr with | .off x => predWrites (x.extractLsb' 11 5) c.run hit | .idx .. => []))) ∧
    (∃ (t : State) (ws : List RegWrite), exec (.ldu h o) s = .next t ∧
      only t (c.single n (c.oneAddr o) ((c.oneAddr o).toNat % n != 0)) false ws ∧
      (ws = [] ∨ ∃ (x : Dword) (b : BitVec 2), ws = [.s (o.d.setWidth 6) x b]))) ∧
  (∀ (s : State) (h : Head) (o : LmFmt) (c : Ctx) (u : Nat) (pa : Fin 32 → Nat), RunsIn s h c → c.fl.owner = .wave u →
    let n := o.ty.size
    let bs (k : Fin 32) : List PByte := s.coreBytes c.core (pa k) n
    let loaded (lo hi : Line) (bad : Mask) : Prop :=
      ∀ k, c.run.has k = true → LoadedAs o.ty (bs k) (lo.get k) (hi.get k) ∧ bad.has k = anyBad (bs k)
    let as := c.perLane n (c.laneAddr o n)
    (Passes s c .load as pa → InL1 s c as pa →
      ∃ (lo hi : Line) (bad : Mask), exec (.ld h o) s = .next (s.leaves c.fl (c.lat 1 240) (loadWrites o.ty o.d c.run lo hi bad)) ∧ loaded lo hi bad) ∧
    (let ps := c.perLane n (c.probeAddr o)
     Passes s c .probe ps pa → InL1 s c ps pa → ∀ x, o.addr = .off x →
      ∃ (lo hi : Line) (bad hit : Mask), exec (.ldp h o) s =
        .next (s.leaves c.fl (c.lat 1 240) (loadWrites o.ty o.d c.run lo hi bad ++ predWrites (x.extractLsb' 11 5) c.run hit)) ∧
        loaded lo hi bad ∧ ∀ k, c.run.has k = true → hit.has k = true) ∧
    (let one := c.single n (c.oneAddr o) ((c.oneAddr o).toNat % n != 0)
     Passes s c .load one pa → InL1 s c one pa → ∀ k, c.run.lowest = some k →
      ∃ (x : Dword) (b : BitVec 2), exec (.ldu h o) s = .next (s.leaves c.fl (c.lat 1 240) [.s (o.d.setWidth 6) x b]) ∧
        (x = if o.ty.signed then (BitVec.ofNat o.ty.width (natOf (bs k))).signExtend 64
             else (BitVec.ofNat o.ty.width (natOf (bs k))).zeroExtend 64) ∧ (b ≠ 0 ↔ anyBad (bs k) = true)))

/-- Every store completes and leaves nothing for its group's end; what it changes lies in the levels of memory, the hub's registers,
mark sets and monitors (R268, R269, R272, R273). Where the accesses of its running lanes pass their checks in write-back pages,
each in the state that the lanes below it leave, it is the stores of the low bytes of v[D], or of v[D+1] above v[D], or of s[D]
for stu, in increasing lane order, and nothing else. What one store of a core to device memory leaves. In a write-back page the
core's L1 and its die's L2 read the stored bytes at their addresses and every other byte as before, the LLC and the other dies
every byte; in an uncached page so does
the LLC. Premises: the bytes lie in one line (R266 check 3), no store waits in the write buffer, the line is no view's and the
slice or the channel is in service (R220, R229, R269, R517). lds and sts on a compute core reach the scratchpad of the wave's
group, on a line core its line buffer (R39, R272, R286, R399). lds gives each running lane the bytes at its address; sts writes
the low bytes of each running lane, the highest lane prevailing, and every other byte of the scratchpad, and every other
group's scratchpad, reads as before; on a line core the bytes are kept until the next counted cycle, in lane order. -/
def Obligations.Stores : Prop :=
  (∀ (s : State) (h : Head) (o : LmFmt) (c : Ctx), RunsIn s h c →
     let n := o.ty.size
     let as := c.perLane n (c.laneAddr o n)
     let one := c.single n (c.oneAddr o) ((c.oneAddr o).toNat % n != 0)
     let put (pa : Fin 32 → Nat) (l : List MemAcc) : List (Nat × List PByte) :=
       l.map fun a => (pa a.lane, lowBytes n (c.stored o.d.toNat a.lane))
     (∃ t : State, exec (.st h o) s = .next t ∧ t.flight = s.flight ∧ MemoryOnly s t) ∧
     (∃ t : State, exec (.stu h o) s = .next t ∧ t.flight = s.flight ∧ MemoryOnly s t) ∧
     (∀ (u : Nat) (pa : Fin 32 → Nat), c.fl.owner = .wave u →
       (∀ (j : Nat) (a : MemAcc), as[j]? = some a →
         let t := s.storeSeq c.core o.cls (put pa (as.take j))
         t.placeAcc c (.mem .store) (s.priv c.w) a = (t, .ok (pa a.lane) 0)) →
       exec (.st h o) s = .next (s.storeSeq c.core o.cls (put pa as))) ∧
     (∀ (u : Nat) (pa : Fin 32 → Nat) (k : Fin 32), c.fl.owner = .wave u → c.run.lowest = some k → Passes s c .store one pa →
       exec (.stu h o) s = .next (s.storePa c.core 0 o.cls (pa k) (lowBytes n (c.w.r.sc o.d.toNat))))) ∧
  (∀ (s : State) (g pa : Nat) (cls : BitVec 4) (bs : List PByte), bs ≠ [] → pa % 128 + bs.length ≤ 128 → s.range pa = .mem →
     (s.core g).wc = [] → s.viewAt (128 * (pa / 128)) = none →
     (s.sliceDead (dieOf g) (pa / 128) = false → ∀ a : Nat,
       let t := s.storePa g 0 cls pa bs
       let after (old : PByte) : PByte := if pa ≤ a ∧ a < pa + bs.length then bs.getD (a - pa) (clean 0) else old
       t.dieByte (dieOf g) a = after (s.dieByte (dieOf g) a) ∧ t.l1Byte g a = after (s.l1Byte g a) ∧ t.llcByte a = s.llcByte a ∧
       ∀ d, d ≠ dieOf g → t.dieByte d a = s.dieByte d a) ∧
     (s.memOk = true → s.l2Find (dieOf g) (pa / 128) = none → (∀ i, i < bs.length → s.channelDead (pa + i) = false ∧ s.viewAt (pa + i) = none) →
       ∀ a : Nat, (s.storePa g 1 cls pa bs).llcByte a =
         if pa ≤ a ∧ a < pa + bs.length then bs.getD (a - pa) (clean 0) else s.llcByte a)) ∧
  (∀ (s : State) (h : Head) (o : LmFmt) (c : Ctx), RunsIn s h c →
     let n := o.ty.size
     let at0 (k : Fin 32) : Nat := (c.laneAddr o n k).toNat
     let byte (k : Fin 32) (j : Nat) : PByte := (lowBytes n (c.stored o.d.toNat k)).getD j (clean 0)
     let gives (bs : Fin 32 → List PByte) : Prop := ∃ (lo hi : Line) (bad : Mask),
       exec (.lds h o) s = .next (s.leaves c.fl (c.lat (3 + portRun (c.granules (.lds h o))) 3) (loadWrites o.ty o.d c.run lo hi bad)) ∧
       ∀ k, c.run.has k = true → LoadedAs o.ty (bs k) (lo.get k) (hi.get k) ∧ bad.has k = anyBad (bs k)
     (∀ (u : Nat) (g : Group), c.fl.owner = .wave u → s.group? c.w.group = some g →
       gives (fun k => g.scratch.read (at0 k) n) ∧
       (Memory.wf g.scratch.cells = true → rising g.scratch.bad = true →
         ∃ (t : State) (v : Group), exec (.sts h o) s = .next t ∧ t = { s with groups := t.groups } ∧
           t.groups.map (fun x => { x with scratch := Store.empty }) = s.groups.map (fun x => { x with scratch := Store.empty }) ∧
           t.group? c.w.group = some v ∧ (∀ u, u ≠ c.w.group → t.group? u = s.group? u) ∧
           (∀ a : Nat, (∀ k, c.run.has k = true → a < at0 k ∨ at0 k + n ≤ a) → v.scratch.get a = g.scratch.get a) ∧
           (∀ (a : Nat) (k : Fin 32), c.run.has k = true → at0 k ≤ a → a < at0 k + n →
             (∀ i : Fin 32, k < i → c.run.has i = true → a < at0 i ∨ at0 i + n ≤ a) → v.scratch.get a = byte k (a - at0 k)))) ∧
     (∀ l : Nat, c.fl.owner = .line l →
       ((s.line l).bufPend = [] → gives (fun k => (s.line l).buf.read (at0 k) n)) ∧
       exec (.sts h o) s = .next (s.modLine l fun x => { x with bufPend := x.bufPend ++ (c.run.list.flatMap fun k =>
         (List.range n).map fun j => ((s.line l).cnt + c.fl.cur.1, at0 k + j, byte k j)) })))

/-! Atomics, the conditional store, fences, the monitor and queue windows. -/

/-- Atomics. Every one completes: atom and satom leave the old values as the writes of v[D] (and v[D+1]) for the end of their group,
the others leave nothing; with recording and replay off, atom, red and vatom change nothing but the levels of memory, mark
sets and monitors, and satom and sred nothing but the scratchpad of the wave's group, or the line core's line buffer. Whatever lanes
run, bytes that none of them addresses read as before, and those that are addressed are changed in the issuing die, or the
owner's scratchpad, alone. With one running thread k, a memory atomic takes old
value, operand and comparison value at the width of the type, cas with the comparison value first; the new value is that of R277 and
is stored at s[B] + v[I], every other byte that the die reads is as before, and atom and satom return the old value; vatom stores
the lesser of the old value and its key at s[R] + 8 v[A]. Premises of that: the access passes its checks in a write-back page and performs
at an L2 slice in service, no store waits in the write buffer, no byte is poisoned (R264, R267, R276 to R280, R362). -/
def Obligations.Atomics : Prop :=
  (∀ (s : State) (h : Head) (o : LaFmt) (q : TFmt) (c : Ctx), RunsIn s h c →
    let local' (t : State) : Prop := t = { s with groups := t.groups, disp := t.disp, flight := t.flight } ∧
      t.groups.map (fun x => { x with scratch := Store.empty }) = (s.groups.map fun x => { x with scratch := Store.empty }) ∧
      (∀ u, c.fl.owner = .wave u → t.disp = s.disp ∧ ∀ g, g ≠ c.w.group → t.group? g = s.group? g) ∧
      (∀ l, c.fl.owner = .line l → t.groups = s.groups ∧ t.disp = { s.disp with lines := t.disp.lines } ∧ (∀ j, j ≠ l → t.line j = s.line j) ∧
        t.line l = { s.line l with buf := (t.line l).buf, bufPend := (t.line l).bufPend })
    (s.rep.state = 0 → ∃ (t : State) (lo hi : Line) (bad : Mask), exec (.atom h o) s = .next t ∧ MemoryOnly s t ∧
      t.flight = (s.leaves c.fl 1 (loadWrites o.ty o.d c.run lo hi bad)).flight) ∧
    (s.rep.state = 0 → ∃ t : State, exec (.red h o) s = .next t ∧ MemoryOnly s t ∧ t.flight = s.flight) ∧
    (s.rep.state = 0 → ∃ t : State, exec (.vatom h q) s = .next t ∧ MemoryOnly s t ∧ t.flight = s.flight) ∧
    (∃ (t : State) (lo hi : Line) (bad : Mask), exec (.satom h o) s = .next t ∧ local' t ∧
      t.flight = (s.leaves c.fl (c.lat (5 + portRun (c.granules (.satom h o))) 1) (loadWrites o.ty o.d c.run lo hi bad)).flight) ∧
    (∃ t : State, exec (.sred h o) s = .next t ∧ local' t ∧ t.flight = s.flight)) ∧
  (∀ (s : State) (h : Head) (o : LaFmt) (q : TFmt) (c : Ctx) (u : Nat) (pa : Fin 32 → Nat), RunsIn s h c → c.fl.owner = .wave u →
    s.rep.state = 0 → (s.core c.core).wc = [] →
    let die := dieOf c.core
    let leavesAlone (i : Instr) (as : List MemAcc) : Prop := Passes s c .atom as pa →
      (∀ a, a ∈ as → pa a.lane % 128 + a.size ≤ 128 ∧ s.viewAt (128 * (pa a.lane / 128)) = none ∧ s.sliceDead die (pa a.lane / 128) = false) →
      ∃ t : State, exec i s = .next t ∧ ∀ x : Nat, t.llcByte x = s.llcByte x ∧ (∀ d, d ≠ die → t.dieByte d x = s.dieByte d x) ∧
        ((∀ a, a ∈ as → x < pa a.lane ∨ pa a.lane + a.size ≤ x) → t.dieByte die x = s.dieByte die x)
    let n := o.ty.size
    (o.scope.toNat < 5 → leavesAlone (.atom h o) (c.perLane n (c.atomAddr o)) ∧ leavesAlone (.red h o) (c.perLane n (c.atomAddr o))) ∧
    (bit q.md 1 = false → leavesAlone (.vatom h q) (c.perLane 8 (c.vatomAddr q))) ∧
    (∀ g : Group, s.group? c.w.group = some g → Memory.wf g.scratch.cells = true → rising g.scratch.bad = true →
      ∀ i ∈ [Instr.satom h o, .sred h o], ∃ (t : State) (v : Group), exec i s = .next t ∧ t.group? c.w.group = some v ∧ ∀ a : Nat,
        (∀ k, c.run.has k = true → a < (c.atomAddr o k).toNat ∨ (c.atomAddr o k).toNat + n ≤ a) → v.scratch.get a = g.scratch.get a)) ∧
  (∀ (s : State) (h : Head) (o : LaFmt) (q : TFmt) (c : Ctx) (u : Nat) (k : Fin 32) (pa : Fin 32 → Nat), RunsIn s h c →
    c.fl.owner = .wave u → c.run = 1#32 <<< k.val → s.rep.state = 0 → (s.core c.core).wc = [] →
    let die := dieOf c.core
    let v (j : Nat) : Word := (c.w.r.vec j).get k
    let pair (j : Nat) : Dword := v (j + 1) ++ v j
    let D := o.d.toNat
    let cas := o.aop = 7
    let w := o.ty.width
    let n := o.ty.size
    let b : BitVec w := if o.ty.wide then (if cas then pair (D + 2) else pair D).setWidth w else (if cas then v (D + 1) else v D).setWidth w
    let z : BitVec w := if o.ty.wide then (pair D).setWidth w else (v D).setWidth w
    let clear (p : Nat) (n : Nat) : Prop := p % 128 + n ≤ 128 ∧ s.viewAt (128 * (p / 128)) = none ∧ s.sliceDead die (p / 128) = false ∧
      anyBad (s.dieBytes die p n) = false
    let stored (t : State) (p n : Nat) (x : Dword) : Prop := ∀ a : Nat, t.dieByte die a =
      if p ≤ a ∧ a < p + n then clean (x.extractLsb' (8 * (a - p)) 8) else s.dieByte die a
    (aopOk o.ty o.aop.toNat = true → o.ty.isInt = true → o.scope.toNat < 5 → Passes s c .atom (c.perLane n (c.atomAddr o)) pa → clear (pa k) n →
      ∃ (t r : State) (x : BitVec w) (lo hi : Line) (bad : Mask),
        exec (.atom h o) s = .next t ∧ exec (.red h o) s = .next r ∧
        t.flight = (s.leaves c.fl 1 (loadWrites o.ty o.d c.run lo hi bad)).flight ∧
        LoadedAs o.ty (s.dieBytes die (pa k) n) (lo.get k) (hi.get k) ∧ bad.has k = false ∧
        AtomicValue o.ty o.aop.toNat (BitVec.ofNat w (natOf (s.dieBytes die (pa k) n))) b z x ∧
        stored t (pa k) n (x.setWidth 64) ∧ stored r (pa k) n (x.setWidth 64)) ∧
    (bit q.md 1 = false → Passes s c .atom (c.perLane 8 (c.vatomAddr q)) pa → clear (pa k) 8 →
      ∃ (t : State) (x : Dword), exec (.vatom h q) s = .next t ∧
        x.toNat = min (natOf (s.dieBytes die (pa k) 8))
          ((if bit q.md 0 then ~~~(v q.d.toNat) else v q.d.toNat) ++ v (q.d.toNat + 1)).toNat ∧
        stored t (pa k) 8 x) ∧
    (∀ g : Group, aopOk o.ty o.aop.toNat = true → o.ty.isInt = true → s.group? c.w.group = some g → Memory.wf g.scratch.cells = true →
      rising g.scratch.bad = true →
      let p := (c.atomAddr o k).toNat
      anyBad (g.scratch.read p n) = false →
      ∃ (t r : State) (x : BitVec w) (lo hi : Line) (bad : Mask) (gt gr : Group),
        exec (.satom h o) s = .next t ∧ exec (.sred h o) s = .next r ∧
        t.flight = (s.leaves c.fl (c.lat (5 + portRun (c.granules (.satom h o))) 1) (loadWrites o.ty o.d c.run lo hi bad)).flight ∧ LoadedAs o.ty (g.scratch.read p n) (lo.get k) (hi.get k) ∧
        AtomicValue o.ty o.aop.toNat (BitVec.ofNat w (natOf (g.scratch.read p n))) b z x ∧
        t.group? c.w.group = some gt ∧ r.group? c.w.group = some gr ∧
        ∀ a : Nat, gt.scratch.get a = (if p ≤ a ∧ a < p + n then clean ((x.setWidth 64).extractLsb' (8 * (a - p)) 8) else g.scratch.get a) ∧
          gr.scratch.get a = gt.scratch.get a))

/-- cst4 completes and empties the mark set; its predicate says whether it wrote (R281, R282). Where the write buffer of its core
still holds a store to one of its lines, that store performs first and breaks the mark (R254, R269). Where the mark set holds no
unbroken entry of one of its lines, it writes nothing and the predicate is false. Where it holds one of each, the running lanes' words
stand in the lines, v[D + k] in line k, at the LLC too, every other byte reads as before, and the predicate is true. fence completes
(R246, R247, R269, R283): on a compute core it leaves no store of any class in the write buffer, whatever classes it names (the
model's choice: log entry 39), a release from package scope up no dirty byte in the die's L2, an acquire from cluster scope
up leaves L1 empty, and one that covers class 0 from core scope up has the prepared targets fetched again; it stores nothing
new: a byte that neither waited in the write buffer nor was written back reads as before. On a line core it is only that last. mon arms the
wave's monitor on the physical line of its address, replacing an armed one, its core letting go of its copy of the line, and
nothing else (R261, R284). qpush appends an entry of the running lanes' words to the paired wave's window while that
has room for it, and qpop takes the head entry into v[V] (R317). -/
def Obligations.FencesMonitorsQueues : Prop :=
  (∀ (s : State) (h : Head) (o : LcFmt) (c : Ctx) (u : Nat), RunsIn s h c → c.fl.owner = .wave u → s.rep.state = 0 →
     (∃ (t : State) (v : Wave) (ok : Bool), exec (.cst4 h o) s = .next t ∧ MemoryOnly s t ∧
       t.flight = (s.leaves c.fl 1 (predWrites o.p c.run (if ok then BitVec.allOnes 32 else 0))).flight ∧
       t.wave? u = some v ∧ v.c.marks = []) ∧
     (∀ (pa : Nat → Nat) (i : Fin 32), c.run.lowest = some i →
       (∀ (r : State) (k : Nat), k ≤ o.nl.toNat → r.placeAcc c (.mem .cst) (s.priv c.w)
         { lane := i, va := c.cstAddr o + BitVec.ofNat 64 (128 * k), size := 128, mis := false } = (r, .ok (pa k) 0)) →
       let die := dieOf c.core
       let marked (k : Nat) : Prop := ∃ m : Mark, m ∈ c.w.c.marks ∧ m.line = pa k / 128 ∧ m.broken = false
       (∀ k, k ≤ o.nl.toNat → s.buffers c.core (pa k) → ∃ t : State, exec (.cst4 h o) s = .next t ∧
         t.flight = (s.leaves c.fl 1 (predWrites o.p c.run 0)).flight ∧
         (s.memOk = true → ∀ x : Nat, s.plainByte x → ¬s.buffers c.core x → SameByte s t x)) ∧
       ((s.core c.core).wc = [] → ∀ k, k ≤ o.nl.toNat → ¬marked k →
         exec (.cst4 h o) s = .next ((s.leaves c.fl 1 (predWrites o.p c.run 0)).modWave u fun w => { w with c := { w.c with marks := [] } })) ∧
       ((s.core c.core).wc = [] → s.memOk = true → (∀ k, k ≤ o.nl.toNat → marked k ∧ pa k % 128 = 0 ∧ s.sliceDead die (pa k / 128) = false ∧
           ∀ j, j < 128 → s.plainByte (pa k + j)) → (∀ j k, j ≤ o.nl.toNat → k ≤ o.nl.toNat → j ≠ k → pa j ≠ pa k) →
         ∃ t : State, exec (.cst4 h o) s = .next t ∧ t.flight = (s.leaves c.fl 1 (predWrites o.p c.run (BitVec.allOnes 32))).flight ∧
           (∀ k, k ≤ o.nl.toNat → ∀ (l : Fin 32) (j : Nat), j < 4 →
             let x := pa k + 4 * l.val + j
             (c.run.has l = true → t.dieByte die x = clean (((c.w.r.vec (o.d.toNat + k)).get l).extractLsb' (8 * j) 8) ∧ t.llcByte x = t.dieByte die x) ∧
             (c.run.has l = false → t.dieByte die x = s.dieByte die x ∧ t.llcByte x = s.settled c.core x)) ∧
           ∀ x : Nat, (∀ k, k ≤ o.nl.toNat → x / 128 ≠ pa k / 128) → s.viewAt x = none → SameByte s t x ∧ ∀ g, t.l1Byte g x = s.l1Byte g x))) ∧
  (∀ (s : State) (h : Head) (f : FfFmt) (o : LmFmt) (q : QFmt) (c : Ctx), RunsIn s h c →
     let acq := f.kind ≠ 2
     let rel := f.kind ≠ 1
     (∃ t : State, exec (.fence h f) s = .next t ∧ MemoryOnly s t ∧
       t.flight = some { c.fl with refetch := c.fl.refetch || decide (acq ∧ 2 ≤ f.scope.toNat ∧ f.cmask.getLsbD 0 = true) } ∧
       (∀ u, c.fl.owner = .wave u →
         (f.cmask ≠ 0 → ∀ l, l ∈ (t.core c.core).wc → l.classes = 0) ∧
         (rel → 5 ≤ f.scope.toNat → f.cmask ≠ 0 → ∀ line l, t.l2Find (dieOf c.core) line = some l → l.dirty = 0) ∧
         (acq → 3 ≤ f.scope.toNat → f.cmask ≠ 0 → (t.core c.core).l1 = []) ∧
         (f.cmask = 0 → t = { s with flight := t.flight }) ∧
         (f.cmask ≠ 0 → (∀ l, l ∈ (s.core c.core).wc → l.classes ≠ 0) → ∀ x : Nat,
           Released s t c.core (decide (rel ∧ 5 ≤ f.scope.toNat)) x ∧
           (s.memOk = true → s.plainByte x → ¬s.buffers c.core x → s.l2Find (dieOf c.core) (x / 128) = none →
             ∀ g, g ≠ c.core ∨ ¬acq ∨ f.scope.toNat < 3 → t.l1Byte g x = s.l1Byte g x))) ∧
       (∀ l, c.fl.owner = .line l → t = { s with flight := t.flight })) ∧
     (∀ (i : Fin 32) (t : State) (pa mt : Nat), c.run.lowest = some i →
       s.placeAcc c (.mem .mon) (s.priv c.w) { lane := i, va := c.oneAddr o, size := 1, mis := false } = (t, .ok pa mt) →
       exec (.mon h o) s = .next { t.l1Drop c.core (pa / 128) with waves := t.waves.map fun w =>
         if w.uid = c.w.uid then { w with c := { w.c with mon := some (pa / 128), monTrig := false } } else w }) ∧
     (∀ (u : Nat), c.w.pair = some u → ∃ e : QEntry, e.bookend = false ∧
       (∀ k, e.data.get k = if c.run.has k then (c.w.r.vec q.v.toNat).get k else 0) ∧ e.bad = (c.run &&& c.w.r.vecBad q.v.toNat) ∧
       exec (.qpush h q) s = .next (s.modWave u fun w =>
         if (w.window q.q.toNat).length < 8 then w.setWindow q.q.toNat (w.window q.q.toNat ++ [e]) else w)) ∧
     (∀ (e : QEntry) (es : List QEntry), c.w.window q.q.toNat = e :: es →
       exec (.qpop h q) s = .next ((s.leaves c.fl 4 [.v q.v c.run e.data e.bad]).modWave c.w.uid fun w => w.setWindow q.q.toNat es)))

/-! Vector operations of profile D, of the matrix unit, and of the texture and frame-fetch units. -/

/-- vqrot, vproj, vwarp, vextr, vblend, vdisoc, vpxpk and vpxup complete with the writes of their destination run, in each running
lane the real of R408 rounded once (vqrot with its nine matrix elements rounded first), the canonical NaN where an operand is
NaN or infinite, and nothing else is different. mamax and mcvt complete. mamax gives every running lane the scale of the largest
magnitude among them: 255 when one is not finite, 0 when all are zero, else the biased exponent of R338 with the margin, held to
0 to 254. mcvt leaves one rounded word a running lane: in a bit-plane format lanes from the depth on get 0; in e4m3 and e5m2,
under any mode but the stochastic one, the value over the scale of the lowest running lane, rounded, saturating with its sign
(R338, R342, R343). tex, tld, ffet, ffetd, ffetm and fnear complete. tex and tld leave four channels and a status in five
registers of the running lanes, and beyond that change only the levels of memory with the texture caches and filters: they read, and
the only bytes they store are those of surveys, an entry of 16 bytes and TAIL, or DROPS, at the places that the ring's header
names. An invalid descriptor, sampler or coordinate gives zeros and status 7. Of one running lane whose level is resident, tld
returns the channels of the texel as they stand, tex.l the nearest texel or the weighted four, rounded in the order of R370, with
their poison and status 0 (R364, R365, R367 to R372, R374 to R377). A frame fetch leaves 4, 1, 2 or 4 registers, or none
when its record's address is no multiple of 64, and changes only what its line core and the LLC's views hold (R406, R407). -/
def Obligations.DisplayScaleTexture : Prop :=
  (∀ (s : State) (h : Head) (o : VFmt) (c : Ctx), RunsIn s h c →
     let a (n : Nat) (k : Fin 32) : Option Rat := realOf ((c.va o n).get k)
     let b (n : Nat) (k : Fin 32) : Option Rat := realOf ((c.vb o n).get k)
     let q (n : Nat) (k : Fin 32) : Option Rat := realOf ((c.vc o n).get k)
     let each (P : Fin 32 → Prop) : Prop := ∀ k, c.run.has k = true → P k
     let R (x : Rat) : Option Rat := realOf (rne32 (some x))
     let dot (m0 m1 m2 : Rat) (u v w : Rat) : Option Rat :=
       (R m0).bind fun m0 => (R m1).bind fun m1 => (R m2).map fun m2 => m0 * u + m1 * v + m2 * w
     (∃ e0 e1 e2 : Line, WritesRun (.vqrot h o) s c 8 o.d [e0, e1, e2] ∧ each fun k =>
       let ops := [q 0 k, q 1 k, q 2 k, q 3 k, a 0 k, a 1 k, a 2 k]
       RealResult ops (fun | [x, y, z, w, u, v, t] => dot (1 - 2 * (y * y + z * z)) (2 * (x * y - z * w)) (2 * (x * z + y * w)) u v t
                           | _ => none) (e0.get k) ∧
       RealResult ops (fun | [x, y, z, w, u, v, t] => dot (2 * (x * y + z * w)) (1 - 2 * (x * x + z * z)) (2 * (y * z - x * w)) u v t
                           | _ => none) (e1.get k) ∧
       RealResult ops (fun | [x, y, z, w, u, v, t] => dot (2 * (x * z - y * w)) (2 * (y * z + x * w)) (1 - 2 * (x * x + y * y)) u v t
                           | _ => none) (e2.get k)) ∧
     (∃ e0 e1 : Line, WritesRun (.vproj h o) s c 12 o.d [e0, e1] ∧ each fun k =>
       RealResult [q 0 k, a 0 k, a 2 k, q 2 k] (fun | [f, p, z, m] => if z ≤ 0 then none else some (f * p / z + m) | _ => none) (e0.get k) ∧
       RealResult [q 1 k, a 1 k, a 2 k, q 3 k] (fun | [f, p, z, m] => if z ≤ 0 then none else some (f * p / z + m) | _ => none) (e1.get k)) ∧
     (∃ e0 e1 : Line, WritesRun (.vwarp h o) s c 12 o.d [e0, e1] ∧ each fun k =>
       let row (l : List Rat) : Option Rat := match l with
         | [m0, m1, m2, d0, d1, d2, x, y] =>
           if d0 * x + d1 * y + d2 = 0 then none else some ((m0 * x + m1 * y + m2) / (d0 * x + d1 * y + d2))
         | _ => none
       RealResult [q 0 k, q 1 k, q 2 k, q 6 k, q 7 k, q 8 k, a 0 k, a 1 k] row (e0.get k) ∧
       RealResult [q 3 k, q 4 k, q 5 k, q 6 k, q 7 k, q 8 k, a 0 k, a 1 k] row (e1.get k)) ∧
     (∃ e0 e1 : Line, WritesRun (.vextr h o) s c 4 o.d [e0, e1] ∧ each fun k =>
       let mv : Word := (c.vb o).get k
       RealResult [a 0 k, q 0 k, halfOf (mv.extractLsb' 0 16).toNat] (fun | [x, t, m] => some (x + t * m) | _ => none) (e0.get k) ∧
       RealResult [a 1 k, q 0 k, halfOf (mv.extractLsb' 16 16).toNat] (fun | [x, t, m] => some (x + t * m) | _ => none) (e1.get k)) ∧
     (∃ e0 e1 e2 e3 : Line, WritesRun (.vblend h o) s c 4 o.d [e0, e1, e2, e3] ∧ each fun k =>
       let mix (n : Nat) (e : Line) : Prop :=
         RealResult [a n k, b n k, q 0 k] (fun | [x, y, w] => some (x + w * (y - x)) | _ => none) (e.get k)
       mix 0 e0 ∧ mix 1 e1 ∧ mix 2 e2 ∧ mix 3 e3) ∧
     (∃ x : Mask, exec (.vdisoc h o) s = .next (s.leaves c.fl 4 (predWrites (o.d.setWidth 5) c.run x)) ∧ each fun k =>
       (a 0 k = none ∨ b 0 k = none ∨ q 0 k = none → x.has k = true) ∧
       ∀ u v t : Rat, a 0 k = some u → b 0 k = some v → q 0 k = some t →
         (x.has k = true ↔ t * max (absRat u) (absRat v) < absRat (u - v))) ∧
     (∃ e : Line, WritesRun (.vpxpk h o) s c 4 o.d [e] ∧ each fun k =>
       let chan (n top lo : Nat) : Prop := ((e.get k).toNat / 2 ^ lo % (top + 1) : Nat) =
         (match a n k with | none => 0 | some x => saturate (roundInt (x * (top : Rat)) .rne 0) 0 (top : Int) : Int)
       (o.c = 0 → chan 0 255 0 ∧ chan 1 255 8 ∧ chan 2 255 16 ∧ chan 3 255 24) ∧
       (o.c ≠ 0 → chan 0 1023 0 ∧ chan 1 1023 10 ∧ chan 2 1023 20 ∧ chan 3 3 30)) ∧
     (∃ e0 e1 e2 e3 : Line, WritesRun (.vpxup h o) s c 4 o.d [e0, e1, e2, e3] ∧ each fun k =>
       let w : Nat := ((c.va o).get k).toNat
       let chan (e : Line) (top lo : Nat) : Prop := e.get k = rne32 (some (((w / 2 ^ lo % (top + 1) : Nat) : Rat) / (top : Rat)))
       (o.c = 0 → chan e0 255 0 ∧ chan e1 255 8 ∧ chan e2 255 16 ∧ chan e3 255 24) ∧
       (o.c ≠ 0 → chan e0 1023 0 ∧ chan e1 1023 10 ∧ chan e2 1023 20 ∧ chan e3 3 30))) ∧
  (∀ (s : State) (h : Head) (o : VFmt) (c : Ctx), RunsIn s h c →
     let x (k : Fin 32) : FVal := fmF32.read (fzOf c.w.r.mode .f32) ((c.va o).get k).toNat
     let fmt := bits o.c 3 0
     (∃ e : Nat, exec (.mamax h o) s = .next (s.leaves c.fl 4 [.v o.d c.run (Line.fill (BitVec.ofNat 32 e)) 0]) ∧
       ((∃ k, c.run.has k = true ∧ ∀ n v, x k ≠ .num n v) → e = 255) ∧
       ((∀ k, c.run.has k = true → ∃ n, x k = .num n 0) → e = 0) ∧
       (∀ (a : Rat) (f : Int), (∀ k, c.run.has k = true → ∃ n v, x k = .num n v ∧ absRat v ≤ a) →
         (∃ k n v, c.run.has k = true ∧ x k = .num n v ∧ absRat v = a) → pow2 f ≤ a → a < pow2 (f + 1) →
         (e : Int) = saturate (f + (if mIsBp fmt then 128 else if fmt = 2 then 119 else 112) + bits o.c 6 4) 0 254)) ∧
     (∃ (y : Line) (st : Machine.Stoch) (f : BitVec 5), exec (.mcvt h o) s = .next { s with flight := some (c.fl.rounded 4 st f [.v o.d c.run y 0]) } ∧
       (modeOf c.w.r.mode o.md ≠ .rst → st = c.fl.stoch) ∧
       (mIsBp fmt = true → ∀ k, c.run.has k = true → mDepth fmt ≤ k.val → y.get k = 0) ∧
       (∀ (fm : Fm) (j k : Fin 32) (n : Bool) (v : Rat), (fmt = 2 ∧ fm = fmE4m3 ∨ fmt = 3 ∧ fm = fmE5m2) → c.run.lowest = some j →
         c.run.has k = true → modeOf c.w.r.mode o.md ≠ .rst → x k = .num n v → v ≠ 0 →
         let e : Nat := bits ((c.vb o).get j) 7 0
         let r := fm.round (modeOf c.w.r.mode o.md) false 0 (v * pow2 (127 - (e : Int)))
         e ≠ 255 → y.get k = BitVec.ofNat 32 (if r.2 &&& fOF ≠ 0 then fm.signBit n + fm.top else r.1)))) ∧
  (∀ (s : State) (h : Head) (o : TFmt) (q : FdFmt) (c : Ctx), RunsIn s h c →
     let five (t : State) (r g b a st : Line) (m : Fin 4 → Mask) : Prop := t.flight = (s.leaves c.fl 1
       [.v o.d c.run r (m 0), .v (o.d + 1) c.run g (m 1), .v (o.d + 2) c.run b (m 2), .v (o.d + 3) c.run a (m 3),
        .v (o.d + 4) c.run st 0]).flight
     let fetches (i : Instr) (lat n : Nat) : Prop := ∃ (t : State) (ls : List (Line × Mask)), exec i s = .next t ∧
       t = { s with views := t.views, freeCount := t.freeCount, disp := t.disp, flight := t.flight } ∧ (ls = [] ∨ ls.length = n) ∧
       ((c.w.r.sc q.frm.toNat).toNat % 64 ≠ 0 → ls = []) ∧
       t.flight = (s.leaves c.fl lat (ls.zipIdx.map fun e => .v (q.d + BitVec.ofNat 7 e.2) c.run e.1.1 e.1.2)).flight
     let k : Sampled := { core := c.core, slot := s.slotOf c.w, priv := s.priv c.w, ns := bit o.md 1 }
     let invalid (r g b a st : Line) (m : Fin 4 → Mask) (i : Fin 32) : Prop :=
       r.get i = 0 ∧ g.get i = 0 ∧ b.get i = 0 ∧ a.get i = 0 ∧ st.get i = 7 ∧ ∀ n, (m n).has i = false
     let samples (i : Instr) (valid : Prop) : Prop := ∃ (t u : State) (r g b a st : Line) (m : Fin 4 → Mask),
       exec i s = .next t ∧ MemoryOnly s t ∧ five t r g b a st m ∧ t = { u with flight := t.flight } ∧
       ReadsOnly s (s.texDesc c o).1 c.core ∧
       (∀ d, (s.texDesc c o).2 = some d → SampleRun { k with slot := (s.texDesc c o).1.slotOf c.w, priv := (s.texDesc c o).1.priv c.w } d (s.texDesc c o).1 u) ∧
       ((s.texDesc c o).2 = none ∨ ¬valid → u = (s.texDesc c o).1 ∧ ∀ i, c.run.has i = true → invalid r g b a st m i)
     samples (.tex h o) ((Sampler.parse (c.w.r.sc o.smp.toNat)).isSome = true) ∧ samples (.tld h o) True ∧
     (∃ (t : State) (r g b a st : Line) (m : Fin 4 → Mask), exec (.tld h o) s = .next t ∧ five t r g b a st m ∧
       ∀ d i, (s.texDesc c o).2 = some d → c.run.has i = true →
         let x (n : Nat) : Word := (c.w.r.vec (srcNum o.a + n)).get i
         d.lm < (x 2).toNat ∨ (x 0).toInt < 0 ∨ (d.wl (x 2).toNat : Int) ≤ (x 0).toInt ∨ (x 1).toInt < 0 ∨ (d.hl (x 2).toNat : Int) ≤ (x 1).toInt →
         invalid r g b a st m i) ∧
     (∀ (d : TexRes) (i : Fin 32) (s0 s1 s2 : State) (bs : List PByte), c.run = 1#32 <<< i.val → s.texDesc c o = (s0, some d) →
       s0.slotOf c.w = k.slot → s0.priv c.w = k.priv →
       let v (n : Nat) : Word := (c.w.r.vec (srcNum o.a + n)).get i
       let l := (v 2).toNat
       let x := (v 0).toNat
       let y := (v 1).toNat
       let resident : Prop := (d.tail ≤ l ∧ s1 = s0) ∨ (l < d.tail ∧ ∃ b : PByte, b.bad = false ∧ b.v.getLsbD 0 = true ∧
         s0.texRead k false (d.mapByte l (x / d.tw, y / d.th)) 1 = (s1, some [b]))
       l ≤ d.lm → x < 2 ^ 31 → x < d.wl l → y < 2 ^ 31 → y < d.hl l → resident → s1.texRead k true (d.texel l x y) d.bytes = (s2, some bs) →
       ∃ (t : State) (r g b a st : Line) (m : Fin 4 → Mask), exec (.tld h o) s = .next t ∧ five t r g b a st m ∧ t = { s2 with flight := t.flight } ∧
         st.get i = 0 ∧ ∀ n : Fin 4, ChannelIs d.fmt bs n.val ((if n = 0 then r else if n = 1 then g else if n = 2 then b else a).get i) ((m n).has i)) ∧
     (∀ (d : TexRes) (p : Sampler) (i : Fin 32) (s0 s1 s2 : State) (lod u v : Rat) (tap : Tap) (cs : List (List (Word × Bool))),
       c.run = 1#32 <<< i.val → s.texDesc c o = (s0, some d) → s0.slotOf c.w = k.slot → s0.priv c.w = k.priv →
       Sampler.parse (c.w.r.sc o.smp.toNat) = some p → bit o.md 0 = false → p.filt < 2 →
       let arg (n : Nat) : Rat := match fmF32.read false ((c.w.r.vec (srcNum o.a + n)).get i).toNat with | .num _ x => x | _ => 0
       u = arg 0 → v = arg 1 → lod = arg 2 →
       let lam : Int := (256 * lod).floor + p.bias
       let l : Nat := ((min (max lam p.minl) (min (p.maxl : Int) (256 * d.lm)) + 128) / 256).toNat
       let q := wantL d p u v lod
       let coord (md n : Nat) (z : Int) : Nat :=
         (match md with | 0 => z % n | 1 => max 0 (min z (n - 1)) | _ => if z % (2 * n) < n then z % (2 * n) else 2 * n - 1 - z % (2 * n)).toNat
       let near : Tap := { at' := [(coord p.au (d.wl l) (u * (d.wl l : Nat)).floor, coord p.av (d.hl l) (v * (d.hl l : Nat)).floor)], fx := 0, fy := 0 }
       let x8 : Int := max (-(2 ^ 40)) (min (256 * (u * (d.wl l : Nat) - mkRat 1 2)).floor (2 ^ 40))
       let y8 : Int := max (-(2 ^ 40)) (min (256 * (v * (d.hl l : Nat) - mkRat 1 2)).floor (2 ^ 40))
       let xc (z : Int) : Nat := coord p.au (d.wl l) (x8 / 256 + z)
       let yc (z : Int) : Nat := coord p.av (d.hl l) (y8 / 256 + z)
       let weighs : Tap := { at' := [(xc 0, yc 0), (xc 1, yc 0), (xc 0, yc 1), (xc 1, yc 1)], fx := (x8 % 256).toNat, fy := (y8 % 256).toNat }
       s0.mapMiss k d q l = (s1, none) → s1.fetchLevel k d q l = (s2, .inr [(tap, cs)]) →
       tap = (if p.filt = 0 then near else weighs) ∧
       ∃ (t : State) (r g b a st : Line) (m : Fin 4 → Mask), exec (.tex h o) s = .next t ∧ five t r g b a st m ∧ t = { s2 with flight := t.flight } ∧
         st.get i = 0 ∧ ∀ n : Fin 4,
         let out : Word := (if n = 0 then r else if n = 1 then g else if n = 2 then b else a).get i
         let T (e : Nat) : Option Rat := realOf ((cs.getD e []).getD n.val (0, false)).1
         let R (x : Rat) : Option Rat := realOf (rne32 (some x))
         ((m n).has i = cs.any fun e => (e.getD n.val (0, false)).2) ∧
         (p.filt = 0 → ∀ x, T 0 = some x → realOf out = some x) ∧
         (p.filt = 1 → ∀ x0 x1 x2 x3 r0 r1 e, T 0 = some x0 → T 1 = some x1 → T 2 = some x2 → T 3 = some x3 →
           R (x0 * (256 - tap.fx : Nat) + x1 * (tap.fx : Nat)) = some r0 → R (x2 * (256 - tap.fx : Nat) + x3 * (tap.fx : Nat)) = some r1 →
           R ((r0 * (256 - tap.fy : Nat) + r1 * (tap.fy : Nat)) / 65536) = some e → realOf out = some e)) ∧
     (∀ (d : TexRes) (l x y : Nat) (s0 s1 : State) (bs : List PByte), s0.texRead k true (d.texel l x y) d.bytes = (s1, some bs) → d.fmt ≤ 3 →
       ∀ n, n < 4 → ChannelIs d.fmt bs n ((d.channels bs).getD n (0, false)).1 ((d.channels bs).getD n (0, false)).2) ∧
     fetches (.ffet h q) 48 4 ∧ fetches (.ffetd h q) 40 1 ∧ fetches (.ffetm h q) 40 2 ∧ fetches (.fnear h q) 40 4) ∧
  (∀ (s : State) (k : Sampled) (r : TexRes) (l : Nat) (tile : Nat × Nat) (code : Nat), s.memOk = true → s.calm k.core →
     let t := s.survey k r l tile code
     let key : SurveyKey := { core := k.core, rid := r.rid, level := l, tx := tile.1, ty := tile.2 }
     let none' : Prop := ∀ x : Nat, t.llcByte x = s.llcByte x
     let h := s.checkVa k.core k.slot k.priv .load 64 false r.ring
     t.calm k.core ∧ (k.ns = true ∨ r.ring = 0 ∨ key ∈ s.tex.survey ∨ r.ring.toNat % 64 ≠ 0 → t = s) ∧ ((∀ pa mt, h.2 ≠ .ok pa mt) → none') ∧
     (∀ pa mt, h.2 = .ok pa mt → s.range pa = .mem → k.ns = false → r.ring ≠ 0 → key ∉ s.tex.survey → r.ring.toNat % 64 = 0 → pa % 64 = 0 →
       let p := (linesOf pa 64).foldl (fun s n => (s.purgeLine n).touchView n) h.1
       let w (n : Nat) : Dword := s.llcWord (pa + 8 * n)
       let good : Prop := anyBad (s.llcBytes pa 64) = false ∧ (w 1).extractLsb' 5 59 = 0 ∧ w 5 = 0 ∧ w 6 = 0 ∧ w 7 = 0 ∧ 4 ≤ (w 1).toNat % 32 ∧ (w 1).toNat % 32 ≤ 20
       let size := 2 ^ ((w 1).toNat % 32)
       let ea : Dword := w 0 + BitVec.ofNat 64 (16 * ((w 3).toNat % size))
       let wh := p.checkVa k.core k.slot k.priv .store 64 false r.ring
       let e := wh.1.checkVa k.core k.slot k.priv .store 16 (bits ea 3 0 != 0) ea
       let word : Nat := r.rid.toNat + 2 ^ 32 * (l % 16) + 2 ^ 36 * code + 2 ^ 40 * (tile.1 % 4096) + 2 ^ 52 * (tile.2 % 4096)
       (∀ i, i < 64 → s.plainByte (pa + i)) →
       (¬good ∨ (∀ a m, wh.2 ≠ .ok a m) → none') ∧
       (good → ∀ a m, wh.2 = .ok a m → size ≤ (w 3 - w 2).toNat → 
         ∀ x : Nat, s.viewAt x = none → t.llcByte x = if inWord (pa + 0x20) x then clean ((w 4 + 1).extractLsb' (8 * (x - pa - 0x20)) 8) else s.llcByte x) ∧
       (good → ∀ a m, wh.2 = .ok a m → (w 3 - w 2).toNat < size → (∀ b n, e.2 ≠ .ok b n) → none') ∧
       (good → ∀ a m b n, wh.2 = .ok a m → (w 3 - w 2).toNat < size → e.2 = .ok b n → s.range b = .mem → b % 16 = 0 → code < 4 →
         (∀ i, i < 16 → s.plainByte (b + i)) → b + 16 ≤ pa ∨ pa + 64 ≤ b →
         t.tex.survey.getLast? = some key ∧ ∀ x : Nat, s.viewAt x = none → t.llcByte x =
           if inWord b x then clean (BitVec.ofNat 8 (word / 256 ^ (x - b)))
           else if inWord (b + 8) x then clean ((w 3 + 1).extractLsb' (8 * (x - b - 8)) 8)
           else if inWord (pa + 0x18) x then clean ((w 3 + 1).extractLsb' (8 * (x - pa - 0x18)) 8) else s.llcByte x)))


/-! The E and X slots of line cores. -/

/-- The operations of a line core with a run complete (R385 to R387, R391, R397, R402 to R405, R409 to R411). hemit and hfill write their
segments when every condition of R403 holds and set the predicate in every thread, else only clear it; pget and dqpop, once
their instant has passed, give a pose and copy a record; dqdone ends the use of the run's record; atlset queues entries for the next
group; lbar and lwait go on once nothing is awaited; rdbeam gives the beam's line, the cycles to a deadline or the display cycle;
an X-slot operation joins its core's queue. Before its instant, with commands pending or with a full queue, an operation stalls
the core: it runs again when the wait is over (the model's reading: log entry 68; an atlas byte that is poisoned reads as zero by log entry 127). -/
def Obligations.LineOperations : Prop :=
  ∀ (s : State) (h : Head) (o : YgFmt) (q : XdFmt) (c : Ctx) (l : LineCtx), RunsIn s h c → s.lineCtx c = some l →
    let a := c.w.r.sc o.a.toNat
    let b := c.w.r.sc o.b.toNat
    let y := bits a 15 0
    let x0 := bits a 31 16
    let W := l.head.width
    let f := l.run.frame
    let pred (lat : Nat) (v : Bool) : State → State := fun t =>
      t.leaves c.fl lat (predWrites (o.imm.setWidth 5) (BitVec.allOnes 32) (if v then BitVec.allOnes 32 else 0))
    let stalls (i : Instr) (w : LineWait) : Prop := exec i s = .next (({ s with flight := none }).modLine l.k fun z =>
      { z with wait := some w, susp := some { c.fl with todo := c.fl.cur :: c.fl.todo } })
    let fits (x1 : Nat) : Prop := l.run.first ≤ y ∧ y < l.run.first + l.run.lines ∧ x0 % 32 = 0 ∧ x0 < x1 ∧ x0 < W ∧
      l.at' ≤ l.head.deadline f y - 2
    let fresh := ∀ z, z ∈ (s.head l.run.head).lines → ¬ (z.frame = f ∧ z.line = y)
    let draws (i : Instr) (pix : Nat → Option Word) : Prop := ∃ t : State, exec i s = .next t ∧
      t = { s with disp := { s.disp with heads := t.disp.heads }, flight := t.flight } ∧ t.flight = (pred 2 true s).flight ∧
      (fresh → ∃ z : LineBuf, z ∈ (t.head l.run.head).lines ∧ z.frame = f ∧ z.line = y ∧
        ∀ p v, pix p = some v → lookKey 0 p z.pixels = v)
    let ok1 := bits a 63 32 = 0 ∧ fits (x0 + 32)
    let ok2 := bits a 63 48 = 0 ∧ fits (bits a 47 32)
    let last := 32 * ((min (bits a 47 32) W + 31) / 32)
    (ok1 → draws (.hemit h o) fun p => if x0 ≤ p ∧ p < x0 + 32 ∧ p < W then some ((c.w.r.vec o.d.toNat).get (Fin.ofNat 32 (p - x0))) else none) ∧
    (¬ ok1 → exec (.hemit h o) s = .next (pred 2 false s)) ∧
    (ok2 → draws (.hfill h o) fun p => if x0 ≤ p ∧ p < last ∧ p < W then some (b.extractLsb' 0 32) else none) ∧
    (¬ ok2 → exec (.hfill h o) s = .next (pred 2 false s)) ∧
    (let give (p : Option Pose) : Prop := exec (.pget h o) s = .next (s.leaves c.fl 4
        ((List.range 8).map (fun k => RegWrite.s (o.d.setWidth 6 + BitVec.ofNat 6 k) ((p.map fun z => wd z.words k).getD 0) 0) ++
          predWrites (o.imm.setWidth 5) (BitVec.allOnes 32) (if p.isSome then BitVec.allOnes 32 else 0)))
     (bits a 63 16 ≠ 0 → give none) ∧
     (bits a 63 16 = 0 → l.head.latchAt f y < (s.dcycle : Int) → give (l.head.poses.find? fun p => p.line == l.head.lineNo f y)) ∧
     (bits a 63 16 = 0 → (s.dcycle : Int) ≤ l.head.latchAt f y → stalls (.pget h o) (.past (l.head.latchAt f y)))) ∧
    (∀ r : Option PresRec, r = (l.head.cur.bind fun k => l.head.queue.find? fun p => p.order == k) →
      (∀ p, r = some p → p.words.length = 8) → l.head.latchAt f 0 < (s.dcycle : Int) → exec (.dqpop h o) s = .next (pred 8 r.isSome (s.modLine l.k fun z => { z with
        bufPend := z.bufPend ++ (List.range 64).map fun j => (l.line.cnt + c.fl.cur.1 + 7, a.toNat + j,
          clean ((match r with | some p => wd p.words (j / 8) | none => 0).extractLsb' (8 * (j % 8)) 8)),
        run := z.run.map fun g => { g with popped := r.map fun p => p.order } }))) ∧
    ((s.dcycle : Int) ≤ l.head.latchAt f 0 → stalls (.dqpop h o) (.past (l.head.latchAt f 0))) ∧
    (∃ (t : State) (pre : List PresRec), exec (.dqdone h o) s = .next t ∧ t.flight = s.flight ∧
      (t.line l.k).run = some { l.run with popped := none } ∧ (s.head l.run.head).queue = pre ++ (t.head l.run.head).queue ∧
      ∀ p, p ∈ pre → p.removed = true ∨ p.used = true) ∧
    (let n := min (bits b 26 16) (1024 - bits b 9 0)
     (n = 0 ∨ bits b 15 10 ≠ 0 ∨ bits b 63 27 ≠ 0 → exec (.atlset h o) s = .next s) ∧
     (n ≠ 0 → bits b 15 10 = 0 → bits b 63 27 = 0 → (∀ k, k < n → s.range (a.toNat + 8 * k) = .mem) →
      ∃ t : State, exec (.atlset h o) s = .next t ∧ t = { s with views := t.views, disp := t.disp } ∧
        t.line l.k = { s.line l.k with base := (s.line l.k).base + n, atlasNext := (s.line l.k).atlasNext ++ (List.range n).map fun k =>
          (bits b 9 0 + k, if anyBad (s.llcBytes (a.toNat + 8 * k) 8) then 0 else s.llcWord (a.toNat + 8 * k)) })) ∧
    (if l.line.xq = [] then exec (.lbar h o) s = .next s else stalls (.lbar h o) .lbar) ∧
    (if l.head.scanAt f y < (s.dcycle : Int) then exec (.lwait h o) s = .next s else stalls (.lwait h o) (.past (l.head.scanAt f y))) ∧
    (∃ v : Dword, exec (.rdbeam h o) s = .next (s.leaves c.fl 2 [.s (o.d.setWidth 6) v 0]) ∧
      (o.imm = 0 → 0 < l.head.ltime → ∃ n : Int, l.head.start n ≤ l.at' ∧ l.at' < l.head.start (n + 1) ∧
        v = BitVec.ofInt 64 (n.fmod l.head.vtot + 65536 * ((l.head.baseFrame + n.fdiv l.head.vtot : Int).fmod (2 ^ 48)))) ∧
      (o.imm = 1 → v = BitVec.ofInt 64 (l.head.deadline f y - l.at')) ∧ (o.imm = 2 → v = BitVec.ofInt 64 l.at')) ∧
    (∀ i : Instr, i ∈ [Instr.xcfg h q, .xwld h q, .xmma h q, .xact h q, .xdrain h q, .xzero h q] →
      if l.line.xq.length < 8 then
        exec i s = .next (s.modLine l.k fun z => { z with xq := z.xq ++ [{ op := i, addr := (c.w.r.sc q.s.toNat).toNat }] })
      else stalls i .xroom)

/-! Commands handed to engines; tasks, draws and sections. -/

/-- Engine commands complete by being handed on (R53, R289, R292, R293, R321, R381, R474, R477): each takes its run of scalars from
s[A] and for each consumed token its status or the pending register, joins the queue of its engine on the wave's core, and
leaves its token register pending; nothing else is different. xmit and isel are started at once when no token is awaited; coll
takes its live count; dlaunch takes an entry of the group's bench, and with .nb answers a full bench with status 0x84, reason 8,
and a false predicate (R304, R305). fork, join, emit, emit.retest, emit.close, barc and barc.close complete. fork and join leave
every register as it is and change the levels of memory and, by at most one record, the queued continuations. Where nothing waits to
reach the LLC, the header has room, and the accesses lie where the group's check has placed them (the model's choice of checks: log
entry 50), fork writes the record's address at RING + 8 (TAIL mod 2^LOG2) and TAIL + 1, and join writes COUNT − 1 and, when that
is 0, pushes so; the record comes last, and every other byte reads as before (R309, R311). The emits hand one request
to the cull unit of the issuing die and release to the package, which stores nothing new; the record is opened on the die if it is
not open there, and a close of a closed draw is ignored (R351, R356). barc releases at
cluster scope and waits in its threads (R472). -/
def Obligations.CommandsAndTasks : Prop :=
  (∀ (s : State) (h : Head) (o : EFmt) (c : Ctx), RunsIn s h c →
     let cmd (i : Instr) (n : Nat) (banks : List Nat) (more : List Nat) : Cmd :=
       { uid := s.nextUid, wave := c.w.uid, group := c.w.group, core := c.core, op := i,
         run := (List.range n).map fun j => c.w.r.sc (o.a.toNat + j), td := o.td,
         deps := ([o.t1, o.t2, o.t3].take o.tn.toNat).map fun t =>
           if c.w.c.tokPend.getLsbD t.toNat then Dep.pending t else .status (c.w.r.sc t.toNat),
         banks, prog := 0, aux := [c.fl.pc.toNat, c.addr.toNat] ++ more, started := false, priv := s.priv c.w }
     let u : State := { s with nextUid := s.nextUid + 1, flight := some { c.fl with pend := c.fl.pend ||| (1#64 <<< o.td.toNat) } }
     let copies (i : Instr) (n : Nat) : Prop := ∃ banks, exec i s =
       .next (u.modCore c.core fun x => { x with copyQ := x.copyQ ++ [cmd i n banks []] })
     let matrix (i : Instr) (n : Nat) : Prop := ∃ banks, exec i s =
       .next (u.modCore c.core fun x => { x with matQ := x.matQ ++ [cmd i n banks []] })
     let syncs (i : Instr) (n : Nat) : Prop := exec i s =
       .next (u.modCore c.core fun x => { x with syncQ := x.syncQ ++ [cmd i n [] []] })
     let opens (i : Instr) : Prop := ∃ (t : State) (d : Cmd) (banks : List Nat), exec i s = .next t ∧ t.flight = u.flight ∧
       t = { u with cores := t.cores, fab := t.fab } ∧ d ∈ (t.core c.core).copyQ ∧
       { d with started := false, aux := (cmd i 2 banks []).aux } = cmd i 2 banks []
     (copies (.copy h o) (3 + bits o.md 1 0) ∧ copies (.gather h o) 4 ∧ copies (.scatter h o) 4 ∧ copies (.pref h o) 2 ∧
       copies (.fill h o) 3 ∧ copies (.cflush h o) 2 ∧ copies (.cinv h o) 2 ∧ copies (.send h o) 2 ∧ copies (.recv h o) 1) ∧
     (matrix (.mcfg h o) 1 ∧ matrix (.mcfgQ h o) 1 ∧ matrix (.mshelf h o) 3 ∧ matrix (.mloop h o) 4 ∧ matrix (.mstep h o) 4 ∧
       matrix (.mzero h o) 1 ∧ matrix (.mrot h o) 2 ∧ matrix (.mdrain h o) 3 ∧ matrix (.mscale h o) 1 ∧ matrix (.mhistClear h o) 2 ∧
       matrix (.mhistRead h o) 2 ∧ matrix (.mhistPush h o) 2 ∧ matrix (.mget h o) 2 ∧ matrix (.mput h o) 2) ∧
     (syncs (.mapsync h o) 2 ∧ syncs (.present h o) 2 ∧ syncs (.enq h o) 2) ∧
     (opens (.xmit h o) ∧ opens (.isel h o)) ∧
     (∃ live : Nat, exec (.coll h o) s = .next (({ u with seq := s.seq + 1 } : State).modCore c.core fun x =>
       { x with copyQ := x.copyQ ++ [cmd (.coll h o) 3 [] [live, s.seq]] })) ∧
     (∀ g : Group, s.group? c.w.group = some g →
       let nb := o.md.getLsbD 5 = true
       let p : BitVec 5 := o.md.setWidth 5
       let entered : State := u.modGroup c.w.group fun z => { z with bench := z.bench ++ [cmd (.dlaunch h o) 1 [] []] }
       (g.bench.length < 4 → ¬ nb → exec (.dlaunch h o) s = .next entered) ∧
       (g.bench.length < 4 → nb → exec (.dlaunch h o) s =
         .next (entered.leaves { c.fl with pend := c.fl.pend ||| (1#64 <<< o.td.toNat) } 1 (predWrites p c.run (BitVec.allOnes 32)))) ∧
       (4 ≤ g.bench.length → nb → exec (.dlaunch h o) s = .next (s.leaves c.fl 1 (.s o.td 0x884 0 :: predWrites p c.run 0))))) ∧
  (∀ (s : State) (h : Head) (o : YgFmt) (c : Ctx), RunsIn s h c →
     let hdr := c.w.r.sc o.a.toNat
     let rcd := c.w.r.sc o.b.toNat
     let die := dieOf c.core
     let slot := s.slotOf c.w
     let pushes (t : State) : Prop := t.seq = s.seq + 1 ∧
       t.conts = s.conts ++ [{ slot, header := hdr, rcd, seq := s.seq + 1, region := s.regionOf c.w }]
     let tasks (i : Instr) : Prop := ∃ t : State, exec i s = .next t ∧ t.flight = s.flight ∧
       MemoryOnly s { t with conts := s.conts, seq := s.seq } ∧ ((t.conts = s.conts ∧ t.seq = s.seq) ∨ pushes t)
     let released (t : State) : Prop := ∀ x : Nat, (∀ l, l ∈ (s.core c.core).wc → l.classes ≠ 0) → Released s t c.core true x
     let emits (i : Instr) (kind : Nat) (meshlet : Dword) : Prop := ∃ t : State, exec i s = .next t ∧ t.flight = s.flight ∧
       MemoryOnly s { t with culls := s.culls, draws := s.draws, nextUid := s.nextUid } ∧ released t ∧
       let ignored : Prop := kind = 2 ∧ s.drawClosed slot rcd = true
       let req : CullReq :=
         { slot, kind, meshlet, draw := rcd, region := s.regionOf c.w, priv := s.priv c.w, gcore := c.core, wave := c.w.uid }
       let fresh : Draw :=
         { uid := s.nextUid, die, slot, addr := rcd, region := s.regionOf c.w, priv := s.priv c.w, words := [], tris := [], closed := false,
           grid := none, finals := [], dsc := [] }
       let isOpen : Prop := ∃ d, d ∈ s.draws ∧ d.die = die ∧ d.slot = slot ∧ d.addr = rcd ∧ d.isOpen = true
       (ignored → t.culls = s.culls ∧ t.draws = s.draws ∧ t.nextUid = s.nextUid) ∧
       (¬ignored → (t.cull die).queue = (s.cull die).queue ++ [req] ∧
         (∀ k, k ≠ die → (t.cull k).queue = (s.cull k).queue) ∧
         (isOpen → t.draws = s.draws ∧ t.nextUid = s.nextUid) ∧
         (¬isOpen → t.nextUid = s.nextUid + 1 ∧ t.draws = s.draws ++ [fresh] ∧ t.drawClosed slot rcd = false))
     let waits (i : Instr) (form : BitVec 2) : Prop := ∃ (r : State) (q : WaitReq), r = s.fenceCore c.core false true 3 (BitVec.allOnes 16) ∧
       q.m = c.run ∧ q.kind = .barc ∧ q.vform = form ∧
       exec i s = .next { r with flight := some { c.fl with waits := c.fl.waits ++ [q] } }
     tasks (.fork h o) ∧ (s.rep.state = 0 → tasks (.join h o)) ∧
     (∀ (tp pa : Nat), s.agrees c.core → s.memOk = true → tp % 64 = 0x18 → (∀ r : State, r.headerAcc c hdr = (r, .inr tp)) →
       let q := s.queueAt c.core tp
       q.full = false → (∀ r : State, r.taskAcc c .store false q.at' = (r, .inr pa)) → s.word8 tp q.tail.toNat →
       (∀ i, i < 128 → s.plainByte (128 * (pa / 128) + i)) → pa % 128 + 8 ≤ 128 → pa + 8 ≤ tp ∨ tp + 8 ≤ pa →
       (∃ t : State, exec (.fork h o) s = .next t ∧ t.flight = s.flight ∧ pushes t ∧
         WordsWritten s t [(pa, rcd.toNat), (tp, (q.tail.toNat + 1) % 2 ^ 64)]) ∧
       ∀ (np n : Nat), n < 2 ^ 64 → s.rep.state = 0 → (∀ r : State, r.taskAcc c .atom false (rcd + 0x10) = (r, .inr np)) → s.word8 np n →
         np / 128 ≠ tp / 128 → np + 8 ≤ pa ∨ pa + 8 ≤ np →
         (n ≠ 1 → ∃ t : State, exec (.join h o) s = .next t ∧ t.flight = s.flight ∧ t.conts = s.conts ∧ t.seq = s.seq ∧
           WordsWritten s t [(np, (n + 2 ^ 64 - 1) % 2 ^ 64)]) ∧
         (n = 1 → ∃ t : State, exec (.join h o) s = .next t ∧ t.flight = s.flight ∧ pushes t ∧
           WordsWritten s t [(np, 0), (pa, rcd.toNat), (tp, (q.tail.toNat + 1) % 2 ^ 64)])) ∧
     emits (.emit h o) 0 hdr ∧ emits (.emitRetest h o) 1 hdr ∧ emits (.emitClose h o) 2 0 ∧
     waits (.barc h o) 0 ∧ waits (.barcClose h o) 1)

/-! Groups: their issue, their prepared targets, and their end. -/

/-- A group ends with its transfer, and only then do its register writes appear (R22, R26): a running thread goes to the target of
the first test of the tree that holds for it, else where a call, a return or a loop sends it, else past the group's last bundle; tests read the
predicates from before the group. R36 runs on each thread's own next PC, and the changes of the loop stack are those of the lowest thread that
goes on (R37, R92 to R94; where the lowest issuing thread exits this is the model's choice, log entry 98; a control operation beside a barrier is log
entry 117). A thread that exits keeps its exit address (R95). A thread that reaches its meeting address is held while a
sibling with that meeting register is elsewhere, and released with its register cleared when none is left (R121, R191); two meets of a group are log
entry 123. A waiting thread waits as bar, vote, sleep, wait and barc say, and a generation that completes lets its threads run three cycles later
(R193, R196, R197, R285, R472). A trap that takes effect stops the wave with the PCs as they were and names the group, the next PCs and the threads
(R419 to R421). The deferred writes reach the registers in order; flags cleared and raised, the mode, the draws and the pending tokens follow
(R85 to R87, R145, R289). Memory and the registers of every other wave are unchanged. On a line core thread 0 decides for every
thread, and the counted cycles grow by the group's bundles (R383, R397); an exit ends its run. -/
def Obligations.GroupEnd : Prop :=
  ∀ (s : State) (fl : Flight) (w : Wave) (t : Tree), s.flight = some fl → s.owner fl.owner = some w → fl.bundles ≠ [] →
    let holds (e : Test) (i : Fin 32) : Prop := w.r.pred e.pred.toNat i ≠ e.neg
    let goesTo (i : Fin 32) (pc : Dword) : Prop :=
      (∀ (n : Nat) (e : Test), t.tests[n]? = some e → holds e i → (∀ (m : Nat) (d : Test), m < n → t.tests[m]? = some d → ¬ holds d i) → pc = btAddr (w.r.bt e.bt.toNat)) ∧
      ((∀ e, e ∈ t.tests → ¬ holds e i) → pc = fl.pc + BitVec.ofNat 64 (64 * fl.bundles.length))
    let ended (r : Regs) : Regs :=
      { r with flags := (r.flags &&& ~~~fl.cleared) ||| fl.raised, mode := fl.mode.getD r.mode, stoch := fl.stoch }
    let plain : Prop := fl.trap = none ∧ fl.waits = [] ∧ fl.meets = [] ∧ fl.kills = [] ∧ fl.stochW = [] ∧ fl.ctl = .none ∧ w.r.loops = []
    let last : Dword := fl.pc + BitVec.ofNat 64 (64 * (fl.bundles.length - 1))
    let at0 : Nat := s.cycle + (fl.bundles.length - 1)
    let gone (i : Fin 32) : Prop := fl.exitsIn i
    let goes (i : Fin 32) : Prop := fl.lanes.has i = true ∧ ¬gone i
    let lowest (i : Fin 32) : Prop := goes i ∧ ∀ j, j < i → ¬goes j
    let follows (i : Fin 32) (pc : Dword) (st : List LoopEntry) : Prop :=
      ∃ p taken back, fl.LeavesTo w.r t i p taken ∧ LoopRule taken last 4 p (fl.stackFor w.r) pc st back
    (plain → ∀ u, fl.owner = .wave u → fl.lanes ≠ 0 → (∀ i, fl.lanes.has i = true → (w.threads.get i).st = .runnable) → w.c.stepOnce = false →
      ∃ (z : State) (v : Wave), exec (.br t) s = .next z ∧ z.flight = none ∧ z.wave? u = some v ∧
        (∀ i, fl.lanes.has i = true → goesTo i (v.threads.get i).pc) ∧
        (∀ i, fl.lanes.has i = false → (v.threads.get i).pc = (w.threads.get i).pc) ∧
        v.r = ended ((fl.writes.map fun x => x.w).foldl Regs.write w.r) ∧ v.c.tokPend = w.c.tokPend ||| fl.pend ∧
        z.mem = s.mem ∧ z.memBad = s.memBad ∧ z.disp = s.disp ∧ z.fault = s.fault ∧ z.sys = s.sys ∧
        (∀ x y, x ≠ u → s.wave? x = some y → y.group ≠ w.group → w.pair ≠ some x → z.wave? x = some y)) ∧
    (plain → ∀ k, fl.owner = .line k → (∀ r, (s.line k).run = some r → r.closing = false) →
      ∃ (z : State) (v : Wave), exec (.br t) s = .next z ∧ z.flight = none ∧ (z.line k).wave = some v ∧
      (∀ i, goesTo 0 (v.threads.get i).pc) ∧ v.r = ended w.r ∧ (z.line k).cnt = (s.line k).cnt + fl.bundles.length ∧
      (z.line k).pend = (s.line k).pend ++ fl.writes.map (fun x => { cycle := (s.line k).cnt + x.lat, w := x.w }) ∧
      z = { s with flight := none, disp := { s.disp with lines := z.disp.lines } } ∧ ∀ j, j ≠ k → z.line j = s.line j) ∧
    (∀ u, fl.owner = .wave u → fl.trap = none → (∃ i, goes i) → (∀ i, fl.lanes.has i = true → (w.threads.get i).st = .runnable) →
      let meets (i : Fin 32) : Dword :=
        if fl.lanes.has i = true then fl.meets.foldl (fun (a : Dword) e => if e.1.has i then e.2.getD i.val a else a) (w.threads.get i).meet
        else (w.threads.get i).meet
      ∃ (z : State) (v : Wave) (pc : Fin 32 → Dword) (st : Fin 32 → List LoopEntry), exec (.br t) s = .next z ∧ z.flight = none ∧ z.wave? u = some v ∧
        (∀ i, goes i → follows i (pc i) (st i) ∧ (v.threads.get i).pc = pc i) ∧
        (∀ i, lowest i → v.r.loops.map LoopEntry.bounds = (st i).reverse.map LoopEntry.bounds) ∧
        (∀ m a i, fl.ctl = .exit m a → gone i → (v.threads.get i).st = .exited ∧ (v.threads.get i).pc = a) ∧
        (∀ i, fl.lanes.has i = false → ¬gone i → (v.threads.get i).pc = (w.threads.get i).pc) ∧
        (fl.kills = [] → fl.stochW = [] → fl.waits = [] → fl.ctl ≠ .exit fl.exits.1 fl.exits.2 →
          v.r = ended { (fl.writes.map fun x => x.w).foldl Regs.write w.r with loops := v.r.loops } ∧ v.c.tokPend = w.c.tokPend ||| fl.pend) ∧
        (fl.waits = [] →
          let held (i : Fin 32) (x : Dword) : Prop :=
            (fl.lanes.has i = false ∧ ¬gone i ∧ (w.threads.get i).st = .held ∧ (w.threads.get i).pc = x) ∨
            (goes i ∧ meets i = x ∧ x ≠ 0 ∧ pc i = x)
          let out (j : Fin 32) (x : Dword) : Prop := ¬gone j ∧ (w.threads.get j).st ≠ .exited ∧ ¬held j x ∧ meets j = x
          (∀ i, goes i → ¬held i (meets i) → (v.threads.get i).st = .runnable ∧ (v.threads.get i).meet = meets i) ∧
          ∀ i x, held i x → ((∃ j, out j x) → (v.threads.get i).st = .held) ∧
            ((∀ j, ¬out j x) → (v.threads.get i).st = .runnable ∧ (v.threads.get i).meet = 0 ∧ (v.threads.get i).pc = x)) ∧
        (∀ q i, fl.waits = [q] → goes i → q.m.has i = true →
          let waiting (y : Wave) (j : Fin 32) : Prop := (y.threads.get j).st = .waiting ∧ ((y.threads.get j).wkind = .bar ∨ (y.threads.get j).wkind = .vote)
          let arrives (j : Fin 32) : Prop := (goes j ∧ q.m.has j = true) ∨ (fl.lanes.has j = false ∧ waiting w j)
          let quiet : Prop := fl.kills = [] ∧ w.isActive = true ∧ w.holds 132 = true ∧ w.owed = [] ∧ q.pd ≠ 0
          (q.kind = .sleep → q.cycles ≠ 0 → (v.threads.get i).st = .waiting ∧ (v.threads.get i).wkind = .sleep ∧
            (v.threads.get i).wend = BitVec.ofNat 48 (at0 + q.cycles + 1)) ∧
          (q.kind = .wait ∨ q.kind = .waitLim →
            (w.c.mon = none → (v.threads.get i).st ≠ .waiting ∧ (quiet → v.r.pred q.pd.toNat i = false)) ∧
            (w.c.mon ≠ none → w.c.monTrig = true → (v.threads.get i).st ≠ .waiting ∧ v.c.mon = none ∧ (quiet → v.r.pred q.pd.toNat i = true)) ∧
            (w.c.mon ≠ none → w.c.monTrig = false → (v.threads.get i).st = .waiting ∧ (v.threads.get i).wkind = q.kind)) ∧
          (q.kind = .barc → (v.threads.get i).st = .waiting ∧ (v.threads.get i).wkind = .barc) ∧
          (q.kind = .bar ∨ q.kind = .vote → w.surveyor = false →
            ((∃ j, (w.threads.get j).st ≠ .exited ∧ ¬gone j ∧ ¬arrives j) → (v.threads.get i).st = .waiting ∧ (v.threads.get i).wkind = q.kind ∧
              (q.kind = .vote → (v.threads.get i).vval = q.votes.has i ∧ (v.threads.get i).vform = q.vform ∧ (v.threads.get i).wpd = q.pd)) ∧
            ((∀ j, (w.threads.get j).st ≠ .exited → gone j ∨ arrives j) →
              (∀ y, y ∈ s.waves → y.group = w.group → y.surveyor = false → y ≠ w → ∀ j, (y.threads.get j).st = .exited ∨ waiting y j) →
              (v.threads.get i).st = .runnable ∧ v.wakeAt = at0 + 3)))) ∧
    (∀ u q, fl.owner = .wave u → fl.trap = some q → (q.code ≠ 0x0B ∨ s.armedFor (s.slotOf w) = false) → w.c.stopped = false → fl.waits = [] →
      (∀ m a, fl.ctl ≠ .exit m a) → (∀ i, fl.lanes.has i = true → (w.threads.get i).st = .runnable) → (∃ i, goes i) →
      ∃ (z : State) (v : Wave) (pc : Fin 32 → Dword) (st : Fin 32 → List LoopEntry), exec (.br t) s = .next z ∧ z.flight = none ∧ z.wave? u = some v ∧ v.c.stopped = true ∧
        (∀ i, goes i → follows i (pc i) (st i)) ∧ (∀ i, (v.threads.get i).pc = (w.threads.get i).pc ∧ ((w.threads.get i).st ≠ .waiting → (v.threads.get i).st = (w.threads.get i).st)) ∧
        (∀ i, lowest i → v.r.loops.map LoopEntry.bounds = (st i).reverse.map LoopEntry.bounds) ∧
        (fl.kills = [] → fl.stochW = [] → v.r = ended { (fl.writes.map fun x => x.w).foldl Regs.write w.r with loops := v.r.loops }) ∧
        (s.ringRoom = false → ∃ r : FaultRec, z.fault.waiting = s.fault.waiting ++ [r] ∧ r.code = q.code ∧ r.kind = 0 ∧ r.wave = some u ∧ r.pc = fl.pc ∧
          r.lanes = q.m ∧ r.addr = q.addr ∧ r.info = q.info ∧ (∀ i, goes i → q.m = 1#32 <<< i.val → r.next = pc i) ∧
          ∀ i : Fin 32, r.nexts[i.val]? = some (if fl.lanes.has i = true then some (pc i) else none))) ∧
    (∀ k, fl.owner = .line k → fl.trap = none → fl.exits.1 = 0 → (∀ r, (s.line k).run = some r → r.closing = false) →
      ∃ (z : State) (v : Wave) (pc : Dword) (st : List LoopEntry), exec (.br t) s = .next z ∧ z.flight = none ∧ (z.line k).wave = some v ∧
        follows 0 pc st ∧ (∀ i, (v.threads.get i).pc = pc) ∧ v.r.loops.map LoopEntry.bounds = st.reverse.map LoopEntry.bounds ∧
        (z.line k).cnt = (s.line k).cnt + fl.bundles.length) ∧
    (∀ k run, fl.owner = .line k → fl.trap = none → fl.exits.1 ≠ 0 → (s.line k).run = some run →
      ∃ z : State, exec (.br t) s = .next z ∧ z.flight = none ∧ (z.line k).wave = none ∧ (z.line k).run = none)

/-- A group issues (R20, R118, R123, R124): while a group is in flight, or the core may not select yet, nothing does. A wave that is
selected lies on the core and is ready, and is the one at the pointer if that one is ready. When its bundles are at hand and
every check lets the group go, the group is in flight in the threads of its current PC group, its operations in the order of
R61, the pointer has moved on and the core is busy for as many cycles as the group has bundles; no register is different. A group
with an illegal slot or header, or without a closing bundle, takes trap 0x01, one in which two operations, a port or the tree share
a register that one of them writes takes trap 0x02 (R20, R23, R24, R58 to R60); one that would consume poison takes trap 0x08, and one whose first
access fails a check takes the trap of the lowest-numbered check with the threads in which it fails, or parks (R266, R437); nothing
of such a group takes effect and its wave stops (R419 to R421). A fill,
on a compute core and on a line core, reads its next bundle at the address after the last, and stops for good where a bundle
cannot be fetched (R30, R31); that each bundle of a fill arrives a cycle after the one before is log entry 15, for R31 gives that latency
for hits of L1 alone, and that a compute core's fill keeps no fault is log entry 116. -/
def Obligations.GroupIssue : Prop :=
  (∀ (s : State) (g : Nat),
     (s.flight ≠ none ∨ (s.rep.waiting = [] ∧ s.rep.state ≠ 2 ∧ s.cycle < (s.core g).free) → exec (.issueGroup (.core g)) s = .next s) ∧
     (∀ w, s.selectWave g = some w → w ∈ s.waves ∧ s.coreOf w = g ∧ w.isActive = true ∧ w.cur ≠ 0 ∧ w.c.stopped = false ∧
       ∀ v ts, v ∈ s.waves → s.coreOf v = g → v.isActive = true → v.slot = s.pointerNow g → s.readiness v = .go ts → w.slot = v.slot) ∧
     (∀ w bs ops ps, s.flight = none → s.rep.waiting = [] → s.rep.state ≠ 2 → (s.core g).free ≤ s.cycle → s.withheldNow = false → s.selectWave g = some w →
       s.fetchGroup w = (s, .got bs) → (∀ b, b ∈ bs → b.bad = false) → s.wdogOver w bs.length = false →
       let fl := newFlight (.wave w.uid) w.r w.nextPc bs w.cur []
       encodingVerdict .c w.surveyor w.pair.isSome bs w.cur = (some ops, .go) → s.dataVerdict fl w ops = (s, .go, ps) →
       s.holdVerdict { fl with placed := ps } w ops = .go →
       ∃ (t : State) (kills : List (BitVec 7)), exec (.issueGroup (.core g)) s = .next t ∧
         t.flight = some { fl with kills, placed := ps, todo := ops.map fun o => (o.b, o.k) } ∧
         (t.core g).free = s.cycle + bs.length ∧ (t.core g).pointer = BitVec.ofNat 6 (s.pointerNow g + 1) ∧
         ∀ u v, s.wave? u = some v → ∃ v', t.wave? u = some v' ∧ v'.r = v.r ∧ v'.threads = v.threads) ∧
     (∀ w bs, s.flight = none → s.rep.waiting = [] → s.rep.state ≠ 2 → (s.core g).free ≤ s.cycle → s.withheldNow = false → s.selectWave g = some w →
       s.wave? w.uid = some w → s.fetchGroup w = (s, .got bs) → (∀ b, b ∈ bs → b.bad = false) → s.wdogOver w bs.length = false →
       let e := encodingVerdict .c w.surveyor w.pair.isSome bs w.cur
       let traps (code : Byte) (m : Mask) : Prop := ∃ (t : State) (v : Wave), exec (.issueGroup (.core g)) s = .next t ∧ t.flight = none ∧
         t.wave? w.uid = some v ∧ v.c.stopped = true ∧ v.r = w.r ∧ v.threads = w.threads ∧
         (s.ringRoom = false → ∃ r : FaultRec, t.fault.waiting = s.fault.waiting ++ [r] ∧ r.code = code ∧ r.kind = 0 ∧ r.wave = some w.uid ∧
           r.lanes = m ∧ r.pc = w.nextPc ∧ r.next = w.nextPc + BitVec.ofNat 64 (64 * bs.length))
       (∀ code d m a k, e = (none, .trap code d m a k) → traps code m) ∧
       (∀ ops ps code d m a k, e = (some ops, .go) →
         s.dataVerdict (newFlight (.wave w.uid) w.r w.nextPc bs w.cur []) w ops = (s, .trap code d m a k, ps) → traps code m)) ∧
     (∀ (k : Nat) (w : Wave) (run : Run) (bs : List FBundle) (ops : List GOp) (ps : List AccPlace), s.flight = none → (s.line k).land = s.line k →
       (s.line k).wave = some w → (s.line k).run = some run → (s.line k).wait = none → (s.line k).free ≤ s.now →
       let r := s.setLine (s.line k)
       let b := r.modLine k fun (l : LineCore) => { l with base := s.dcycle }
       let fl := newFlight (.line k) w.r (w.threads.get 0).pc bs (BitVec.allOnes 32) []
       fetchRun (fun s a => s.fetchLineVia k (w.threads.get 0).via w.loopBack a) 4 r (w.threads.get 0).pc [] = (r, .got bs) →
       (∀ b, b ∈ bs → b.bad = false) → encodingVerdict .d false false bs (BitVec.allOnes 32) = (some ops, .go) →
       b.dataVerdict fl w ops = (b, .go, ps) →
       exec (.issueGroup (.line k)) s = .next { b with flight := some { fl with placed := ps, todo := ops.map fun o => (o.b, o.k) } })) ∧
  (∀ (p : Profile) (surveyor paired : Bool) (bs : List FBundle) (m : Mask),
     let e := encodingVerdict p surveyor paired bs m
     let illegal : Prop := e = (none, .trap 0x01 0 m 0)
     let dependent (slots : List GOp) : Prop := e.1 = none ∧ (groupLegal p surveyor paired bs slots = true → e = (none, .trap 0x02 0 m 0))
     let guards (o : GOp) (r : Reg) : Prop := ∃ h : Head, o.i.head? = some h ∧ r = .p h.gp.toNat
     (∀ b k, b ∈ bs → k < 8 → decodeSlot p k (slotOf b.bits k) = none → illegal) ∧
     (∀ b, b ∈ bs → hdrProf b.bits ≠ (match p with | .c => 0 | .d => 1) ∨ 4 < hdrTcnt b.bits → illegal) ∧
     (hdrStop (lastBits bs) = false → illegal) ∧
     (∀ slots, groupSlots p bs = some slots →
       (∀ (i j : Nat) (a b : GOp) (r : Reg), i < j → (liveOps slots)[i]? = some a → (liveOps slots)[j]? = some b → r ≠ .p 0 →
         (∀ x y, a.tag.outcome = some x → b.tag.outcome = some y → x = y) →
         (r ∈ a.i.writes ∧ (r ∈ b.i.reads ∨ r ∈ b.i.writes ∨ guards b r)) ∨ (r ∈ b.i.writes ∧ (r ∈ a.i.reads ∨ guards a r)) → dependent slots) ∧
       (∀ (a : GOp) (r : Reg), a ∈ liveOps slots → r ∈ a.i.writes → r ≠ .p 0 →
         (∃ b, b ∈ bs ∧ hdrBpe b.bits = true ∧ r = .s (hdrBps b.bits).toNat) ∨
         (∃ x, x ∈ (treeOf (lastBits bs)).tests ∧ (r = .p x.pred.toNat ∨ r = .b x.bt.toNat)) → dependent slots))) ∧
  (∀ (s : State) (fl : Flight) (w : Wave) (o : GOp) (rest : List GOp),
     let priv : Bool := match fl.owner with | .wave _ => s.priv w | .line _ => false
     let c := s.opCtx fl w o
     let v := (s.dataVerdict fl w (o :: rest)).2.1
     let traps (code : Byte) : Prop := ∃ d m a k, v = .trap code d m a k
     (∀ q, q ∈ o :: rest → privVerdict priv (s.opCtx fl w q) q.i = .go) → treePoison fl w = .go →
     (∀ h, o.i.head? = some h → guardPoison c h = .go) → c.run ≠ 0 →
     (∀ n, .s n ∈ o.i.reads → c.w.r.scBad n = true → traps 0x08) ∧
     (∀ n, .p n ∈ o.i.reads → c.w.r.predBad n = true → traps 0x08) ∧
     (∀ n, .v n ∈ o.i.reads → (∀ h f, o.i ≠ .qpush h f) → c.run &&& c.w.r.vecBad n ≠ 0 → traps 0x08) ∧
     (∀ sp as, c.srcPoison o.i = .go → c.accesses o.i = some (sp, as) →
       let fails (code : Byte) (P : MemAcc → Prop) : Prop := ∃ m a k, v = .trap code 0 m a k ∧
         (oneAccess o.i = true → m = c.run) ∧ (oneAccess o.i = false → ∀ i, m.has i = true ↔ ∃ a, a ∈ as ∧ a.lane = i ∧ P a)
       let far (a : MemAcc) : Prop := 2 ^ 56 ≤ a.va.toNat
       let mis (a : MemAcc) : Prop := a.mis = true
       let beyond (a : MemAcc) : Prop := s.span c < a.va.toNat + a.size
       (sp = .scratch → ((∃ a, a ∈ as ∧ mis a) → fails 0x04 mis) ∧ ((∀ a, a ∈ as → ¬mis a) → (∃ a, a ∈ as ∧ beyond a) → fails 0x05 beyond)) ∧
       (∀ k u, sp = .mem k → fl.owner = .wave u → ((∃ a, a ∈ as ∧ far a) → fails 0x06 far) ∧
         ((∀ a, a ∈ as → ¬far a) → (∃ a, a ∈ as ∧ mis a) → fails 0x04 mis) ∧
         (∀ a r x, as = [a] → ¬far a → ¬mis a → s.translate (some c.core) (s.slotOf c.w) a.va.toNat = (r, x) →
           (x = .malformed → traps 0x06) ∧ (x = .unmapped → k ≠ .probe → traps 0x06) ∧
           (∀ l, x = .absent l → k ≠ .probe → v = .park l a.va) ∧
           (∀ e, x = .ok e → r.permOk e (e.pa + a.va.toNat % 4096) a.size (s.priv c.w) k = false → traps 0x05))))) ∧
  (∀ (s r : State) (e : PTEntry), s.arg.c = 1 → (s.line s.arg.a).run ≠ none → (s.line s.arg.a).pt.toList[s.arg.b]? = some e → e.left ≠ 0 →
     e.next ≤ (s.line s.arg.a).count s.dcycle →
     let fetched := s.fetchLine s.arg.a (e.base + BitVec.ofNat 64 (64 * e.got.length))
     let becomes (x : PTEntry) : Prop := exec .preparedTargetFill s = .next (r.modLine s.arg.a fun (l : LineCore) =>
       { l with pt := l.pt.setIfInBounds s.arg.b x })
     (∀ b, fetched = (r, .got b) → becomes { e with got := e.got ++ [b], left := e.left - 1, next := e.next + 1 }) ∧
     (∀ c a, fetched = (r, .bad c a) → becomes { e with left := 0, fault := true, code := c })) ∧
  (∀ (s r : State) (w : Wave) (e : PTEntry), s.arg.c ≠ 1 → s.wave? s.arg.a = some w → w.targets.toList[s.arg.b]? = some e → e.left ≠ 0 →
     e.next ≤ s.cycle → w.isActive = true →
     let fetched := s.fetchBundle w none none (e.base + BitVec.ofNat 64 (64 * e.got.length))
     let becomes (x : PTEntry) : Prop := exec .preparedTargetFill s = .next (r.modWave s.arg.a fun (w : Wave) =>
       { w with targets := w.targets.setIfInBounds s.arg.b x })
     (∀ b, fetched = (r, .got b) → becomes { e with got := e.got ++ [b], left := e.left - 1, next := s.cycle + 1 }) ∧
     ((∃ l a, fetched = (r, .park l a)) ∨ (∃ c a, fetched = (r, .bad c a)) → becomes { e with left := 0, fault := true }))

/-! Steps that no program issues: waves, their lines, waits and monitors. -/

/-- Steps of a wave and of what it waits for, each in the state in which it is due. A sleep or limited wait that is over lets its
thread go on, the latter with a false predicate and the monitor still armed (R197, R285). A write to a monitored line, or its removal,
disarms the monitor of waiting threads, which go on with a true predicate, and marks a monitor on which nothing waits (R262). The first ready-dormant wave takes the lowest free slot
(R127, R210); a victim is written back and becomes dormant with its registers as they were (R128, R211). A missing
line is read from the wave's context and installed (R204, R208); a wave that would pass its limit takes trap 0x09 (R442). -/
def Obligations.WaveSteps : Prop :=
  (∀ (s : State) (c : Nat) (w : Wave), s.victimNow s.arg.a = some (c, w) → exec .victimAgeExpire s =
    .next { s with posted := { instr := .waveDeactivate, arg := { a := w.uid, b := 0, c := 0, x := 0 } } :: s.posted }) ∧
  ∀ (s : State) (w : Wave), s.wave? s.arg.a = some w →
    let u := s.arg.a
    let g := s.coreOf w
    let over' (k : Fin 32) (kind : WKind) : Prop := s.arg.b = k.val ∧ (w.threads.get k).st = .waiting ∧ (w.threads.get k).wkind = kind ∧
      (BitVec.ofNat 48 s.cycle - (w.threads.get k).wend).toNat < 2 ^ 47
    (∀ k, over' k .sleep → ∃ (t : State) (v : Wave), exec .sleepExpire s = .next t ∧ t = { s with waves := t.waves } ∧ t.wave? u = some v ∧
      (v.threads.get k).st = .runnable ∧ (v.threads.get k).pc = (w.threads.get k).pc ∧ (∀ j, j ≠ k → v.threads.get j = w.threads.get j) ∧
      v.r = w.r) ∧
    (∀ k, over' k .waitLim → w.isActive = true → w.holds 132 = true → w.owed = [] → (w.threads.get k).wpd ≠ 0 →
      ∃ (t : State) (v : Wave), exec .waitLimitExpire s = .next t ∧ t = { s with waves := t.waves } ∧ t.wave? u = some v ∧
        (v.threads.get k).st = .runnable ∧ v.r = { w.r with p := v.r.p } ∧ v.r.pred (w.threads.get k).wpd.toNat k = false ∧
        v.c.mon = w.c.mon ∧ v.c.monTrig = w.c.monTrig) ∧
    ((s.firstReady g).map (fun x => x.uid) = some u → w.pair = none → ∀ k rest, s.freeSlots g = k :: rest →
      ∀ since f, w.act = .dormant since true f →
      ∃ (t : State) (v : Wave), exec .waveActivate s = .next t ∧ t.wave? u = some v ∧ v.act = .active k s.cycle ∧
        (∀ n, n ∈ [0, 1, 2, 128] → v.holds n = true) ∧ t.flight = s.flight) ∧
    (∀ k since, (s.victimNow g).map (fun v => v.2.uid) = some u → w.pair = none → w.act = .active k since → w.dirtyLines = [] →
      w.c.kept = [] → w.owed = [] → (s.putHeader g (s.slotOf w) w).2 = none →
      ∃ (t : State) (v : Wave), exec .waveDeactivate s = .next t ∧ t.wave? u = some v ∧ v.act = .dormant s.cycle false false ∧
        v.r = w.r ∧ v.lines.resident = 0 ∧ v.c.marks = [] ∧ v.c.mon = w.c.mon ∧ (∀ i, (v.targets.get i).isEmpty = true)) ∧
    (∀ n, s.readiness w = .line n true → s.arg.b = n → s.rcRoom w = true → (s.core g).counted (s.slotOf w) = false → n < 128 →
      w.lines.legend.toList.getD n 0 = 0 → ∀ r bs, s.ctxRead g (s.slotOf w) (w.ctx + BitVec.ofNat 64 (0x1000 + 128 * n)) 128 n = (r, .inr bs) →
      (r.wave? u).isSome = true →
      ∃ (t : State) (v : Wave), exec .registerFill s = .next t ∧ t.wave? u = some v ∧ v.holds n = true ∧
        (∀ i : Fin 32, (v.r.vec n).get i = BitVec.ofNat 32 (natOf ((bs.drop (4 * i.val)).take 4))) ∧
        t.mem = r.mem ∧ t.flight = r.flight) ∧
    (∀ n, s.readiness w = .line n false → s.arg.b = n → s.rcRoom w = true → exec .registerFill s =
      .next ((s.touchLine g u n).modWave u fun w => w.applyOwed n)) ∧
    (∀ bs, w.isActive = true → w.c.stopped = false → w.c.halted = false → w.cur ≠ 0 → (s.fetchGroup w).2 = .got bs →
      s.wdogOver w bs.length = true → exec .watchdogTrap s = .next (s.waveTrap w 0x09 0 w.live 0 (BitVec.ofNat 64 w.c.wdog))) ∧
    (∀ (line : Nat) (x : Dword), (∀ y, y ∈ s.waves → line ∉ y.c.parkLines ∧ ∀ e, e ∈ y.c.pinAt → e.2 ≠ line) →
      (x = 0 ∨ w.c.monTrig = true) →
      let s' : State := { s with arg := { s.arg with a := line, x := x } }
      ∃ (t : State) (v : Wave), exec .monitorTrigger s' = .next t ∧ t.mem = s.mem ∧ t.wave? u = some v ∧
        let waits (k : Fin 32) : Prop := (w.threads.get k).st = .waiting ∧ ((w.threads.get k).wkind = .wait ∨ (w.threads.get k).wkind = .waitLim)
        (w.c.mon ≠ some line → v = w) ∧
        (w.c.mon = some line → (∀ k, ¬ waits k) → v = { w with c := { w.c with monTrig := true } }) ∧
        (w.c.mon = some line → (∃ k, waits k) → v.c.mon = none ∧ v.c.monTrig = false ∧ (∀ k, waits k → (v.threads.get k).st = .runnable ∧
          (w.isActive = true → w.holds 132 = true → w.owed = [] → (w.threads.get k).wpd ≠ 0 →
            v.r.pred (w.threads.get k).wpd.toNat k = true))))

/-! Steps that no program issues: commands, launches, tasks, draws. -/

/-- Commands, launches and tasks go on, each in the state in which its step is due. A command whose tokens have completed runs, ends with
0x83 when one of them failed, and its status reaches its token register (R289, R292, R314); that a command runs whole in one step is log entry 45. A launch that its checks accept becomes
a grid (R102, R305); a group is placed on its core with the next index (R113, R114); the end of a grid decrements DONE once (R103). A
continuation is popped as a group of one wave (R312), and a drawer's batch closes at its time (R315), also while its wave is halted (log entry 53). Closing a draw, with no close of its record taken before
on any die, launches its shading; a tile with no triangle left that came before the close is final (R351, R356); that later triangles do not hold it back,
and that the indices of decoupled sampling are written once, is log entry 62. -/
def Obligations.LaunchAndTaskSteps : Prop :=
  (∀ (s : State) (e : EngineRef) (c : Cmd), s.cmdAt e = some c → c.ready = true →
    (c.depFailed = true → exec (.tokenComplete e) s = .next (s.finish c 0x383)) ∧
    (c.depFailed = false → ∀ r x, s.runCmd c = (r, some x) → exec (.tokenComplete e) s = .next (r.finish c x)) ∧
    (c.depFailed = false → ∀ r, s.runCmd c = (r, none) → exec (.tokenComplete e) s = .next r) ∧
    (c.depFailed = true → ∀ (h : Head) (o : EFmt), c.op = .copy h o → ∀ w, s.wave? c.wave = some w → w.isActive = true → w.live ≠ 0 → w.group = c.group →
      w.holds (128 + c.td.toNat / 16) = true →
      ∃ (t : State) (v : Wave), exec (.tokenComplete e) s = .next t ∧ t.wave? c.wave = some v ∧ v.r.sc c.td.toNat = 0x383 ∧
        v.c.tokPend = w.c.tokPend &&& ~~~(1#64 <<< c.td.toNat) ∧ (∀ d, d ∈ (t.core c.core).copyQ → d.uid ≠ c.uid) ∧ t.mem = s.mem)) ∧
  (∀ (s : State) (c : Cmd) (o : EFmt), s.enqOf s.arg.a = some (c, o) → c.ready = true →
    (c.depFailed = true → exec .drawerRecordPlace s = .next (s.finish c 0x383)) ∧
    (c.depFailed = false → ∀ r x, s.runEnq c o = (r, some x) → exec .drawerRecordPlace s = .next (r.finish c x)) ∧
    (c.depFailed = false → ∀ r, s.runEnq c o = (r, none) → exec .drawerRecordPlace s = .next r)) ∧
  (∀ (s : State) (g : Nat) (c : Cmd) (q : State) (l : LaunchOk), s.benchNext g = some c → c.depFailed = false →
    ((s.wcFlush c.core (BitVec.allOnes 16)).writeBackDie (dieOf c.core)).checkLaunch (some c.core) (s.cmdSlot c) (c.run.getD 0 0) false = (q, .inr l) →
    q.lrateOk l.eff = true → q.lrateBehind (.bench g c.uid) l.eff = false →
    ∃ (t : State) (x : Grid), exec (.launchAccept (.bench g c.uid)) s = .next t ∧ x ∈ t.grids ∧ x.uid = q.nextUid ∧ x.seq = q.seq + 1 ∧
      x.region = l.words.getD 1 0 ∧ x.kd = l.kd ∧ x.who = .program ∧ x.next = 0 ∧ x.done = l.words.getD 7 0 ∧
      x.args = [l.words.getD 4 0, l.words.getD 5 0, l.words.getD 6 0] ∧
      x.nx = (l.words.getD 2 0).toNat % 2 ^ 32 + 1 ∧ x.ny = (l.words.getD 2 0).toNat / 2 ^ 32 + 1 ∧ x.nz = (l.words.getD 3 0).toNat % 2 ^ 32 + 1) ∧
  (∀ (s : State) (r : Grid) (e : Eff), s.grid? s.arg.a = some r → r.coop = false → s.canPlace r s.arg.b = true →
    s.outranked (s.gridPrio r) r.seq = false → (s.effective r.rslot r.region).2 = some e →
    exec .groupPlace s = .next (s.placeGroup r e s.arg.b) ∧
    ∃ x : Group, x ∈ (s.placeGroup r e s.arg.b).groups ∧ x.uid = s.nextUid ∧ x.grid = r.uid ∧ x.core = s.arg.b ∧
      s.nextLin r = some x.lin ∧ x.bench = [] ∧ (s.placeGroup r e s.arg.b).grid? r.uid = some { r with next := r.next + 1 }) ∧
  (∀ (s : State) (r : Grid), s.grid? s.arg.a = some r → s.gridOver r = true → r.who = .program →
    let ends (t : State) : State := { t with grids := t.grids.filter fun x => x.uid != r.uid }
    (r.done = 0 → exec .doneDecrement s = .next (ends s)) ∧
    (r.done ≠ 0 → r.done.toNat < 2 ^ 56 → s.rep.state = 0 → ∀ e, s.translate none r.slot r.done.toNat = (s, .ok e) →
      let pa := e.pa + r.done.toNat % 4096
      let p := (s.purgeLine (pa / 128)).touchView (pa / 128)
      s.permOk e pa 8 true .atom = true → s.range pa = .mem → ∀ n : Nat, n < 2 ^ 64 → p.llcBytes pa 8 = cleanBytes 8 n →
      exec .doneDecrement s = .next (ends (p.llcWrite none pa (cleanBytes 8 ((n + 2 ^ 64 - 1) % 2 ^ 64)))))) ∧
  (∀ (s : State), exec .lrateWindow s = .next (if s.lrateAt = s.now / 72000 then s else { s with lrate := [], lrateAt := s.now / 72000 })) ∧
  (∀ (s d : State) (r : ContRec) (lrec : Dword) (l : LaunchOk) (ws : List Dword), s.contAt s.arg.a = some (r, lrec, .inr l) →
    s.canPop l s.arg.b = true → s.outranked l.eff.prio r.seq = false → s.repPlace l.eff.slot s.arg.b 0 lrec = true →
    s.readWords none r.slot r.rcd 4 = (d, .inr ws) → r.rcd.toNat % 32 = 0 → (ws.getD 0 0).toNat % 64 = 0 → ws.getD 3 0 = 0 →
    (∀ x, x ∈ s.grids → x.uid ≠ s.nextUid) →
    ∃ (t : State) (x : Grid) (z : Group), exec .continuationPop s = .next t ∧ t.conts = s.conts.eraseIdx s.arg.a ∧ x ∈ t.grids ∧ z ∈ t.groups ∧
      x.who = .cont ∧ x.nx = 1 ∧ x.ny = 1 ∧ x.nz = 1 ∧ x.entry = some (ws.getD 0 0) ∧ x.args = [ws.getD 1 0, r.rcd, l.words.getD 6 0] ∧
      x.next = 1 ∧ z.grid = x.uid ∧ z.core = s.arg.b ∧ z.lin = 0) ∧
  (∀ (s : State) (d : Drawer) (b : DrawerBatch) (due : Nat), s.drawer? s.arg.a = some d → d.opened = some b → b.due = some due → due ≤ s.now →
    ∃ (t : State) (x : Drawer), exec .drawerTimeout s = .next t ∧ t.drawer? s.arg.a = some x ∧ x.opened = none ∧
      x.firstOpen = b.first + b.count ∧ x.next = d.next) ∧
  (∀ (s : State) (q : CullReq) (rest : List CullReq) (x : Draw), (s.cull s.arg.a).queue = q :: rest →
    (q.kind = 2 → s.openDraw s.arg.a q.slot q.draw = some x → s.drawClosing q.slot q.draw = false →
      ∃ t : State, exec .meshletCull s = .next t ∧ t.draws = s.draws.map (fun y => if y.uid = x.uid then { y with closed := true } else y) ∧
        (t.cull s.arg.a).queue = rest ∧ t.posted = s.posted ++ [{ instr := .launchAccept (.shade x.uid), arg := { a := 0, b := 0, c := 0, x := 0 } }]) ∧
    (q.kind ≠ 2 → s.openDraw s.arg.a q.slot q.draw = some x → ∀ t, s.cullOne q x = .inr t → exec .meshletCull s = .next (t.popCull s.arg.a).tidyDraws)) ∧
  (∀ (s : State) (x : Draw) (d : DrawRec) (tx ty : Nat), s.resolveArg = some (x, d, tx, ty) →
    let here (k : BinTri) : Prop := k.tx = tx ∧ k.ty = ty
    (d.dsc = false → x.spent = false → ∃ (t : State) (y : Draw), exec .tileResolve s = .next t ∧ t.draws.find? (fun z => z.uid == x.uid) = some y ∧
      (∀ k, k ∈ y.tris ↔ k ∈ x.tris ∧ ¬ here k) ∧ y.finals = x.finals) ∧
    (x.closed = true → x.spent = false → (∀ k, k ∈ x.tris → here k → k.late = true) → (tx, ty) ∉ x.finals → (d.dsc = true → (tx, ty) ∈ x.dsc) →
      exec .tileFinal s = .next { s with draws := s.draws.map fun y => if y.uid = x.uid then { y with finals := y.finals ++ [(tx, ty)] } else y }))

/-! Steps that no program issues: memory, its registers and its errors. -/

/-- Steps of the levels of memory, each in the state in which it is due. A buffered store leaves after 64 cycles (R269), a map line
after 65,536 (R373). Copies of a region block (R111) and translations (R236) are dropped; a bank takes its role when no
grant holds it (R215, R216); the frame partition, a display reservation and a window's control take their values (R225, R226, R229): every
line of the window's old and new views leaves the LLC, and, by the model's choice of log entry 43, every line that no window covers any longer. That
the whole of a large page's entry goes is log entry 37. An error is counted, but not one of the GDDR7, by log entry 44, and an uncorrectable one
poisons what it hits (R230, R439, R440). The mailbox takes whole slots (R395), after
the latches that have come (R396). A write of device memory by the control node, and a peer's write or atomic within the window,
perform at the LLC (R238, R277, R484). -/
def Obligations.MemorySteps : Prop :=
  (∀ s : State, ∃ t : State, exec .writeCombineFlush s = .next t ∧ MemoryOnly s t ∧
    let old (n : Nat) : Prop := ∃ l, l ∈ (s.core s.arg.a).wc ∧ l.line = n ∧ l.since + 64 ≤ s.cycle
    ∀ l, l ∈ (t.core s.arg.a).wc ↔ l ∈ (s.core s.arg.a).wc ∧ ¬ old l.line) ∧
  (∀ s : State, ∃ t : State, exec .mapCacheExpire s = .next t ∧ t = { s with tex := { s.tex with lines := t.tex.lines } } ∧
    ∀ l, l ∈ t.tex.lines ↔ l ∈ s.tex.lines ∧ ¬ (l.core = s.arg.a ∧ l.vline = s.arg.b ∧ l.texel = false ∧ l.filled + 65536 ≤ s.cycle)) ∧
  (∀ s : State, ∃ t : State, exec .regionSync s = .next t ∧ t = { s with regions := t.regions } ∧
    ∀ c, c ∈ t.regions ↔ c ∈ s.regions ∧ c.addr ≠ s.arg.x &&& ~~~(0x3F#64)) ∧
  (∀ s : State, ∃ p l a : State, exec .transInvalPage s = .next p ∧ exec .transInvalSlot s = .next l ∧ exec .transInvalAll s = .next a ∧
    ∀ t, t ∈ [p, l, a] → t = { s with cores := t.cores } ∧ ∀ g, (t.core g : Core) = { s.core g with tlb := (t.core g).tlb } ∧
      ∀ e : TlbEntry, (e ∈ (p.core g).tlb ↔ e ∈ (s.core g).tlb ∧
          ¬ (e.slot = s.arg.x.toNat % 4096 ∧ e.vpage / e.pages = s.arg.x.toNat / 2 ^ 12 % 2 ^ 44 / e.pages)) ∧
        (e ∈ (l.core g).tlb ↔ e ∈ (s.core g).tlb ∧ e.slot ≠ s.arg.x.toNat % 4096) ∧ e ∉ (a.core g).tlb) ∧
  (∀ s : State, (∀ x, x ∈ s.groups → x.core ≠ s.arg.a) → ∃ t : State, exec .bankRole s = .next t ∧
    t = { s with cores := t.cores } ∧ (∀ g, g ≠ s.arg.a → t.core g = s.core g) ∧ 
    (∀ e, e ∈ (t.core s.arg.a).roleWait → e ∈ (s.core s.arg.a).roleWait ∧ (3 ≤ e.1 → e.1 < 35 → s.arg.x.toNat / 4 ^ (e.1 - 3) % 4 = 3)) ∧
    ∀ k, 3 ≤ k → k < 35 → (t.core s.arg.a).role k =
      if s.arg.x.toNat / 4 ^ (k - 3) % 4 = 3 then (s.core s.arg.a).role k else s.arg.x.toNat / 4 ^ (k - 3) % 4) ∧
  (∀ s : State,
    let sets (r : SysRegs) : Prop := ∃ t : State, exec .framePartitionWrite s = .next t ∧ t.sys = r ∧ t.mem = s.mem ∧
      MemoryOnly s { t with sys := s.sys } ∧
      (∀ y, y ∈ s.waves → ∀ n, y.c.mon = some n → r ≠ s.sys → s.frameUp = true → s.sys.frameBase.toNat < 128 * n + 128 →
        128 * n < s.sys.frameBase.toNat + s.sys.frameSize.toNat → ∃ o, o ∈ t.posted ∧ o.instr = .monitorTrigger ∧ o.arg.a = n) ∧
      ∀ l, l ∈ t.views ↔ l ∈ s.views ∧ ¬ (r ≠ s.sys ∧ s.frameUp = true ∧ s.sys.frameBase.toNat ≤ 128 * l.line ∧
        128 * l.line < s.sys.frameBase.toNat + s.sys.frameSize.toNat)
    (s.arg.a = 0 → sets { s.sys with frameBase := s.arg.x &&& 0x000FFFFFFFFFFFFF }) ∧
    (s.arg.a = 1 → sets { s.sys with frameSize := s.arg.x &&& 0x000000FFFFFFFFFF }) ∧
    (s.arg.a = 2 → sets { s.sys with frameWays := s.arg.x &&& 0xF })) ∧
  (∀ s : State, s.arg.a < 260 →
    let others := (s.disp.heads.filter fun u => u.id != s.arg.a).foldl (fun (n : Nat) u => n + u.reserve.toNat) 0
    let x : Dword := s.arg.x &&& 0xFFFF
    exec .headReserve s = .next (if others + x.toNat ≤ 36000 then s.modHead s.arg.a fun (u : HeadUnit) => { u with reserve := x } else s)) ∧
  (∀ s : State, s.arg.a < 16 → ∃ t : State, exec .fwinCtl s = .next t ∧
    t.sys = { s.sys with fwin := s.sys.fwin.setIfInBounds (4 * s.arg.a + 3) (s.arg.x &&& 0x000000FFFFFF1FFF) } ∧ t.mem = s.mem ∧
    MemoryOnly s { t with sys := s.sys } ∧
    (∀ y, y ∈ s.waves → ∀ n f, y.c.mon = some n → (s.window s.arg.a = some f ∨ t.window s.arg.a = some f) → f.view < 128 * n + 128 → 128 * n < f.view + 4096 * f.pages →
      ∃ o, o ∈ t.posted ∧ o.instr = .monitorTrigger ∧ o.arg.a = n) ∧
    let inView (v : Option Fwin) (l : ViewLine) : Prop := ∃ f, v = some f ∧ f.view ≤ 128 * l.line ∧ 128 * l.line < f.view + 4096 * f.pages
    (∀ l, l ∈ t.views ↔ l ∈ s.views ∧ ¬inView (s.window s.arg.a) l ∧ ¬inView (t.window s.arg.a) l ∧ (t.viewAt (128 * l.line)).isSome = true)) ∧
  (∀ (s : State) (e : SoftErr),
    (e.corrected = true → (∀ pa n, e.loc ≠ .mem pa n) → exec (.softError e) s = .next { s with sys := { s.sys with serrCorr :=
      if s.sys.serrCorr = 0xFFFFFFFF then 0xFFFFFFFF else s.sys.serrCorr + 1 } }) ∧
    (e.corrected = true → ∀ pa n, e.loc = .mem pa n → exec (.softError e) s = .next s) ∧
    (e.corrected = false → ∀ pa n, e.loc = .mem pa n → pa + n ≤ s.life.memTop → s.ringRoom = false →
      ∃ (t : State) (r : FaultRec), exec (.softError e) s = .next t ∧ t.mem = s.mem ∧ t.sys = s.sys ∧ t.fault.waiting = s.fault.waiting ++ [r] ∧
        r.code = 0x08 ∧ r.kind = 4 ∧ r.addr = BitVec.ofNat 64 pa ∧ ∀ a, a ∈ t.memBad ↔ a ∈ s.memBad ∨ (pa ≤ a ∧ a < pa + n)) ∧
    (e.corrected = false → ∀ u line lane w, e.loc = .reg u line lane → s.wave? u = some w → line < 128 → lane < 32 → w.holds line = true →
      ∃ (t : State) (v : Wave), exec (.softError e) s = .next t ∧ t.wave? u = some v ∧ t.mem = s.mem ∧
        v.r = { w.r with vbad := v.r.vbad, v := v.r.v } ∧ (v.r.vec line).toList = (w.r.vec line).toList ∧
        (v.r.vecBad line = w.r.vecBad line ||| (1#32 <<< lane)) ∧
        t.sys.serrUncorr = if s.sys.serrUncorr = 0xFFFFFFFF then 0xFFFFFFFF else s.sys.serrUncorr + 1)) ∧
  (∀ (s : State) (k : Nat) (data : List Byte), k < 520 → data.length = 64 → s.life.memTop ≤ 0x7000000000 →
    let u := s.latchFirst (k / 2)
    ∃ t : State, exec (.mailboxWrite (0x7000000000 + 64 * k) data) s = .next t ∧ t = { u with disp := { u.disp with mailbox := t.disp.mailbox } } ∧
      (¬ (s.head (k / 2)).latchesDue s.dcycle > 0 → u = s) ∧
      (Memory.wf s.disp.mailbox = true → (∀ j, j < 64 → cell t.disp.mailbox (64 * k + j) = data.getD j 0) ∧
        ∀ a, a < 64 * k ∨ 64 * k + 64 ≤ a → cell t.disp.mailbox a = cell s.disp.mailbox a)) ∧
  (∀ (s : State) (p o : Nat) (data : List Byte), data ≠ [] → s.inboundOk (s.peer p) o data.length = true →
    exec (.peerAccess p (.write o data)) s = .next (s.llcWrite none o (data.map clean)) ∧ MemoryOnly s (s.llcWrite none o (data.map clean))) ∧
  (∀ (s : State) (o : Nat) (data : List Byte), data ≠ [] → o + data.length ≤ s.life.memTop →
    exec (.mailboxWrite o data) s = .next (s.llcWrite none o (data.map clean))) ∧
  (∀ (s : State) (p o aop : Nat) (ty : Ty) (x k : BitVec 64), aopOk ty aop = true → ty.isInt = true → o % ty.size = 0 →
    s.inboundOk (s.peer p) o ty.size = true →
    let u := (s.purgeLine (o / 128)).touchView (o / 128)
    let old := u.llcBytes o ty.size
    let w := ty.width
    (anyBad old = true → exec (.peerAccess p (.atomic o ty aop x k)) s = .next u) ∧
    (anyBad old = false → ∃ v : BitVec w, AtomicValue ty aop (BitVec.ofNat w (natOf old)) (x.setWidth w) (k.setWidth w) v ∧
      exec (.peerAccess p (.atomic o ty aop x k)) s = .next (u.llcWrite none o (cleanBytes ty.size v.toNat))))

/-! Steps that no program issues: fault records and switches. -/

/-- Actions on an open record of a trap (R426 to R428). Resume and replay close the record and let the stopped wave issue again, its
registers as they were; resume gives the threads that the record names their NEXT, every other thread keeps its PC. A kill ends
the wave, its group, its grid or every grid of the context; a vacate makes the stopped wave dormant. When the control node's
time has passed, or the handler has ended, the region's policy acts, and no wave goes on after a watchdog trap. HEAD and CTL of
the ring take what is written, and waiting records enter in order (R422, R424). A switch (R445 to R451). A legal request of a
slot with placed groups stops them in phase A; in phase B, with every command completed, each is written to its pool; phase C
takes its banks and accumulators and writes the status. A slot with no group ends with status 1 at once. A switch in gives a
saved group banks on a core, its state as the pool holds it, and ends when no group of the slot is left out. That a record of the watchdog leads
to the kill of the group is log entry 72, what a resume gives the other threads log entry 70, the steps of a switch out and in log entries 75 and 76. -/
def Obligations.FaultAndSwitchSteps : Prop :=
  ((∀ (s : State) (o : OpenRec) (w : Wave), s.openRec s.arg.a = some o → o.r.wave = some w.uid → s.wave? w.uid = some w →
     let u := w.uid
     let closes (t : State) : Prop := ∀ x, x ∈ t.fault.opened → x.idx ≠ s.arg.a
     let idle : Prop := (∀ g, (s.core g).copyQ = [] ∧ (s.core g).matQ = [] ∧ (s.core g).syncQ = []) ∧ (∀ g, g ∈ s.groups → g.bench = []) ∧
       ∀ v, v ∈ s.waves → v.tokensOpen = 0
     (o.r.kind = 0 → s.isSaved w = false → w.surveyor = false → w.pair = none → w.isActive = true → w.lines.pinned = 0 →
       (∃ (t : State) (v : Wave), exec .faultResume s = .next t ∧ t = { s with waves := t.waves, fault := t.fault, lateWr := t.lateWr } ∧ closes t ∧ t.wave? u = some v ∧
         v.r = w.r ∧ v.c.stopped = false ∧ v.c.wdog = 0 ∧ ∀ i : Fin 32,
           (∀ a, o.r.nexts[i.val]? = some (some a) → (w.threads.get i).st = .runnable → (v.threads.get i).pc = a) ∧
           ((∀ a, o.r.nexts[i.val]? ≠ some (some a)) ∨ (w.threads.get i).st ≠ .runnable → (v.threads.get i).pc = (w.threads.get i).pc)) ∧
       (∃ (t : State) (v : Wave), exec .faultReplay s = .next t ∧ t = { s with waves := t.waves, fault := t.fault, lateWr := t.lateWr } ∧ closes t ∧ t.wave? u = some v ∧
         v.r = w.r ∧ v.c.stopped = false ∧ v.c.wdog = 0 ∧ ∀ i, v.threads.get i = w.threads.get i)) ∧
     (idle → w.surveyor = false → w.pair = none → ∃ t : State, exec .faultKillWave s = .next t ∧ closes t ∧
       ∀ v, t.wave? u = some v → v.c.mon = none ∧ v.c.stopped = false ∧ ∀ i, (v.threads.get i).st = .exited) ∧
     (idle → ∃ t : State, exec .faultKillGroup s = .next t ∧ closes t ∧ t.group? w.group = none ∧ ∀ v, v ∈ t.waves → s.group? w.group ≠ none → v.group ≠ w.group) ∧
     (idle → ∀ g r, s.group? w.group = some g → s.grid? g.grid = some r → ∃ t : State, exec .faultKillGrid s = .next t ∧ closes t ∧
       (∀ x, x ∈ t.groups → x.grid ≠ g.grid) ∧ (∀ x, t.grid? g.grid = some x → x.killed = true) ∧
       ∃ p, p ∈ t.posted ∧ p.instr = .doneDecrement ∧ p.arg.a = g.grid) ∧
     (idle → ∃ t : State, exec .faultKillContext s = .next t ∧ closes t ∧
       ∀ x, x ∈ t.grids → x.slot = o.r.slot → x.killed = true ∧ ∀ g, g ∈ t.groups → g.grid ≠ x.uid) ∧
     (w.c.stopped = true → s.isSaved w = false → w.isActive = true → exec .faultVacate s = .next (s.deactivatePair u).1) ∧
     (o.r.kind = 0 → (s.arg.c = 1 ∨ ∃ due, o.expires = some due ∧ due ≤ s.now) → ∀ g, s.gridOf w = some g →
       let p := s.policy g
       (p = 0 → o.r.code ≠ 0x09 → exec .faultTimeout s = exec .faultResume s) ∧ (p = 1 → o.r.code ≠ 0x09 → exec .faultTimeout s = exec .faultReplay s) ∧
       (p = 2 → o.r.code ≠ 0x09 → exec .faultTimeout s = exec .faultKillWave s) ∧
       (p ≤ 2 → o.r.code = 0x09 → exec .faultTimeout s = exec .faultKillGroup s) ∧ (p = 3 → exec .faultTimeout s = exec .faultKillGroup s) ∧
       (p = 4 → exec .faultTimeout s = exec .faultKillGrid s) ∧ (p = 5 → exec .faultTimeout s = exec .faultKillContext s))) ∧
   (∀ s : State,
     let drains (i : Instr) (head ctl : Dword) : Prop := ∃ (t : State) (n : Nat), exec i s = .next t ∧ t.fault.head = head ∧ t.fault.ctl = ctl ∧
       t.fault.base = s.fault.base ∧ t.fault.waiting = s.fault.waiting.drop n ∧ n ≤ s.fault.waiting.length ∧
       t.fault.tail = s.fault.tail + BitVec.ofNat 64 n ∧ (t.fault.waiting = [] ∨ t.ringRoom = false)
     drains .faultHeadWrite s.arg.x s.fault.ctl ∧ drains .faultCtl s.fault.head (s.arg.x &&& 0xFFFF003F))) ∧
  (∀ s : State, s.sw.service = false →
     let idle : Prop := (∀ g, (s.core g).copyQ = [] ∧ (s.core g).matQ = [] ∧ (s.core g).syncQ = []) ∧ (∀ g, g ∈ s.groups → g.bench = []) ∧
       ∀ v, v ∈ s.waves → v.tokensOpen = 0
     (∀ pa ws, s.swHead = some (pa, .inr ws) → swIsIn ws = false → swBad ws = none →
       let slot := (ws.getD 0 0).toNat % 4096
       let gs := s.slotGroups slot
       (gs = [] → exec .switchOut s = .next (s.swPop.swEnd ws 1)) ∧
       (gs ≠ [] → natSum (gs.map fun g => g.saveBytes) ≤ (ws.getD 2 0).toNat →
         (ws.getD 1 0).toNat + natSum (gs.map fun g => g.saveBytes) ≤ s.life.memTop → s.sectionsOf slot = [] → idle →
         ∃ t : State, exec .switchOut s = .next t ∧ t.sw.phase = .a ∧ t.sw.slot = slot ∧ t.sw.words = ws ∧ t.sw.groups = gs.map (fun g => g.uid) ∧
           (∃ q, t.sw.queue = s.sw.queue.drop 1 ++ q ∧ (s.lateWr = [] → q = [])) ∧ t.sw.bytes = 0 ∧ t.mem = s.mem ∧ t.groups = s.groups)) ∧
     (∀ g x, s.outReady = true → idle → s.sw.groups = [g] → s.group? g = some x → (∀ v, v ∈ s.waves → v.group = g → v.isActive = false ∧ s.wave? v.uid = some v) →
       ∃ t : State, exec .switchPhaseB s = .next t ∧ t.sw.phase = .b ∧ t.sw.bytes = s.sw.bytes + (12288 + 131072 * (x.sbanks.length + x.obanks.length)) ∧
         t.sw.saved = s.sw.saved ++ [{ group := g, slot := s.sw.slot, off := s.sw.bytes, size := t.sw.bytes - s.sw.bytes }] ∧ t.groups = s.groups) ∧
     (s.sw.phase = .b → ∃ t : State, exec .switchPhaseC s = .next t ∧ t.sw.phase = .idle ∧ t.sw.saved = s.sw.saved ∧
       ∀ x, x ∈ s.sw.saved → x.group ∈ s.sw.groups →
         (∃ pool, (s.sw.slot, pool) ∈ t.sw.out) ∧ ∀ y, t.group? x.group = some y → y.saved = true ∧ y.scratch = Store.empty ∧ y.acc = { cells := [], bad := [] }) ∧
     (∀ x g, s.sw.phase = .a → swIsIn s.sw.words = true → s.sw.saved = [x] → x.slot = s.sw.slot → s.group? x.group = some g → s.arg.b < 768 →
       s.canReturn g s.arg.b = true →
       ∃ (t : State) (y : Group), exec .switchIn s = .next t ∧ t.sw.phase = .idle ∧ t.sw.saved = [] ∧ t.group? x.group = some y ∧ y.saved = false ∧
         y.core = s.arg.b ∧ y.sbanks = (s.freeBanks s.arg.b 0).take g.sbanks.length ∧ y.obanks = (s.freeBanks s.arg.b 2).take g.obanks.length ∧
         (∀ r, r ∈ t.grids → r.slot = s.sw.slot → r.held = false) ∧ ∀ e, e ∈ t.sw.out → e.1 ≠ s.sw.slot) ∧
     (∀ pa ws, s.swHead = some (pa, .inr ws) → swIsIn ws = true → swBad ws = none →
       (∀ e, e ∈ s.sw.out → e.1 ≠ (ws.getD 0 0).toNat % 4096) → exec .switchIn s = .next (s.swPop.swEnd ws 1)))

/-! Steps that no program issues: heads and line cores, the ring, sections and collectives. -/

/-- Steps of heads and line cores (R383 to R398, R404, R411 to R413), each in the state in which it is due: a head is enabled from a
valid descriptor and begins frame 0 65,536 cycles on, rereads it, is disabled at a promotion, loses its link; a frame is promoted with the
newest valid record; a pose is latched and 128 are kept; a free line core starts the band that is due with the registers of R384, and a band
that closes ends its run, at once or at the boundary of a group that is part-way; a line not complete at its deadline is reprojected and
counted; a taken line leaves without its alpha field; a stalled group and a queued X command go on. That EN reads zero at once after a disable, the
refusals of a reread and what ERR and DESC hold for an invalid descriptor are log entry 67, when CUR is out of use is log entry 112. -/
def Obligations.DisplaySteps : Prop :=
  ∀ s : State,
    let h := s.arg.a
    let x := s.head h
    let ctl : Dword := s.arg.x &&& 0x000FFFFFFFFFFFC0
    (4 ≤ h → h < 260 → x.en = false → s.life.min = false →
      let s1 := s.modHead h fun (x : HeadUnit) => { x with ctl := ctl, rate := 0, link := false }
      (∀ r, s1.readDesc h 0 ctl = (r, none) → ∃ t : State, exec .headEnable s = .next t ∧ (t.head h).err = true ∧ (t.head h).en = false) ∧
      (∀ r d, s1.readDesc h 0 ctl = (r, some d) → ∃ t : State, exec .headEnable s = .next t ∧ t.mem = s.mem ∧
        let y := t.head h
        y.en = true ∧ y.ctl = ctl ||| 1 ∧ y.desc = d.1 ∧ y.entry = d.2.1 ∧ y.atlas = d.2.2 ∧ y.f0 = ((s.now / 45 : Nat) : Int) + 65536 ∧ y.baseFrame = 0 ∧
        y.nextPromote = 0 ∧ y.fbcount = 0 ∧ y.frames = 0 ∧ y.cur = none ∧ y.queue = x.queue ∧ y.err = x.err)) ∧
    (x.en = true →
      (∀ r, s.readDesc h x.rate ctl = (r, none) → ∃ t : State, exec .headReread s = .next t ∧ (t.head h).err = true ∧ (t.head h).desc = x.desc) ∧
      (∀ r d, s.readDesc h x.rate ctl = (r, some d) → ∃ t : State, exec .headReread s = .next t ∧ (t.head h).nextDesc = some d ∧
        (t.head h).desc = x.desc ∧ (t.head h).err = x.err)) ∧
    (h < 260 → exec .headDisable s = .next (s.setHead { x with ctl := ctl, stop := x.en })) ∧
    (h < 4 → exec .headLinkDown s = .next (s.setHead { x with link := false, rate := 0 })) ∧
    (x.en = true → x.latchAt x.nextPromote 0 ≤ (s.dcycle : Int) → x.stop = true → ∃ t : State, exec .framePromote s = .next t ∧
      (t.head h).en = false ∧ (t.head h).bands = [] ∧ ∀ k r, (t.line k).run = some r → r.head = h → r.closing = true) ∧
    (x.en = true → x.latchAt x.nextPromote 0 ≤ (s.dcycle : Int) → x.stop = false → ∃ t : State, exec .framePromote s = .next t ∧
      (t.head h).nextPromote = x.nextPromote + 1 ∧ (t.head h).nextDesc = none ∧
      let due := x.queue.filter fun p => !p.removed && !p.used && decide (((p.done / 45 : Nat) : Int) < x.latchAt x.nextPromote 0) && frameOk p.words
      (due = [] → (t.head h).cur = x.cur) ∧ ∀ p, due.getLast? = some p → (t.head h).cur = some p.order) ∧
    (x.en = true → x.start (x.nextLatch - x.lead) ≤ (s.dcycle : Int) → ∃ p : Pose, p.line = x.nextLatch ∧ p.words = s.laterSlot h ∧
      exec .poseLatch s = .next (s.setHead { x with poses := (p :: x.poses).take 128, nextLatch := x.nextLatch + 1 })) ∧
    (∀ h' f first, s.lineFree h = true → s.bandFor h = some (h', f, first) → s.arg.b = h' → ∃ (t : State) (v : Wave) (r : Run), exec .runStart s = .next t ∧
      (t.line h).wave = some v ∧ (t.line h).run = some r ∧ r.head = h' ∧ r.frame = f ∧ r.first = first ∧ (t.line h).cnt = 0 ∧
      (t.head h').bands = (s.head h').bands ++ [{ frame := f, first := first }] ∧
      let n := min (first + (s.head h').bh) (s.head h').vact - 1 + 1 - first
      r.lines = n ∧ (∀ i, (v.threads.get i).pc = (s.head h').entry) ∧ (∀ i : Fin 32, (v.r.vec 0).get i = BitVec.ofNat 32 i.val) ∧
      v.r.sc 0 = BitVec.ofNat 64 h' ∧ v.r.sc 1 = BitVec.ofNat 64 first ∧ v.r.sc 2 = BitVec.ofNat 64 n ∧ v.r.sc 3 = BitVec.ofNat 64 f ∧
      v.r.sc 4 = (s.head h').desc.getD 8 0 ∧ v.r.flags = 0 ∧ v.r.mode = 0) ∧
    (∀ b, x.bands.find? (fun b => decide (x.closesAt b.frame b.first ≤ (s.dcycle : Int))) = some b → ∃ t : State, exec .bandClose s = .next t ∧
      (t.head h).bands = x.bands.filter (fun e => e != b) ∧ ∀ k r, (t.line k).run = some r → r.head = h → r.frame = b.frame → r.first = b.first → r.closing = true) ∧
    (let f := x.baseFrame + x.nextTake / x.vact
     let y := x.nextTake % x.vact
     let whole : Prop := ∃ b, x.lines.find? (fun b => b.frame == f && b.line == y) = some b ∧ ∀ k, k < ceilDiv x.width 32 → inKeys k b.segs = true
     x.en = true → x.deadline f y ≤ (s.dcycle : Int) → ∃ t : State, exec .lineDeadline s = .next t ∧ (t.head h).nextTake = x.nextTake + 1 ∧
       (t.head h).nextScan = x.nextScan ∧ (whole → (t.head h).fbcount = x.fbcount ∧ ((∀ p, p ∈ x.queue → p.used = false ∧ p.removed = false) → t.mem = s.mem)) ∧
       (¬ whole → (t.head h).fbcount = if x.fbcount = 0xFFFFFFFF then 0xFFFFFFFF else x.fbcount + 1)) ∧
    (let f := x.baseFrame + x.nextScan / x.vact
     let y := x.nextScan % x.vact
     x.en = true → x.scanAt f y ≤ (s.dcycle : Int) → x.nextScan < x.nextTake → ∃ t : State, exec .lineScanOut s = .next t ∧
       (t.head h).nextScan = x.nextScan + 1 ∧ (t.head h).frames = (if y = 0 then (x.frames + 1) % 2 ^ 30 else x.frames) ∧
       (∀ b, b ∈ (t.head h).lines ↔ b ∈ x.lines ∧ ¬ (b.frame = f ∧ b.line = y)) ∧
       (h < 4 → x.link = true → t.mem = s.mem ∧ ∀ b, x.lines.find? (fun b => b.frame == f && b.line == y) = some b →
         (t.head h).sent = (List.range x.width).map fun k => lookKey (0 : Word) k b.pixels &&& (if x.pfmt = 0 then 0x00FFFFFF else 0x3FFFFFFF))) ∧
    (∀ fl w, s.flight = none → (s.line h).susp = some fl → (s.line h).wait = some w → s.waitOver h = true →
      exec .lineCoreWaitEnd s = .next (({ s with flight := some fl } : State).setLine
        { s.line h with wait := none, susp := none, base := s.now / 45 - fl.cur.1 })) ∧
    (∀ c rest, (s.line h).xq = c :: rest → ∃ t : State, exec .dmeCommandExecute s = .next t ∧ (t.line h).xq = rest ∧
      t = { s with disp := t.disp } ∧ (t.line h).wave = (s.line h).wave ∧ ∀ k, k ≠ h → t.line k = s.line k)

/-- Steps of the ring, its sections and the collectives (R462, R463, R468, R469, R472, R473, R478): the links of a
cluster move once in a cycle, no packet loses a flit, and a packet alone on the ring sends its first one; at its stop its bytes reach the receiving group and its channel counts it; a section gets its instant with one group at each stop, opens then, and
closes when every group has closed it; an instance with every participant ends all their commands. That links move once in a cycle is log entry 13,
that a flit goes to delivery without a slot, and that a section's instant is 16 cycles after the step that finds its groups, log entry 58. -/
def Obligations.FabricSteps : Prop :=
  (∀ s : State, let c := s.arg.a
    let nx (k : Nat) : Nat := (k + 1) % 8
    (s.section c).hopAt ≤ s.cycle → s.packetsOf c ≠ [] →
    ∃ t : State, exec .packetHop s = .next t ∧ (t.section c).hopAt = s.cycle + 1 ∧ t.mem = s.mem ∧ t.waves = s.waves ∧ t.posted = s.posted ∧
      t.fab.packets.map (fun q => (q.uid, q.flits.length)) = s.fab.packets.map (fun q => (q.uid, q.flits.length)) ∧
      (∀ p, s.packetsOf c = [p] → p.links = [] → p.src < 8 → p.dst ≠ p.src → p.vc = 0 → 1 ≤ p.n → p.n ≤ 4 → s.mayInject (8 * c + p.src) = true →
        p.flits = List.replicate p.n { place := .source, since := s.cycle - 1 } → 1 ≤ s.cycle →
        let dest : FlitPlace := if p.dst = nx p.src then .delivery else .slot (nx p.src) (if p.src = 7 then 1 else 0) false
        ∃ q, t.packetsOf c = [q] ∧ q.flits = { place := dest, since := s.cycle + 1 } :: p.flits.drop 1)) ∧
  (∀ (s : State) (p : Packet) (g : Group), s.packet? s.arg.a s.arg.b = some p → p.result = none → p.flits ≠ [] →
    (∀ f, f ∈ p.flits → f.place = .delivery ∧ f.since < s.cycle) → s.slotAway p.slot = false →
    s.receiver p.grid (8 * p.cluster + p.dst) false = some g → s.group? g.uid = some g → p.addr + 32 * p.n ≤ 131072 * g.sbanks.length →
    ∃ t : State, exec .packetArrive s = .next t ∧ (∀ q, q ∈ t.fab.packets → q.uid ≠ p.uid) ∧
      ∀ y, t.group? g.uid = some y →
        y.scratch = (List.range p.flits.length).foldl (fun (b : Store) j => b.write (p.addr + 32 * j) ((p.data.drop (32 * j)).take 32)) g.scratch ∧
        ∀ k : Fin 8, y.arrive.get k = if k.val = p.ch ∧ g.arrive.get k ≠ 0xFFFFFFFF then g.arrive.get k + 1 else g.arrive.get k) ∧
  (∀ (s : State), let c := s.arg.a
    let firsts := (List.range 8).filterMap fun k => (s.section c).opening.find? fun g => (s.group? g).any fun x => x.core == 8 * c + k
    ((s.section c).t0 = none → (s.section c).members = [] → firsts.length = 8 → (∀ p, p ∈ s.packetsOf c → p.under = false) →
      ∃ t : State, exec .sectionOpen s = .next t ∧ (t.section c).t0 = some ((s.now / 40 + 16) * 40) ∧ (t.section c).members = firsts ∧
        ∀ g, g ∈ (t.section c).opening ↔ g ∈ (s.section c).opening ∧ g ∉ firsts) ∧
    (∀ t0, (s.section c).t0 = some t0 → t0 ≤ s.now → ∃ t : State, exec .sectionOpen s = .next t ∧
      ∀ g x, g ∈ (s.section c).members → t.group? g = some x → x.inSection = true)) ∧
  (∀ (s : State), let r := s.section s.arg.a
    r.t0 ≠ none → s.secPending r = false → (∀ g, g ∈ r.members → g ∈ r.closing ∧ ∃ x, s.group? g = some x ∧ x.inSection = true) →
    ∃ t : State, exec .sectionClose s = .next t ∧ (t.section s.arg.a).t0 = none ∧ (t.section s.arg.a).members = [] ∧
      ∀ g x, g ∈ r.members → t.group? g = some x → x.inSection = false) ∧
  (∀ (s : State) (i : CollInst), s.fab.colls.find? (fun i => i.uid == s.arg.a) = some i → i.need ≤ i.parts.length →
    (∀ p, p ∈ i.parts → p.far = none ∧ ∃ (c : Cmd) (h : Head) (o : EFmt), s.cmdOf p.core p.cmd = some c ∧ c.core = p.core ∧ c.op = .coll h o) →
    ∃ t : State, exec .collInstanceComplete s = .next t ∧ (∀ j, j ∈ t.fab.colls → j.uid ≠ i.uid) ∧ ∀ p, p ∈ i.parts → t.cmdOf p.core p.cmd = none)

/-! Steps that no program issues: command queues and peers, debug and replay, the life of the device. -/

/-- Steps of the command queues and the peers (R480 to R484). The registers of a disabled queue take their fields. A valid packet of a queue is
taken by the step of its operation, with its entry and its effect; a wait whose value is not reached waits on its line; a full switch queue and
a held launch take nothing; a packet that faults is taken too, and the queue stays enabled (log entry 60; the kick of a reading or waiting queue is log
entry 95). A kick reads again or starts the timer, whose
end counts a stale packet. A link is trained or down. -/
def Obligations.QueueSteps : Prop :=
  (∀ (s : State), let a := s.arg.a
    let q := s.queue a
    (q.ctl.getLsbD 0 = false →
      (s.arg.b = 0 → exec .cqCtl s = .next (s.setQueue { q with base := s.arg.x &&& 0x000FFFFFFFFFF000 })) ∧
      (s.arg.b = 2 → exec .cqCtl s = .next (s.setQueue { q with cpl := s.arg.x &&& 0x000FFFFFFFFFFFF0 })) ∧
      (s.arg.b = 1 → s.arg.x.getLsbD 0 = true → 4 ≤ s.arg.x.toNat / 2 % 32 → s.arg.x.toNat / 2 % 32 ≤ 16 → exec .cqCtl s =
        .next (s.setQueue { q with ctl := s.arg.x &&& 0x3F, next := 0, state := .reading, timer := none, kicked := false }))) ∧
    (q.ctl.getLsbD 0 = true → (s.arg.b = 0 ∨ s.arg.b = 2 → exec .cqCtl s = .next s) ∧
      (s.arg.b = 1 → s.arg.x.getLsbD 0 = false → exec .cqCtl s = .next (s.setQueue { q with ctl := q.ctl &&& ~~~(1#64) }))) ∧
    (q.up = true → (∀ l, q.state ≠ .waiting l) →
      (s.cqPacket q = none → exec .kick s = .next (s.setQueue { q with timer := some (q.timer.getD (s.now + 72000000)), state := .armed (q.packetAt / 128) })) ∧
      (s.cqPacket q ≠ none → exec .kick s = .next (s.setQueue { q with state := .reading }))) ∧
    (∀ t, q.timer = some t → t ≤ s.now →
      (s.cqPacket q = none → exec .kickTimerExpire s = .next (s.setQueue { q with stale := min (q.stale + 1) 65535, timer := none })) ∧
      (s.cqPacket q ≠ none → exec .kickTimerExpire s = .next (s.setQueue { q with timer := none }))) ∧
    (∀ code, q.up = true → s.cqPacket q = some (.inl code) →
      ∃ t : State, exec .cqInvalid s = .next t ∧ (t.queue a).next = (q.next + 1) % 2 ^ 32 ∧ (t.queue a).ctl = q.ctl) ∧
    (∀ ws, q.up = true → s.cqPacket q = some (.inr ws) →
      let op := (ws.getD 1 0).toNat % 256
      let va := (ws.getD 2 0).toNat
      let taken (t : State) (st : Dword) : State := (t.cqEntry a q.next st).cqTaken a
      let moves (t : State) : Prop := (t.queue a).next = (q.next + 1) % 2 ^ 32 ∧ (t.queue a).state = .reading ∧ (t.queue a).timer = none
      (4 < op ∨ cqReserved ws = true → exec .cqInvalid s = .next (taken s 0x86) ∧ moves (taken s 0x86)) ∧
      (cqReserved ws = false →
        (op = 0 → exec .cqNop s = .next (taken s 0) ∧ moves (taken s 0)) ∧
        (op = 1 → ∀ r g n, s.tryLaunch (.queue a) none ((ws.getD 1 0).toNat / 2 ^ 8 % 2 ^ 12) (ws.getD 2 0) (.queue a q.next) none = (r, .ok g n) →
          ∃ t : State, exec .cqLaunch s = .next t ∧ exec (.launchAccept (.queue a)) s = .next { t with arg := s.arg } ∧ moves t ∧
            (t.queue a).live = q.live ++ [g] ∧ t.grids = r.grids ∧ t.mem = r.mem) ∧
        (op = 1 → ∀ r why, s.tryLaunch (.queue a) none ((ws.getD 1 0).toNat / 2 ^ 8 % 2 ^ 12) (ws.getD 2 0) (.queue a q.next) none = (r, .refused why) → why ≠ 7 →
          exec .cqLaunch s = .next (taken r (BitVec.ofNat 64 (0x84 + 2 ^ 8 * why)))) ∧
        (op = 2 → q.live = [] → va % 8 = 0 → va + 8 ≤ s.life.memTop →
          let t := taken ((s.purgeLine (va / 128)).llcPutWord va (ws.getD 3 0)) 0
          exec .cqSignal s = .next t ∧ moves t) ∧
        (op = 3 → va % 8 = 0 → va + 8 ≤ s.life.memTop → let v := s.touchView (va / 128)
          ∀ n, n < 2 ^ 64 → v.llcBytes va 8 = cleanBytes 8 n →
            ((ws.getD 3 0).toNat ≤ n → exec .cqWait s = .next (taken v 0) ∧ moves (taken v 0)) ∧
            (n < (ws.getD 3 0).toNat → exec .cqWait s = .next (v.setQueue { q with state := .waiting (va / 128) }))) ∧
        (op = 1 → ∀ r, s.tryLaunch (.queue a) none ((ws.getD 1 0).toNat / 2 ^ 8 % 2 ^ 12) (ws.getD 2 0) (.queue a q.next) none = (r, .held) →
          exec .cqLaunch s = .next r ∧ (r.queue a).next = q.next) ∧
        (op = 4 → 16 ≤ s.sw.queue.length → exec .cqSwitch s = .next s) ∧
        (op = 4 → s.sw.queue.length < 16 →
          let t := taken { s with sw := { s.sw with queue := s.sw.queue ++ [(ws.getD 2 0 &&& 0x000FFFFFFFFFFFC0, some a)] } } 0
          exec .cqSwitch s = .next t ∧ moves t)))) ∧
  (∀ s : State, s.arg.a < 16 →
    (s.life.min = false → exec .peerLinkTrained s = .next (s.setPeer { s.peer s.arg.a with link := true })) ∧
    exec .peerLinkDown s = .next (s.setPeer { s.peer s.arg.a with link := false }))

/-- Steps of the debug unit and of recording and replay (R487 to R507, R512). A table is set and an entry is read; a halt of an
armed slot halts every wave of it and records its cause, a resume lets them go on, a step lets one wave issue once (that a halt
reaches every wave at once, and what an ignored mode leaves, is log entry 77), a
deactivation makes the halted waves dormant. The profile is dumped and cleared, and samples come at their period. REPLAY_CTL
sets the state where the slot is idle and an error where it is not; a wait beyond the limit, or for a wave that has exited, is a divergence. Steps of the
device's life (R513 to R515, R519 to R526). A start that nothing hinders reaches ready with F = 0 and every register at its
reset value; one that hangs has failed after 30 s; a trip stops the device. The power control withholds more while a limit is
passed. A service request ends with its status (the order of service and the checks of images: log entry 80), a peer port's link being down
while it trains; an image is installed and becomes active; a report and a chain are written. -/
def Obligations.DebugReplayLifeSteps : Prop :=
  (∀ s : State,
     let slot := s.dbg.ctl.toNat % 4096
     (∃ t : State, exec .dbgTable s = .next t ∧ t.dbg = { s.dbg with table := s.arg.x &&& 0x000FFFFFFFFFF000 } ∧
       ((∀ g, (s.core g).trace.queue = []) → t.mem = s.mem ∧ t.waves = s.waves)) ∧
     (s.arg.x.getLsbD 10 = false → s.arg.x.toNat % 1024 < 768 → (s.core (s.arg.x.toNat % 1024)).trace.queue = [] → ∃ t : State, exec .dbgSync s = .next t ∧
       (t.core (s.arg.x.toNat % 1024)).trace.entry = s.llcWords (s.dbgEntry (s.arg.x.toNat % 1024)) 8 ∧
       (∀ g, g ≠ s.arg.x.toNat % 1024 → t.core g = s.core g) ∧ t = { s with cores := t.cores }) ∧
     (s.arg.c = 0 → s.dbg.ctl.getLsbD 12 = true → s.dbg.cause = 0 → ∃ t : State, exec .dbgHalt s = .next t ∧ t.dbg.cause = 3 ∧ t.dbg.halted = true ∧
       t.dbg.extra = 0 ∧ ∀ v, v ∈ t.waves → t.slotOf v = slot → v.c.halted = true) ∧
     (s.arg.c = 0 → s.dbg.ctl.getLsbD 12 = false → exec .dbgHalt s = .next s) ∧
     (s.dbg.cause ≠ 0 → s.sectionsOf slot = [] → ∃ t : State, exec .dbgResume s = .next t ∧ t.dbg.cause = 0 ∧ t.dbg.halted = false ∧
       ∀ v, v ∈ t.waves → t.slotOf v = slot → v.c.halted = false) ∧
     (∀ w, w ∈ s.waves → w.isActive = true → w.slot = s.arg.b → s.coreOf w = s.arg.a → s.slotOf w = slot → w.c.halted = true → w.cur ≠ 0 →
       (∀ v, v ∈ s.waves → v.isActive = true → v.slot = s.arg.b → s.coreOf v = s.arg.a → v = w) →
       exec .dbgStep s = .next (s.modWave w.uid fun (w : Wave) => { w with c := { w.c with halted := false, stepOnce := true } })) ∧
     (∀ w, s.dbg.cause ≠ 0 → s.waves = [w] → s.slotOf w = slot → w.isActive = true → w.c.halted = true → s.flight = none → s.rep.waiting = [] →
       exec .dbgDeactivate s = .next (s.deactivatePair w.uid).1) ∧
     exec .dbgProfileDump s = .next ((List.range 768).foldl (fun t g => t.snapshot g 2 0 0) s) ∧
     (∃ t : State, exec .dbgProfileClear s = .next t ∧ t = { s with cores := t.cores } ∧ ∀ g,
       t.core g = { s.core g with conflicts := [], lostCyc := 0, fwd := 0, rmiss := 0 }) ∧
     ((s.core s.arg.a).sampling = true → (s.core s.arg.a).trace.nextSample ≤ s.cycle → ∃ t : State, exec .pcSample s = .next t ∧
       (t.core s.arg.a).trace.nextSample = (s.core s.arg.a).trace.nextSample + 64 * bits ((s.core s.arg.a).trace.entry.getD 1 0) 31 16 ∧ t.dbg = s.dbg) ∧
     (let ctl : Dword := s.arg.x &&& 0xFFFFFFFF00003FFF
      let sets (i : Instr) (n : Nat) : Prop := ∃ t : State, exec i s = .next t ∧
        t.rep = { s.rep with ctl := ctl, state := n, full := false, err := false, unit := 0, index := 0, logs := [] }
      let idle : Prop := (∀ r, r ∈ s.grids → r.slot ≠ s.arg.x.toNat % 4096) ∧
        ∀ e, e ∈ s.lrateQ → s.heldSlot e = s.arg.x.toNat % 4096 → s.stillWaits e.src = false
      sets .replayOff 0 ∧ (idle → sets .replayRecord 1) ∧ (idle → (s.replayPut 2).repDone = false → sets .replayEnforce 2) ∧
      (¬ idle → let ignored : State := { s with rep := { s.rep with full := false, err := true, unit := 0, index := 0 } }
        exec .replayRecord s = .next ignored ∧ exec .replayEnforce s = .next ignored)) ∧
     (∀ l, s.rep.logs.find? (fun l => l.unit == s.arg.a) = some l → s.rep.state = 2 →
       (s.rep.ctl.toNat / 2 ^ 32 ≠ 0 ∧ ∃ since, l.since = some since ∧ since + 40 * 1024 * (s.rep.ctl.toNat / 2 ^ 32) < s.now) ∨
         s.runGone s.arg.a = true → ∃ t : State, exec .replayTimeout s = .next t ∧
         t.rep = { s.rep with state := 3, unit := s.arg.a, index := l.count })) ∧
  ((∀ (s : State) (rep : StartReport), rep.ownImageOk = true → rep.imageFail = none → rep.trained = BitVec.allOnes 48 → rep.fails = [] →
     rep.fabricOk = true → rep.portsOk = true → rep.hang = none → s.life.f ≠ 3 → (∀ k, s.life.state ≠ .starting k) →
     (∀ i, i ∈ s.life.images → (s.life.minVersion.toList.getD (i.kind - 1) 0).toNat ≤ i.version.toNat) → s.life.retired = [] → s.life.stopCode = none → s.life.lastCode = 0 →
     let starts (i : Instr) (code : Byte) : Prop := ∃ t : State, exec i s = .next t ∧
       t = { State.reset with freeCount := s.freeCount, agenda := s.agenda, life := t.life } ∧ t.life.state = .ready ∧ t.life.f = 0 ∧
       t.life.cause = code ∧ t.life.fails = s.life.f ∧ t.life.min = false ∧ t.life.channels = BitVec.allOnes 48 ∧ t.life.memTop = 0x6000000000
     starts (.resetCold rep) 0 ∧ (s.arg.c = 1 → s.life.state = .ready → starts (.bootWarmReset rep) 1)) ∧
   (∀ s : State,
     exec .bootClearFails s = .next { s with life := { s.life with f := 0 } } ∧
     (∀ k, s.life.state = .starting k → s.arg.a = k → s.life.resetAt + 30 * 72000000000 ≤ s.now → exec .startTimeout s =
       .next { s with life := { s.life with state := .failed, lastCode := 0x02, lastStep := k } }) ∧
     (s.life.state = .ready →
       exec .thermalTrip s = .next { s with life := { s.life with state := .tripped, stopCode := some 0x30 }, flight := none, posted := [] } ∧
       exec .powerFault s = .next { s with life := { s.life with state := .tripped, stopCode := some 0x31 }, flight := none, posted := [] }) ∧
     (∀ p : PowerSample, p.tmax < 110 → s.life.held ≤ 1000 → ∃ (t : State) (n : Nat), exec (.powerWindow p) s = .next t ∧ n ≤ 1000 ∧
       t = { s with freeCount := s.freeCount + 1, cores := t.cores,
                    life := { s.life with power := p.watts, tmax := p.tmax, coolin := p.coolin, flow := p.flow, held := n,
                                          heldFrom := s.cycle, heldSel := s.life.selectionsBefore s.cycle } } ∧
       (∀ g, { t.core g with freeSel := (s.core g).freeSel } = s.core g) ∧
       (s.life.cap < p.watts ∨ 100 ≤ p.tmax → min 1000 (s.life.held + 1) ≤ n)) ∧
     (∀ pa ws, s.svcHead = some (pa, .inr ws) → svcOk ws = true →
       let op := (ws.getD 0 0).toNat % 16
       let unit := (ws.getD 0 0).toNat / 16 % 4096
       (∀ fails, op = 1 → s.sw.service = false → s.sw.phase = .idle → (∀ g, g ∈ s.groups → g.saved = true ∨ clusterOf g.core ≠ unit) →
         exec (.serviceTestCluster fails) s = .next (({ s with life := { s.life with inTest := some unit, running := some ws } } : State).testCluster ws fails)) ∧
       (∀ fails, op = 2 → ∃ r n, s.repairAll (fails.filter fun u => u.kind == .pin && u.unit == unit) = (r, n) ∧
         exec (.serviceRetrainChannel fails) s = .next (r.svcEnd ws (statusOk 0 0 n))) ∧
       (op = 4 → s.life.retrain = none → ∃ n, s.now ≤ n ∧ exec .serviceRetrainPeer s =
         .next (({ s with freeCount := s.freeCount + 1, life := { s.life with running := some ws, retrain := some ((s.peer unit).link, n) } } : State).setPeer
           { s.peer unit with link := false })) ∧
       (op = 4 → ∀ link due, s.life.retrain = some (link, due) → (s.now < due → exec .serviceRetrainPeer s = .next s) ∧
         (due ≤ s.now → exec .serviceRetrainPeer s =
           .next ((s.setPeer { s.peer unit with link := (s.peer unit).link || link }).svcEnd ws 0))) ∧
       (op = 3 → ∀ i, s.checkImage (ws.getD 1 0).toNat = .inr i → exec .serviceInstallImage s =
         .next (({ s with life := { s.life with pendingImages := s.life.pendingImages.filter (fun k => k.kind != i.kind) ++ [i] } } : State).svcEnd ws 0)) ∧
       (op = 3 → ∀ st, s.checkImage (ws.getD 1 0).toNat = .inl st → exec .serviceInstallImage s = .next (s.svcEnd ws st)) ∧
       (s.sw.service = false → s.lateWr = [] → ∀ st, (s.svcEnd ws st).life.serviceQ = s.life.serviceQ.drop 1)) ∧
     (∀ i, s.life.pendingImages.find? (fun k => k.kind == s.arg.a) = some i → 1 ≤ i.kind → i.kind ≤ 4 → ∃ t : State, exec .imageActive s = .next t ∧
       t = { s with life := { s.life with images := t.life.images, pendingImages := t.life.pendingImages, minVersion := t.life.minVersion } } ∧
       t.life.images = s.life.images.filter (fun k => k.kind != i.kind) ++ [i] ∧ (∀ k, k ∈ t.life.pendingImages → k.kind ≠ i.kind) ∧
       (t.life.minVersion.toList.getD (i.kind - 1) 0).toNat = max (s.life.minVersion.toList.getD (i.kind - 1) 0).toNat i.version.toNat) ∧
     (let a := (s.arg.x &&& 0x000FFFFFFFFFFF00).toNat
      (a + 256 ≤ s.life.memTop → exec .attestReport s = .next (s.llcWrite none a ((s.report256 (s.plain a 32)).map clean))) ∧
      (a + 4096 ≤ s.life.memTop → exec .attestCertChain s = .next (s.llcWrite none a ((Config.certChain.take 4096).map clean))))))
end

