-- ==== Sys2Proof/Laws/State.lean ====
section
/-! SUPPORT. What each basic update of the state does to each field, so that no proof unfolds a record update, and what reading a part
of the device by its number gives after such an update. -/
namespace Sys2Proof.Machine
open Sys2Proof

/-! `State.setCore`: cores alone. -/
@[simp] theorem State.setCore_now (s : State) (c : Core) : (s.setCore c).now = s.now := rfl
@[simp] theorem State.setCore_nextUid (s : State) (c : Core) : (s.setCore c).nextUid = s.nextUid := rfl
@[simp] theorem State.setCore_seq (s : State) (c : Core) : (s.setCore c).seq = s.seq := rfl
@[simp] theorem State.setCore_freeCount (s : State) (c : Core) : (s.setCore c).freeCount = s.freeCount := rfl
@[simp] theorem State.setCore_arg (s : State) (c : Core) : (s.setCore c).arg = s.arg := rfl
@[simp] theorem State.setCore_posted (s : State) (c : Core) : (s.setCore c).posted = s.posted := rfl
@[simp] theorem State.setCore_agenda (s : State) (c : Core) : (s.setCore c).agenda = s.agenda := rfl
@[simp] theorem State.setCore_flight (s : State) (c : Core) : (s.setCore c).flight = s.flight := rfl
@[simp] theorem State.setCore_mem (s : State) (c : Core) : (s.setCore c).mem = s.mem := rfl
@[simp] theorem State.setCore_memBad (s : State) (c : Core) : (s.setCore c).memBad = s.memBad := rfl
@[simp] theorem State.setCore_l2 (s : State) (c : Core) : (s.setCore c).l2 = s.l2 := rfl
@[simp] theorem State.setCore_views (s : State) (c : Core) : (s.setCore c).views = s.views := rfl
@[simp] theorem State.setCore_cores (s : State) (c : Core) : (s.setCore c).cores = upd (fun d => d.id == c.id) c s.cores := rfl
@[simp] theorem State.setCore_waves (s : State) (c : Core) : (s.setCore c).waves = s.waves := rfl
@[simp] theorem State.setCore_groups (s : State) (c : Core) : (s.setCore c).groups = s.groups := rfl
@[simp] theorem State.setCore_grids (s : State) (c : Core) : (s.setCore c).grids = s.grids := rfl
@[simp] theorem State.setCore_regions (s : State) (c : Core) : (s.setCore c).regions = s.regions := rfl
@[simp] theorem State.setCore_lrate (s : State) (c : Core) : (s.setCore c).lrate = s.lrate := rfl
@[simp] theorem State.setCore_lrateAt (s : State) (c : Core) : (s.setCore c).lrateAt = s.lrateAt := rfl
@[simp] theorem State.setCore_lrateQ (s : State) (c : Core) : (s.setCore c).lrateQ = s.lrateQ := rfl
@[simp] theorem State.setCore_lateWr (s : State) (c : Core) : (s.setCore c).lateWr = s.lateWr := rfl
@[simp] theorem State.setCore_fault (s : State) (c : Core) : (s.setCore c).fault = s.fault := rfl
@[simp] theorem State.setCore_sys (s : State) (c : Core) : (s.setCore c).sys = s.sys := rfl
@[simp] theorem State.setCore_conts (s : State) (c : Core) : (s.setCore c).conts = s.conts := rfl
@[simp] theorem State.setCore_drawers (s : State) (c : Core) : (s.setCore c).drawers = s.drawers := rfl
@[simp] theorem State.setCore_culls (s : State) (c : Core) : (s.setCore c).culls = s.culls := rfl
@[simp] theorem State.setCore_draws (s : State) (c : Core) : (s.setCore c).draws = s.draws := rfl
@[simp] theorem State.setCore_tex (s : State) (c : Core) : (s.setCore c).tex = s.tex := rfl
@[simp] theorem State.setCore_disp (s : State) (c : Core) : (s.setCore c).disp = s.disp := rfl
@[simp] theorem State.setCore_fab (s : State) (c : Core) : (s.setCore c).fab = s.fab := rfl
@[simp] theorem State.setCore_hub (s : State) (c : Core) : (s.setCore c).hub = s.hub := rfl
@[simp] theorem State.setCore_sw (s : State) (c : Core) : (s.setCore c).sw = s.sw := rfl
@[simp] theorem State.setCore_dbg (s : State) (c : Core) : (s.setCore c).dbg = s.dbg := rfl
@[simp] theorem State.setCore_rep (s : State) (c : Core) : (s.setCore c).rep = s.rep := rfl
@[simp] theorem State.setCore_life (s : State) (c : Core) : (s.setCore c).life = s.life := rfl

/-! `State.modWave`: waves alone. -/
@[simp] theorem State.modWave_now (s : State) (u : Nat) (f : Wave → Wave) : (s.modWave u f).now = s.now := rfl
@[simp] theorem State.modWave_nextUid (s : State) (u : Nat) (f : Wave → Wave) : (s.modWave u f).nextUid = s.nextUid := rfl
@[simp] theorem State.modWave_seq (s : State) (u : Nat) (f : Wave → Wave) : (s.modWave u f).seq = s.seq := rfl
@[simp] theorem State.modWave_freeCount (s : State) (u : Nat) (f : Wave → Wave) : (s.modWave u f).freeCount = s.freeCount := rfl
@[simp] theorem State.modWave_arg (s : State) (u : Nat) (f : Wave → Wave) : (s.modWave u f).arg = s.arg := rfl
@[simp] theorem State.modWave_posted (s : State) (u : Nat) (f : Wave → Wave) : (s.modWave u f).posted = s.posted := rfl
@[simp] theorem State.modWave_agenda (s : State) (u : Nat) (f : Wave → Wave) : (s.modWave u f).agenda = s.agenda := rfl
@[simp] theorem State.modWave_flight (s : State) (u : Nat) (f : Wave → Wave) : (s.modWave u f).flight = s.flight := rfl
@[simp] theorem State.modWave_mem (s : State) (u : Nat) (f : Wave → Wave) : (s.modWave u f).mem = s.mem := rfl
@[simp] theorem State.modWave_memBad (s : State) (u : Nat) (f : Wave → Wave) : (s.modWave u f).memBad = s.memBad := rfl
@[simp] theorem State.modWave_l2 (s : State) (u : Nat) (f : Wave → Wave) : (s.modWave u f).l2 = s.l2 := rfl
@[simp] theorem State.modWave_views (s : State) (u : Nat) (f : Wave → Wave) : (s.modWave u f).views = s.views := rfl
@[simp] theorem State.modWave_cores (s : State) (u : Nat) (f : Wave → Wave) : (s.modWave u f).cores = s.cores := rfl
@[simp] theorem State.modWave_waves (s : State) (u : Nat) (f : Wave → Wave) : (s.modWave u f).waves = s.waves.map fun w => if w.uid == u then f w else w := rfl
@[simp] theorem State.modWave_groups (s : State) (u : Nat) (f : Wave → Wave) : (s.modWave u f).groups = s.groups := rfl
@[simp] theorem State.modWave_grids (s : State) (u : Nat) (f : Wave → Wave) : (s.modWave u f).grids = s.grids := rfl
@[simp] theorem State.modWave_regions (s : State) (u : Nat) (f : Wave → Wave) : (s.modWave u f).regions = s.regions := rfl
@[simp] theorem State.modWave_lrate (s : State) (u : Nat) (f : Wave → Wave) : (s.modWave u f).lrate = s.lrate := rfl
@[simp] theorem State.modWave_lrateAt (s : State) (u : Nat) (f : Wave → Wave) : (s.modWave u f).lrateAt = s.lrateAt := rfl
@[simp] theorem State.modWave_lrateQ (s : State) (u : Nat) (f : Wave → Wave) : (s.modWave u f).lrateQ = s.lrateQ := rfl
@[simp] theorem State.modWave_lateWr (s : State) (u : Nat) (f : Wave → Wave) : (s.modWave u f).lateWr = s.lateWr := rfl
@[simp] theorem State.modWave_fault (s : State) (u : Nat) (f : Wave → Wave) : (s.modWave u f).fault = s.fault := rfl
@[simp] theorem State.modWave_sys (s : State) (u : Nat) (f : Wave → Wave) : (s.modWave u f).sys = s.sys := rfl
@[simp] theorem State.modWave_conts (s : State) (u : Nat) (f : Wave → Wave) : (s.modWave u f).conts = s.conts := rfl
@[simp] theorem State.modWave_drawers (s : State) (u : Nat) (f : Wave → Wave) : (s.modWave u f).drawers = s.drawers := rfl
@[simp] theorem State.modWave_culls (s : State) (u : Nat) (f : Wave → Wave) : (s.modWave u f).culls = s.culls := rfl
@[simp] theorem State.modWave_draws (s : State) (u : Nat) (f : Wave → Wave) : (s.modWave u f).draws = s.draws := rfl
@[simp] theorem State.modWave_tex (s : State) (u : Nat) (f : Wave → Wave) : (s.modWave u f).tex = s.tex := rfl
@[simp] theorem State.modWave_disp (s : State) (u : Nat) (f : Wave → Wave) : (s.modWave u f).disp = s.disp := rfl
@[simp] theorem State.modWave_fab (s : State) (u : Nat) (f : Wave → Wave) : (s.modWave u f).fab = s.fab := rfl
@[simp] theorem State.modWave_hub (s : State) (u : Nat) (f : Wave → Wave) : (s.modWave u f).hub = s.hub := rfl
@[simp] theorem State.modWave_sw (s : State) (u : Nat) (f : Wave → Wave) : (s.modWave u f).sw = s.sw := rfl
@[simp] theorem State.modWave_dbg (s : State) (u : Nat) (f : Wave → Wave) : (s.modWave u f).dbg = s.dbg := rfl
@[simp] theorem State.modWave_rep (s : State) (u : Nat) (f : Wave → Wave) : (s.modWave u f).rep = s.rep := rfl
@[simp] theorem State.modWave_life (s : State) (u : Nat) (f : Wave → Wave) : (s.modWave u f).life = s.life := rfl

/-! `State.modGroup`: groups alone. -/
@[simp] theorem State.modGroup_now (s : State) (u : Nat) (f : Group → Group) : (s.modGroup u f).now = s.now := rfl
@[simp] theorem State.modGroup_nextUid (s : State) (u : Nat) (f : Group → Group) : (s.modGroup u f).nextUid = s.nextUid := rfl
@[simp] theorem State.modGroup_seq (s : State) (u : Nat) (f : Group → Group) : (s.modGroup u f).seq = s.seq := rfl
@[simp] theorem State.modGroup_freeCount (s : State) (u : Nat) (f : Group → Group) : (s.modGroup u f).freeCount = s.freeCount := rfl
@[simp] theorem State.modGroup_arg (s : State) (u : Nat) (f : Group → Group) : (s.modGroup u f).arg = s.arg := rfl
@[simp] theorem State.modGroup_posted (s : State) (u : Nat) (f : Group → Group) : (s.modGroup u f).posted = s.posted := rfl
@[simp] theorem State.modGroup_agenda (s : State) (u : Nat) (f : Group → Group) : (s.modGroup u f).agenda = s.agenda := rfl
@[simp] theorem State.modGroup_flight (s : State) (u : Nat) (f : Group → Group) : (s.modGroup u f).flight = s.flight := rfl
@[simp] theorem State.modGroup_mem (s : State) (u : Nat) (f : Group → Group) : (s.modGroup u f).mem = s.mem := rfl
@[simp] theorem State.modGroup_memBad (s : State) (u : Nat) (f : Group → Group) : (s.modGroup u f).memBad = s.memBad := rfl
@[simp] theorem State.modGroup_l2 (s : State) (u : Nat) (f : Group → Group) : (s.modGroup u f).l2 = s.l2 := rfl
@[simp] theorem State.modGroup_views (s : State) (u : Nat) (f : Group → Group) : (s.modGroup u f).views = s.views := rfl
@[simp] theorem State.modGroup_cores (s : State) (u : Nat) (f : Group → Group) : (s.modGroup u f).cores = s.cores := rfl
@[simp] theorem State.modGroup_waves (s : State) (u : Nat) (f : Group → Group) : (s.modGroup u f).waves = s.waves := rfl
@[simp] theorem State.modGroup_groups (s : State) (u : Nat) (f : Group → Group) : (s.modGroup u f).groups = s.groups.map fun g => if g.uid == u then f g else g := rfl
@[simp] theorem State.modGroup_grids (s : State) (u : Nat) (f : Group → Group) : (s.modGroup u f).grids = s.grids := rfl
@[simp] theorem State.modGroup_regions (s : State) (u : Nat) (f : Group → Group) : (s.modGroup u f).regions = s.regions := rfl
@[simp] theorem State.modGroup_lrate (s : State) (u : Nat) (f : Group → Group) : (s.modGroup u f).lrate = s.lrate := rfl
@[simp] theorem State.modGroup_lrateAt (s : State) (u : Nat) (f : Group → Group) : (s.modGroup u f).lrateAt = s.lrateAt := rfl
@[simp] theorem State.modGroup_lrateQ (s : State) (u : Nat) (f : Group → Group) : (s.modGroup u f).lrateQ = s.lrateQ := rfl
@[simp] theorem State.modGroup_lateWr (s : State) (u : Nat) (f : Group → Group) : (s.modGroup u f).lateWr = s.lateWr := rfl
@[simp] theorem State.modGroup_fault (s : State) (u : Nat) (f : Group → Group) : (s.modGroup u f).fault = s.fault := rfl
@[simp] theorem State.modGroup_sys (s : State) (u : Nat) (f : Group → Group) : (s.modGroup u f).sys = s.sys := rfl
@[simp] theorem State.modGroup_conts (s : State) (u : Nat) (f : Group → Group) : (s.modGroup u f).conts = s.conts := rfl
@[simp] theorem State.modGroup_drawers (s : State) (u : Nat) (f : Group → Group) : (s.modGroup u f).drawers = s.drawers := rfl
@[simp] theorem State.modGroup_culls (s : State) (u : Nat) (f : Group → Group) : (s.modGroup u f).culls = s.culls := rfl
@[simp] theorem State.modGroup_draws (s : State) (u : Nat) (f : Group → Group) : (s.modGroup u f).draws = s.draws := rfl
@[simp] theorem State.modGroup_tex (s : State) (u : Nat) (f : Group → Group) : (s.modGroup u f).tex = s.tex := rfl
@[simp] theorem State.modGroup_disp (s : State) (u : Nat) (f : Group → Group) : (s.modGroup u f).disp = s.disp := rfl
@[simp] theorem State.modGroup_fab (s : State) (u : Nat) (f : Group → Group) : (s.modGroup u f).fab = s.fab := rfl
@[simp] theorem State.modGroup_hub (s : State) (u : Nat) (f : Group → Group) : (s.modGroup u f).hub = s.hub := rfl
@[simp] theorem State.modGroup_sw (s : State) (u : Nat) (f : Group → Group) : (s.modGroup u f).sw = s.sw := rfl
@[simp] theorem State.modGroup_dbg (s : State) (u : Nat) (f : Group → Group) : (s.modGroup u f).dbg = s.dbg := rfl
@[simp] theorem State.modGroup_rep (s : State) (u : Nat) (f : Group → Group) : (s.modGroup u f).rep = s.rep := rfl
@[simp] theorem State.modGroup_life (s : State) (u : Nat) (f : Group → Group) : (s.modGroup u f).life = s.life := rfl

/-! `State.modGrid`: grids alone. -/
@[simp] theorem State.modGrid_now (s : State) (u : Nat) (f : Grid → Grid) : (s.modGrid u f).now = s.now := rfl
@[simp] theorem State.modGrid_nextUid (s : State) (u : Nat) (f : Grid → Grid) : (s.modGrid u f).nextUid = s.nextUid := rfl
@[simp] theorem State.modGrid_seq (s : State) (u : Nat) (f : Grid → Grid) : (s.modGrid u f).seq = s.seq := rfl
@[simp] theorem State.modGrid_freeCount (s : State) (u : Nat) (f : Grid → Grid) : (s.modGrid u f).freeCount = s.freeCount := rfl
@[simp] theorem State.modGrid_arg (s : State) (u : Nat) (f : Grid → Grid) : (s.modGrid u f).arg = s.arg := rfl
@[simp] theorem State.modGrid_posted (s : State) (u : Nat) (f : Grid → Grid) : (s.modGrid u f).posted = s.posted := rfl
@[simp] theorem State.modGrid_agenda (s : State) (u : Nat) (f : Grid → Grid) : (s.modGrid u f).agenda = s.agenda := rfl
@[simp] theorem State.modGrid_flight (s : State) (u : Nat) (f : Grid → Grid) : (s.modGrid u f).flight = s.flight := rfl
@[simp] theorem State.modGrid_mem (s : State) (u : Nat) (f : Grid → Grid) : (s.modGrid u f).mem = s.mem := rfl
@[simp] theorem State.modGrid_memBad (s : State) (u : Nat) (f : Grid → Grid) : (s.modGrid u f).memBad = s.memBad := rfl
@[simp] theorem State.modGrid_l2 (s : State) (u : Nat) (f : Grid → Grid) : (s.modGrid u f).l2 = s.l2 := rfl
@[simp] theorem State.modGrid_views (s : State) (u : Nat) (f : Grid → Grid) : (s.modGrid u f).views = s.views := rfl
@[simp] theorem State.modGrid_cores (s : State) (u : Nat) (f : Grid → Grid) : (s.modGrid u f).cores = s.cores := rfl
@[simp] theorem State.modGrid_waves (s : State) (u : Nat) (f : Grid → Grid) : (s.modGrid u f).waves = s.waves := rfl
@[simp] theorem State.modGrid_groups (s : State) (u : Nat) (f : Grid → Grid) : (s.modGrid u f).groups = s.groups := rfl
@[simp] theorem State.modGrid_grids (s : State) (u : Nat) (f : Grid → Grid) : (s.modGrid u f).grids = s.grids.map fun g => if g.uid == u then f g else g := rfl
@[simp] theorem State.modGrid_regions (s : State) (u : Nat) (f : Grid → Grid) : (s.modGrid u f).regions = s.regions := rfl
@[simp] theorem State.modGrid_lrate (s : State) (u : Nat) (f : Grid → Grid) : (s.modGrid u f).lrate = s.lrate := rfl
@[simp] theorem State.modGrid_lrateAt (s : State) (u : Nat) (f : Grid → Grid) : (s.modGrid u f).lrateAt = s.lrateAt := rfl
@[simp] theorem State.modGrid_lrateQ (s : State) (u : Nat) (f : Grid → Grid) : (s.modGrid u f).lrateQ = s.lrateQ := rfl
@[simp] theorem State.modGrid_lateWr (s : State) (u : Nat) (f : Grid → Grid) : (s.modGrid u f).lateWr = s.lateWr := rfl
@[simp] theorem State.modGrid_fault (s : State) (u : Nat) (f : Grid → Grid) : (s.modGrid u f).fault = s.fault := rfl
@[simp] theorem State.modGrid_sys (s : State) (u : Nat) (f : Grid → Grid) : (s.modGrid u f).sys = s.sys := rfl
@[simp] theorem State.modGrid_conts (s : State) (u : Nat) (f : Grid → Grid) : (s.modGrid u f).conts = s.conts := rfl
@[simp] theorem State.modGrid_drawers (s : State) (u : Nat) (f : Grid → Grid) : (s.modGrid u f).drawers = s.drawers := rfl
@[simp] theorem State.modGrid_culls (s : State) (u : Nat) (f : Grid → Grid) : (s.modGrid u f).culls = s.culls := rfl
@[simp] theorem State.modGrid_draws (s : State) (u : Nat) (f : Grid → Grid) : (s.modGrid u f).draws = s.draws := rfl
@[simp] theorem State.modGrid_tex (s : State) (u : Nat) (f : Grid → Grid) : (s.modGrid u f).tex = s.tex := rfl
@[simp] theorem State.modGrid_disp (s : State) (u : Nat) (f : Grid → Grid) : (s.modGrid u f).disp = s.disp := rfl
@[simp] theorem State.modGrid_fab (s : State) (u : Nat) (f : Grid → Grid) : (s.modGrid u f).fab = s.fab := rfl
@[simp] theorem State.modGrid_hub (s : State) (u : Nat) (f : Grid → Grid) : (s.modGrid u f).hub = s.hub := rfl
@[simp] theorem State.modGrid_sw (s : State) (u : Nat) (f : Grid → Grid) : (s.modGrid u f).sw = s.sw := rfl
@[simp] theorem State.modGrid_dbg (s : State) (u : Nat) (f : Grid → Grid) : (s.modGrid u f).dbg = s.dbg := rfl
@[simp] theorem State.modGrid_rep (s : State) (u : Nat) (f : Grid → Grid) : (s.modGrid u f).rep = s.rep := rfl
@[simp] theorem State.modGrid_life (s : State) (u : Nat) (f : Grid → Grid) : (s.modGrid u f).life = s.life := rfl

/-! `State.setLine`: disp alone. -/
@[simp] theorem State.setLine_now (s : State) (l : LineCore) : (s.setLine l).now = s.now := rfl
@[simp] theorem State.setLine_nextUid (s : State) (l : LineCore) : (s.setLine l).nextUid = s.nextUid := rfl
@[simp] theorem State.setLine_seq (s : State) (l : LineCore) : (s.setLine l).seq = s.seq := rfl
@[simp] theorem State.setLine_freeCount (s : State) (l : LineCore) : (s.setLine l).freeCount = s.freeCount := rfl
@[simp] theorem State.setLine_arg (s : State) (l : LineCore) : (s.setLine l).arg = s.arg := rfl
@[simp] theorem State.setLine_posted (s : State) (l : LineCore) : (s.setLine l).posted = s.posted := rfl
@[simp] theorem State.setLine_agenda (s : State) (l : LineCore) : (s.setLine l).agenda = s.agenda := rfl
@[simp] theorem State.setLine_flight (s : State) (l : LineCore) : (s.setLine l).flight = s.flight := rfl
@[simp] theorem State.setLine_mem (s : State) (l : LineCore) : (s.setLine l).mem = s.mem := rfl
@[simp] theorem State.setLine_memBad (s : State) (l : LineCore) : (s.setLine l).memBad = s.memBad := rfl
@[simp] theorem State.setLine_l2 (s : State) (l : LineCore) : (s.setLine l).l2 = s.l2 := rfl
@[simp] theorem State.setLine_views (s : State) (l : LineCore) : (s.setLine l).views = s.views := rfl
@[simp] theorem State.setLine_cores (s : State) (l : LineCore) : (s.setLine l).cores = s.cores := rfl
@[simp] theorem State.setLine_waves (s : State) (l : LineCore) : (s.setLine l).waves = s.waves := rfl
@[simp] theorem State.setLine_groups (s : State) (l : LineCore) : (s.setLine l).groups = s.groups := rfl
@[simp] theorem State.setLine_grids (s : State) (l : LineCore) : (s.setLine l).grids = s.grids := rfl
@[simp] theorem State.setLine_regions (s : State) (l : LineCore) : (s.setLine l).regions = s.regions := rfl
@[simp] theorem State.setLine_lrate (s : State) (l : LineCore) : (s.setLine l).lrate = s.lrate := rfl
@[simp] theorem State.setLine_lrateAt (s : State) (l : LineCore) : (s.setLine l).lrateAt = s.lrateAt := rfl
@[simp] theorem State.setLine_lrateQ (s : State) (l : LineCore) : (s.setLine l).lrateQ = s.lrateQ := rfl
@[simp] theorem State.setLine_lateWr (s : State) (l : LineCore) : (s.setLine l).lateWr = s.lateWr := rfl
@[simp] theorem State.setLine_fault (s : State) (l : LineCore) : (s.setLine l).fault = s.fault := rfl
@[simp] theorem State.setLine_sys (s : State) (l : LineCore) : (s.setLine l).sys = s.sys := rfl
@[simp] theorem State.setLine_conts (s : State) (l : LineCore) : (s.setLine l).conts = s.conts := rfl
@[simp] theorem State.setLine_drawers (s : State) (l : LineCore) : (s.setLine l).drawers = s.drawers := rfl
@[simp] theorem State.setLine_culls (s : State) (l : LineCore) : (s.setLine l).culls = s.culls := rfl
@[simp] theorem State.setLine_draws (s : State) (l : LineCore) : (s.setLine l).draws = s.draws := rfl
@[simp] theorem State.setLine_tex (s : State) (l : LineCore) : (s.setLine l).tex = s.tex := rfl
@[simp] theorem State.setLine_disp (s : State) (l : LineCore) : (s.setLine l).disp = { s.disp with lines := upd (fun d => d.id == l.id) l s.disp.lines } := rfl
@[simp] theorem State.setLine_fab (s : State) (l : LineCore) : (s.setLine l).fab = s.fab := rfl
@[simp] theorem State.setLine_hub (s : State) (l : LineCore) : (s.setLine l).hub = s.hub := rfl
@[simp] theorem State.setLine_sw (s : State) (l : LineCore) : (s.setLine l).sw = s.sw := rfl
@[simp] theorem State.setLine_dbg (s : State) (l : LineCore) : (s.setLine l).dbg = s.dbg := rfl
@[simp] theorem State.setLine_rep (s : State) (l : LineCore) : (s.setLine l).rep = s.rep := rfl
@[simp] theorem State.setLine_life (s : State) (l : LineCore) : (s.setLine l).life = s.life := rfl

/-! `State.setHead`: disp alone. -/
@[simp] theorem State.setHead_now (s : State) (x : HeadUnit) : (s.setHead x).now = s.now := rfl
@[simp] theorem State.setHead_nextUid (s : State) (x : HeadUnit) : (s.setHead x).nextUid = s.nextUid := rfl
@[simp] theorem State.setHead_seq (s : State) (x : HeadUnit) : (s.setHead x).seq = s.seq := rfl
@[simp] theorem State.setHead_freeCount (s : State) (x : HeadUnit) : (s.setHead x).freeCount = s.freeCount := rfl
@[simp] theorem State.setHead_arg (s : State) (x : HeadUnit) : (s.setHead x).arg = s.arg := rfl
@[simp] theorem State.setHead_posted (s : State) (x : HeadUnit) : (s.setHead x).posted = s.posted := rfl
@[simp] theorem State.setHead_agenda (s : State) (x : HeadUnit) : (s.setHead x).agenda = s.agenda := rfl
@[simp] theorem State.setHead_flight (s : State) (x : HeadUnit) : (s.setHead x).flight = s.flight := rfl
@[simp] theorem State.setHead_mem (s : State) (x : HeadUnit) : (s.setHead x).mem = s.mem := rfl
@[simp] theorem State.setHead_memBad (s : State) (x : HeadUnit) : (s.setHead x).memBad = s.memBad := rfl
@[simp] theorem State.setHead_l2 (s : State) (x : HeadUnit) : (s.setHead x).l2 = s.l2 := rfl
@[simp] theorem State.setHead_views (s : State) (x : HeadUnit) : (s.setHead x).views = s.views := rfl
@[simp] theorem State.setHead_cores (s : State) (x : HeadUnit) : (s.setHead x).cores = s.cores := rfl
@[simp] theorem State.setHead_waves (s : State) (x : HeadUnit) : (s.setHead x).waves = s.waves := rfl
@[simp] theorem State.setHead_groups (s : State) (x : HeadUnit) : (s.setHead x).groups = s.groups := rfl
@[simp] theorem State.setHead_grids (s : State) (x : HeadUnit) : (s.setHead x).grids = s.grids := rfl
@[simp] theorem State.setHead_regions (s : State) (x : HeadUnit) : (s.setHead x).regions = s.regions := rfl
@[simp] theorem State.setHead_lrate (s : State) (x : HeadUnit) : (s.setHead x).lrate = s.lrate := rfl
@[simp] theorem State.setHead_lrateAt (s : State) (x : HeadUnit) : (s.setHead x).lrateAt = s.lrateAt := rfl
@[simp] theorem State.setHead_lrateQ (s : State) (x : HeadUnit) : (s.setHead x).lrateQ = s.lrateQ := rfl
@[simp] theorem State.setHead_lateWr (s : State) (x : HeadUnit) : (s.setHead x).lateWr = s.lateWr := rfl
@[simp] theorem State.setHead_fault (s : State) (x : HeadUnit) : (s.setHead x).fault = s.fault := rfl
@[simp] theorem State.setHead_sys (s : State) (x : HeadUnit) : (s.setHead x).sys = s.sys := rfl
@[simp] theorem State.setHead_conts (s : State) (x : HeadUnit) : (s.setHead x).conts = s.conts := rfl
@[simp] theorem State.setHead_drawers (s : State) (x : HeadUnit) : (s.setHead x).drawers = s.drawers := rfl
@[simp] theorem State.setHead_culls (s : State) (x : HeadUnit) : (s.setHead x).culls = s.culls := rfl
@[simp] theorem State.setHead_draws (s : State) (x : HeadUnit) : (s.setHead x).draws = s.draws := rfl
@[simp] theorem State.setHead_tex (s : State) (x : HeadUnit) : (s.setHead x).tex = s.tex := rfl
@[simp] theorem State.setHead_disp (s : State) (x : HeadUnit) : (s.setHead x).disp = { s.disp with heads := upd (fun d => d.id == x.id) x s.disp.heads } := rfl
@[simp] theorem State.setHead_fab (s : State) (x : HeadUnit) : (s.setHead x).fab = s.fab := rfl
@[simp] theorem State.setHead_hub (s : State) (x : HeadUnit) : (s.setHead x).hub = s.hub := rfl
@[simp] theorem State.setHead_sw (s : State) (x : HeadUnit) : (s.setHead x).sw = s.sw := rfl
@[simp] theorem State.setHead_dbg (s : State) (x : HeadUnit) : (s.setHead x).dbg = s.dbg := rfl
@[simp] theorem State.setHead_rep (s : State) (x : HeadUnit) : (s.setHead x).rep = s.rep := rfl
@[simp] theorem State.setHead_life (s : State) (x : HeadUnit) : (s.setHead x).life = s.life := rfl

/-! `State.setQueue`: hub alone. -/
@[simp] theorem State.setQueue_now (s : State) (x : CmdQueue) : (s.setQueue x).now = s.now := rfl
@[simp] theorem State.setQueue_nextUid (s : State) (x : CmdQueue) : (s.setQueue x).nextUid = s.nextUid := rfl
@[simp] theorem State.setQueue_seq (s : State) (x : CmdQueue) : (s.setQueue x).seq = s.seq := rfl
@[simp] theorem State.setQueue_freeCount (s : State) (x : CmdQueue) : (s.setQueue x).freeCount = s.freeCount := rfl
@[simp] theorem State.setQueue_arg (s : State) (x : CmdQueue) : (s.setQueue x).arg = s.arg := rfl
@[simp] theorem State.setQueue_posted (s : State) (x : CmdQueue) : (s.setQueue x).posted = s.posted := rfl
@[simp] theorem State.setQueue_agenda (s : State) (x : CmdQueue) : (s.setQueue x).agenda = s.agenda := rfl
@[simp] theorem State.setQueue_flight (s : State) (x : CmdQueue) : (s.setQueue x).flight = s.flight := rfl
@[simp] theorem State.setQueue_mem (s : State) (x : CmdQueue) : (s.setQueue x).mem = s.mem := rfl
@[simp] theorem State.setQueue_memBad (s : State) (x : CmdQueue) : (s.setQueue x).memBad = s.memBad := rfl
@[simp] theorem State.setQueue_l2 (s : State) (x : CmdQueue) : (s.setQueue x).l2 = s.l2 := rfl
@[simp] theorem State.setQueue_views (s : State) (x : CmdQueue) : (s.setQueue x).views = s.views := rfl
@[simp] theorem State.setQueue_cores (s : State) (x : CmdQueue) : (s.setQueue x).cores = s.cores := rfl
@[simp] theorem State.setQueue_waves (s : State) (x : CmdQueue) : (s.setQueue x).waves = s.waves := rfl
@[simp] theorem State.setQueue_groups (s : State) (x : CmdQueue) : (s.setQueue x).groups = s.groups := rfl
@[simp] theorem State.setQueue_grids (s : State) (x : CmdQueue) : (s.setQueue x).grids = s.grids := rfl
@[simp] theorem State.setQueue_regions (s : State) (x : CmdQueue) : (s.setQueue x).regions = s.regions := rfl
@[simp] theorem State.setQueue_lrate (s : State) (x : CmdQueue) : (s.setQueue x).lrate = s.lrate := rfl
@[simp] theorem State.setQueue_lrateAt (s : State) (x : CmdQueue) : (s.setQueue x).lrateAt = s.lrateAt := rfl
@[simp] theorem State.setQueue_lrateQ (s : State) (x : CmdQueue) : (s.setQueue x).lrateQ = s.lrateQ := rfl
@[simp] theorem State.setQueue_lateWr (s : State) (x : CmdQueue) : (s.setQueue x).lateWr = s.lateWr := rfl
@[simp] theorem State.setQueue_fault (s : State) (x : CmdQueue) : (s.setQueue x).fault = s.fault := rfl
@[simp] theorem State.setQueue_sys (s : State) (x : CmdQueue) : (s.setQueue x).sys = s.sys := rfl
@[simp] theorem State.setQueue_conts (s : State) (x : CmdQueue) : (s.setQueue x).conts = s.conts := rfl
@[simp] theorem State.setQueue_drawers (s : State) (x : CmdQueue) : (s.setQueue x).drawers = s.drawers := rfl
@[simp] theorem State.setQueue_culls (s : State) (x : CmdQueue) : (s.setQueue x).culls = s.culls := rfl
@[simp] theorem State.setQueue_draws (s : State) (x : CmdQueue) : (s.setQueue x).draws = s.draws := rfl
@[simp] theorem State.setQueue_tex (s : State) (x : CmdQueue) : (s.setQueue x).tex = s.tex := rfl
@[simp] theorem State.setQueue_disp (s : State) (x : CmdQueue) : (s.setQueue x).disp = s.disp := rfl
@[simp] theorem State.setQueue_fab (s : State) (x : CmdQueue) : (s.setQueue x).fab = s.fab := rfl
@[simp] theorem State.setQueue_hub (s : State) (x : CmdQueue) : (s.setQueue x).hub = { s.hub with queues := upd (fun d => d.id == x.id) x s.hub.queues } := rfl
@[simp] theorem State.setQueue_sw (s : State) (x : CmdQueue) : (s.setQueue x).sw = s.sw := rfl
@[simp] theorem State.setQueue_dbg (s : State) (x : CmdQueue) : (s.setQueue x).dbg = s.dbg := rfl
@[simp] theorem State.setQueue_rep (s : State) (x : CmdQueue) : (s.setQueue x).rep = s.rep := rfl
@[simp] theorem State.setQueue_life (s : State) (x : CmdQueue) : (s.setQueue x).life = s.life := rfl

/-! `State.setPeer`: hub alone. -/
@[simp] theorem State.setPeer_now (s : State) (x : PeerPort) : (s.setPeer x).now = s.now := rfl
@[simp] theorem State.setPeer_nextUid (s : State) (x : PeerPort) : (s.setPeer x).nextUid = s.nextUid := rfl
@[simp] theorem State.setPeer_seq (s : State) (x : PeerPort) : (s.setPeer x).seq = s.seq := rfl
@[simp] theorem State.setPeer_freeCount (s : State) (x : PeerPort) : (s.setPeer x).freeCount = s.freeCount := rfl
@[simp] theorem State.setPeer_arg (s : State) (x : PeerPort) : (s.setPeer x).arg = s.arg := rfl
@[simp] theorem State.setPeer_posted (s : State) (x : PeerPort) : (s.setPeer x).posted = s.posted := rfl
@[simp] theorem State.setPeer_agenda (s : State) (x : PeerPort) : (s.setPeer x).agenda = s.agenda := rfl
@[simp] theorem State.setPeer_flight (s : State) (x : PeerPort) : (s.setPeer x).flight = s.flight := rfl
@[simp] theorem State.setPeer_mem (s : State) (x : PeerPort) : (s.setPeer x).mem = s.mem := rfl
@[simp] theorem State.setPeer_memBad (s : State) (x : PeerPort) : (s.setPeer x).memBad = s.memBad := rfl
@[simp] theorem State.setPeer_l2 (s : State) (x : PeerPort) : (s.setPeer x).l2 = s.l2 := rfl
@[simp] theorem State.setPeer_views (s : State) (x : PeerPort) : (s.setPeer x).views = s.views := rfl
@[simp] theorem State.setPeer_cores (s : State) (x : PeerPort) : (s.setPeer x).cores = s.cores := rfl
@[simp] theorem State.setPeer_waves (s : State) (x : PeerPort) : (s.setPeer x).waves = s.waves := rfl
@[simp] theorem State.setPeer_groups (s : State) (x : PeerPort) : (s.setPeer x).groups = s.groups := rfl
@[simp] theorem State.setPeer_grids (s : State) (x : PeerPort) : (s.setPeer x).grids = s.grids := rfl
@[simp] theorem State.setPeer_regions (s : State) (x : PeerPort) : (s.setPeer x).regions = s.regions := rfl
@[simp] theorem State.setPeer_lrate (s : State) (x : PeerPort) : (s.setPeer x).lrate = s.lrate := rfl
@[simp] theorem State.setPeer_lrateAt (s : State) (x : PeerPort) : (s.setPeer x).lrateAt = s.lrateAt := rfl
@[simp] theorem State.setPeer_lrateQ (s : State) (x : PeerPort) : (s.setPeer x).lrateQ = s.lrateQ := rfl
@[simp] theorem State.setPeer_lateWr (s : State) (x : PeerPort) : (s.setPeer x).lateWr = s.lateWr := rfl
@[simp] theorem State.setPeer_fault (s : State) (x : PeerPort) : (s.setPeer x).fault = s.fault := rfl
@[simp] theorem State.setPeer_sys (s : State) (x : PeerPort) : (s.setPeer x).sys = s.sys := rfl
@[simp] theorem State.setPeer_conts (s : State) (x : PeerPort) : (s.setPeer x).conts = s.conts := rfl
@[simp] theorem State.setPeer_drawers (s : State) (x : PeerPort) : (s.setPeer x).drawers = s.drawers := rfl
@[simp] theorem State.setPeer_culls (s : State) (x : PeerPort) : (s.setPeer x).culls = s.culls := rfl
@[simp] theorem State.setPeer_draws (s : State) (x : PeerPort) : (s.setPeer x).draws = s.draws := rfl
@[simp] theorem State.setPeer_tex (s : State) (x : PeerPort) : (s.setPeer x).tex = s.tex := rfl
@[simp] theorem State.setPeer_disp (s : State) (x : PeerPort) : (s.setPeer x).disp = s.disp := rfl
@[simp] theorem State.setPeer_fab (s : State) (x : PeerPort) : (s.setPeer x).fab = s.fab := rfl
@[simp] theorem State.setPeer_hub (s : State) (x : PeerPort) : (s.setPeer x).hub = { s.hub with peers := upd (fun d => d.id == x.id) x s.hub.peers } := rfl
@[simp] theorem State.setPeer_sw (s : State) (x : PeerPort) : (s.setPeer x).sw = s.sw := rfl
@[simp] theorem State.setPeer_dbg (s : State) (x : PeerPort) : (s.setPeer x).dbg = s.dbg := rfl
@[simp] theorem State.setPeer_rep (s : State) (x : PeerPort) : (s.setPeer x).rep = s.rep := rfl
@[simp] theorem State.setPeer_life (s : State) (x : PeerPort) : (s.setPeer x).life = s.life := rfl

/-! `State.setStop`: fab alone. -/
@[simp] theorem State.setStop_now (s : State) (x : RingStop) : (s.setStop x).now = s.now := rfl
@[simp] theorem State.setStop_nextUid (s : State) (x : RingStop) : (s.setStop x).nextUid = s.nextUid := rfl
@[simp] theorem State.setStop_seq (s : State) (x : RingStop) : (s.setStop x).seq = s.seq := rfl
@[simp] theorem State.setStop_freeCount (s : State) (x : RingStop) : (s.setStop x).freeCount = s.freeCount := rfl
@[simp] theorem State.setStop_arg (s : State) (x : RingStop) : (s.setStop x).arg = s.arg := rfl
@[simp] theorem State.setStop_posted (s : State) (x : RingStop) : (s.setStop x).posted = s.posted := rfl
@[simp] theorem State.setStop_agenda (s : State) (x : RingStop) : (s.setStop x).agenda = s.agenda := rfl
@[simp] theorem State.setStop_flight (s : State) (x : RingStop) : (s.setStop x).flight = s.flight := rfl
@[simp] theorem State.setStop_mem (s : State) (x : RingStop) : (s.setStop x).mem = s.mem := rfl
@[simp] theorem State.setStop_memBad (s : State) (x : RingStop) : (s.setStop x).memBad = s.memBad := rfl
@[simp] theorem State.setStop_l2 (s : State) (x : RingStop) : (s.setStop x).l2 = s.l2 := rfl
@[simp] theorem State.setStop_views (s : State) (x : RingStop) : (s.setStop x).views = s.views := rfl
@[simp] theorem State.setStop_cores (s : State) (x : RingStop) : (s.setStop x).cores = s.cores := rfl
@[simp] theorem State.setStop_waves (s : State) (x : RingStop) : (s.setStop x).waves = s.waves := rfl
@[simp] theorem State.setStop_groups (s : State) (x : RingStop) : (s.setStop x).groups = s.groups := rfl
@[simp] theorem State.setStop_grids (s : State) (x : RingStop) : (s.setStop x).grids = s.grids := rfl
@[simp] theorem State.setStop_regions (s : State) (x : RingStop) : (s.setStop x).regions = s.regions := rfl
@[simp] theorem State.setStop_lrate (s : State) (x : RingStop) : (s.setStop x).lrate = s.lrate := rfl
@[simp] theorem State.setStop_lrateAt (s : State) (x : RingStop) : (s.setStop x).lrateAt = s.lrateAt := rfl
@[simp] theorem State.setStop_lrateQ (s : State) (x : RingStop) : (s.setStop x).lrateQ = s.lrateQ := rfl
@[simp] theorem State.setStop_lateWr (s : State) (x : RingStop) : (s.setStop x).lateWr = s.lateWr := rfl
@[simp] theorem State.setStop_fault (s : State) (x : RingStop) : (s.setStop x).fault = s.fault := rfl
@[simp] theorem State.setStop_sys (s : State) (x : RingStop) : (s.setStop x).sys = s.sys := rfl
@[simp] theorem State.setStop_conts (s : State) (x : RingStop) : (s.setStop x).conts = s.conts := rfl
@[simp] theorem State.setStop_drawers (s : State) (x : RingStop) : (s.setStop x).drawers = s.drawers := rfl
@[simp] theorem State.setStop_culls (s : State) (x : RingStop) : (s.setStop x).culls = s.culls := rfl
@[simp] theorem State.setStop_draws (s : State) (x : RingStop) : (s.setStop x).draws = s.draws := rfl
@[simp] theorem State.setStop_tex (s : State) (x : RingStop) : (s.setStop x).tex = s.tex := rfl
@[simp] theorem State.setStop_disp (s : State) (x : RingStop) : (s.setStop x).disp = s.disp := rfl
@[simp] theorem State.setStop_fab (s : State) (x : RingStop) : (s.setStop x).fab = { s.fab with stops := upd (fun d => d.gcore == x.gcore) x s.fab.stops } := rfl
@[simp] theorem State.setStop_hub (s : State) (x : RingStop) : (s.setStop x).hub = s.hub := rfl
@[simp] theorem State.setStop_sw (s : State) (x : RingStop) : (s.setStop x).sw = s.sw := rfl
@[simp] theorem State.setStop_dbg (s : State) (x : RingStop) : (s.setStop x).dbg = s.dbg := rfl
@[simp] theorem State.setStop_rep (s : State) (x : RingStop) : (s.setStop x).rep = s.rep := rfl
@[simp] theorem State.setStop_life (s : State) (x : RingStop) : (s.setStop x).life = s.life := rfl

/-! `State.setSection`: fab alone. -/
@[simp] theorem State.setSection_now (s : State) (x : RingSection) : (s.setSection x).now = s.now := rfl
@[simp] theorem State.setSection_nextUid (s : State) (x : RingSection) : (s.setSection x).nextUid = s.nextUid := rfl
@[simp] theorem State.setSection_seq (s : State) (x : RingSection) : (s.setSection x).seq = s.seq := rfl
@[simp] theorem State.setSection_freeCount (s : State) (x : RingSection) : (s.setSection x).freeCount = s.freeCount := rfl
@[simp] theorem State.setSection_arg (s : State) (x : RingSection) : (s.setSection x).arg = s.arg := rfl
@[simp] theorem State.setSection_posted (s : State) (x : RingSection) : (s.setSection x).posted = s.posted := rfl
@[simp] theorem State.setSection_agenda (s : State) (x : RingSection) : (s.setSection x).agenda = s.agenda := rfl
@[simp] theorem State.setSection_flight (s : State) (x : RingSection) : (s.setSection x).flight = s.flight := rfl
@[simp] theorem State.setSection_mem (s : State) (x : RingSection) : (s.setSection x).mem = s.mem := rfl
@[simp] theorem State.setSection_memBad (s : State) (x : RingSection) : (s.setSection x).memBad = s.memBad := rfl
@[simp] theorem State.setSection_l2 (s : State) (x : RingSection) : (s.setSection x).l2 = s.l2 := rfl
@[simp] theorem State.setSection_views (s : State) (x : RingSection) : (s.setSection x).views = s.views := rfl
@[simp] theorem State.setSection_cores (s : State) (x : RingSection) : (s.setSection x).cores = s.cores := rfl
@[simp] theorem State.setSection_waves (s : State) (x : RingSection) : (s.setSection x).waves = s.waves := rfl
@[simp] theorem State.setSection_groups (s : State) (x : RingSection) : (s.setSection x).groups = s.groups := rfl
@[simp] theorem State.setSection_grids (s : State) (x : RingSection) : (s.setSection x).grids = s.grids := rfl
@[simp] theorem State.setSection_regions (s : State) (x : RingSection) : (s.setSection x).regions = s.regions := rfl
@[simp] theorem State.setSection_lrate (s : State) (x : RingSection) : (s.setSection x).lrate = s.lrate := rfl
@[simp] theorem State.setSection_lrateAt (s : State) (x : RingSection) : (s.setSection x).lrateAt = s.lrateAt := rfl
@[simp] theorem State.setSection_lrateQ (s : State) (x : RingSection) : (s.setSection x).lrateQ = s.lrateQ := rfl
@[simp] theorem State.setSection_lateWr (s : State) (x : RingSection) : (s.setSection x).lateWr = s.lateWr := rfl
@[simp] theorem State.setSection_fault (s : State) (x : RingSection) : (s.setSection x).fault = s.fault := rfl
@[simp] theorem State.setSection_sys (s : State) (x : RingSection) : (s.setSection x).sys = s.sys := rfl
@[simp] theorem State.setSection_conts (s : State) (x : RingSection) : (s.setSection x).conts = s.conts := rfl
@[simp] theorem State.setSection_drawers (s : State) (x : RingSection) : (s.setSection x).drawers = s.drawers := rfl
@[simp] theorem State.setSection_culls (s : State) (x : RingSection) : (s.setSection x).culls = s.culls := rfl
@[simp] theorem State.setSection_draws (s : State) (x : RingSection) : (s.setSection x).draws = s.draws := rfl
@[simp] theorem State.setSection_tex (s : State) (x : RingSection) : (s.setSection x).tex = s.tex := rfl
@[simp] theorem State.setSection_disp (s : State) (x : RingSection) : (s.setSection x).disp = s.disp := rfl
@[simp] theorem State.setSection_fab (s : State) (x : RingSection) : (s.setSection x).fab = { s.fab with sections := upd (fun d => d.cluster == x.cluster) x s.fab.sections } := rfl
@[simp] theorem State.setSection_hub (s : State) (x : RingSection) : (s.setSection x).hub = s.hub := rfl
@[simp] theorem State.setSection_sw (s : State) (x : RingSection) : (s.setSection x).sw = s.sw := rfl
@[simp] theorem State.setSection_dbg (s : State) (x : RingSection) : (s.setSection x).dbg = s.dbg := rfl
@[simp] theorem State.setSection_rep (s : State) (x : RingSection) : (s.setSection x).rep = s.rep := rfl
@[simp] theorem State.setSection_life (s : State) (x : RingSection) : (s.setSection x).life = s.life := rfl

/-! `State.post`: posted alone. -/
@[simp] theorem State.post_now (s : State) (i : Instr) (a b c : Nat) (x : Dword) : (s.post i a b c x).now = s.now := rfl
@[simp] theorem State.post_nextUid (s : State) (i : Instr) (a b c : Nat) (x : Dword) : (s.post i a b c x).nextUid = s.nextUid := rfl
@[simp] theorem State.post_seq (s : State) (i : Instr) (a b c : Nat) (x : Dword) : (s.post i a b c x).seq = s.seq := rfl
@[simp] theorem State.post_freeCount (s : State) (i : Instr) (a b c : Nat) (x : Dword) : (s.post i a b c x).freeCount = s.freeCount := rfl
@[simp] theorem State.post_arg (s : State) (i : Instr) (a b c : Nat) (x : Dword) : (s.post i a b c x).arg = s.arg := rfl
@[simp] theorem State.post_posted (s : State) (i : Instr) (a b c : Nat) (x : Dword) : (s.post i a b c x).posted = s.posted ++ [{ instr := i, arg := { a, b, c, x } }] := rfl
@[simp] theorem State.post_agenda (s : State) (i : Instr) (a b c : Nat) (x : Dword) : (s.post i a b c x).agenda = s.agenda := rfl
@[simp] theorem State.post_flight (s : State) (i : Instr) (a b c : Nat) (x : Dword) : (s.post i a b c x).flight = s.flight := rfl
@[simp] theorem State.post_mem (s : State) (i : Instr) (a b c : Nat) (x : Dword) : (s.post i a b c x).mem = s.mem := rfl
@[simp] theorem State.post_memBad (s : State) (i : Instr) (a b c : Nat) (x : Dword) : (s.post i a b c x).memBad = s.memBad := rfl
@[simp] theorem State.post_l2 (s : State) (i : Instr) (a b c : Nat) (x : Dword) : (s.post i a b c x).l2 = s.l2 := rfl
@[simp] theorem State.post_views (s : State) (i : Instr) (a b c : Nat) (x : Dword) : (s.post i a b c x).views = s.views := rfl
@[simp] theorem State.post_cores (s : State) (i : Instr) (a b c : Nat) (x : Dword) : (s.post i a b c x).cores = s.cores := rfl
@[simp] theorem State.post_waves (s : State) (i : Instr) (a b c : Nat) (x : Dword) : (s.post i a b c x).waves = s.waves := rfl
@[simp] theorem State.post_groups (s : State) (i : Instr) (a b c : Nat) (x : Dword) : (s.post i a b c x).groups = s.groups := rfl
@[simp] theorem State.post_grids (s : State) (i : Instr) (a b c : Nat) (x : Dword) : (s.post i a b c x).grids = s.grids := rfl
@[simp] theorem State.post_regions (s : State) (i : Instr) (a b c : Nat) (x : Dword) : (s.post i a b c x).regions = s.regions := rfl
@[simp] theorem State.post_lrate (s : State) (i : Instr) (a b c : Nat) (x : Dword) : (s.post i a b c x).lrate = s.lrate := rfl
@[simp] theorem State.post_lrateAt (s : State) (i : Instr) (a b c : Nat) (x : Dword) : (s.post i a b c x).lrateAt = s.lrateAt := rfl
@[simp] theorem State.post_lrateQ (s : State) (i : Instr) (a b c : Nat) (x : Dword) : (s.post i a b c x).lrateQ = s.lrateQ := rfl
@[simp] theorem State.post_lateWr (s : State) (i : Instr) (a b c : Nat) (x : Dword) : (s.post i a b c x).lateWr = s.lateWr := rfl
@[simp] theorem State.post_fault (s : State) (i : Instr) (a b c : Nat) (x : Dword) : (s.post i a b c x).fault = s.fault := rfl
@[simp] theorem State.post_sys (s : State) (i : Instr) (a b c : Nat) (x : Dword) : (s.post i a b c x).sys = s.sys := rfl
@[simp] theorem State.post_conts (s : State) (i : Instr) (a b c : Nat) (x : Dword) : (s.post i a b c x).conts = s.conts := rfl
@[simp] theorem State.post_drawers (s : State) (i : Instr) (a b c : Nat) (x : Dword) : (s.post i a b c x).drawers = s.drawers := rfl
@[simp] theorem State.post_culls (s : State) (i : Instr) (a b c : Nat) (x : Dword) : (s.post i a b c x).culls = s.culls := rfl
@[simp] theorem State.post_draws (s : State) (i : Instr) (a b c : Nat) (x : Dword) : (s.post i a b c x).draws = s.draws := rfl
@[simp] theorem State.post_tex (s : State) (i : Instr) (a b c : Nat) (x : Dword) : (s.post i a b c x).tex = s.tex := rfl
@[simp] theorem State.post_disp (s : State) (i : Instr) (a b c : Nat) (x : Dword) : (s.post i a b c x).disp = s.disp := rfl
@[simp] theorem State.post_fab (s : State) (i : Instr) (a b c : Nat) (x : Dword) : (s.post i a b c x).fab = s.fab := rfl
@[simp] theorem State.post_hub (s : State) (i : Instr) (a b c : Nat) (x : Dword) : (s.post i a b c x).hub = s.hub := rfl
@[simp] theorem State.post_sw (s : State) (i : Instr) (a b c : Nat) (x : Dword) : (s.post i a b c x).sw = s.sw := rfl
@[simp] theorem State.post_dbg (s : State) (i : Instr) (a b c : Nat) (x : Dword) : (s.post i a b c x).dbg = s.dbg := rfl
@[simp] theorem State.post_rep (s : State) (i : Instr) (a b c : Nat) (x : Dword) : (s.post i a b c x).rep = s.rep := rfl
@[simp] theorem State.post_life (s : State) (i : Instr) (a b c : Nat) (x : Dword) : (s.post i a b c x).life = s.life := rfl

/-! `State.postFirst`: posted alone. -/
@[simp] theorem State.postFirst_now (s : State) (i : Instr) (a b c : Nat) (x : Dword) : (s.postFirst i a b c x).now = s.now := rfl
@[simp] theorem State.postFirst_nextUid (s : State) (i : Instr) (a b c : Nat) (x : Dword) : (s.postFirst i a b c x).nextUid = s.nextUid := rfl
@[simp] theorem State.postFirst_seq (s : State) (i : Instr) (a b c : Nat) (x : Dword) : (s.postFirst i a b c x).seq = s.seq := rfl
@[simp] theorem State.postFirst_freeCount (s : State) (i : Instr) (a b c : Nat) (x : Dword) : (s.postFirst i a b c x).freeCount = s.freeCount := rfl
@[simp] theorem State.postFirst_arg (s : State) (i : Instr) (a b c : Nat) (x : Dword) : (s.postFirst i a b c x).arg = s.arg := rfl
@[simp] theorem State.postFirst_posted (s : State) (i : Instr) (a b c : Nat) (x : Dword) : (s.postFirst i a b c x).posted = { instr := i, arg := { a, b, c, x } } :: s.posted := rfl
@[simp] theorem State.postFirst_agenda (s : State) (i : Instr) (a b c : Nat) (x : Dword) : (s.postFirst i a b c x).agenda = s.agenda := rfl
@[simp] theorem State.postFirst_flight (s : State) (i : Instr) (a b c : Nat) (x : Dword) : (s.postFirst i a b c x).flight = s.flight := rfl
@[simp] theorem State.postFirst_mem (s : State) (i : Instr) (a b c : Nat) (x : Dword) : (s.postFirst i a b c x).mem = s.mem := rfl
@[simp] theorem State.postFirst_memBad (s : State) (i : Instr) (a b c : Nat) (x : Dword) : (s.postFirst i a b c x).memBad = s.memBad := rfl
@[simp] theorem State.postFirst_l2 (s : State) (i : Instr) (a b c : Nat) (x : Dword) : (s.postFirst i a b c x).l2 = s.l2 := rfl
@[simp] theorem State.postFirst_views (s : State) (i : Instr) (a b c : Nat) (x : Dword) : (s.postFirst i a b c x).views = s.views := rfl
@[simp] theorem State.postFirst_cores (s : State) (i : Instr) (a b c : Nat) (x : Dword) : (s.postFirst i a b c x).cores = s.cores := rfl
@[simp] theorem State.postFirst_waves (s : State) (i : Instr) (a b c : Nat) (x : Dword) : (s.postFirst i a b c x).waves = s.waves := rfl
@[simp] theorem State.postFirst_groups (s : State) (i : Instr) (a b c : Nat) (x : Dword) : (s.postFirst i a b c x).groups = s.groups := rfl
@[simp] theorem State.postFirst_grids (s : State) (i : Instr) (a b c : Nat) (x : Dword) : (s.postFirst i a b c x).grids = s.grids := rfl
@[simp] theorem State.postFirst_regions (s : State) (i : Instr) (a b c : Nat) (x : Dword) : (s.postFirst i a b c x).regions = s.regions := rfl
@[simp] theorem State.postFirst_lrate (s : State) (i : Instr) (a b c : Nat) (x : Dword) : (s.postFirst i a b c x).lrate = s.lrate := rfl
@[simp] theorem State.postFirst_lrateAt (s : State) (i : Instr) (a b c : Nat) (x : Dword) : (s.postFirst i a b c x).lrateAt = s.lrateAt := rfl
@[simp] theorem State.postFirst_lrateQ (s : State) (i : Instr) (a b c : Nat) (x : Dword) : (s.postFirst i a b c x).lrateQ = s.lrateQ := rfl
@[simp] theorem State.postFirst_lateWr (s : State) (i : Instr) (a b c : Nat) (x : Dword) : (s.postFirst i a b c x).lateWr = s.lateWr := rfl
@[simp] theorem State.postFirst_fault (s : State) (i : Instr) (a b c : Nat) (x : Dword) : (s.postFirst i a b c x).fault = s.fault := rfl
@[simp] theorem State.postFirst_sys (s : State) (i : Instr) (a b c : Nat) (x : Dword) : (s.postFirst i a b c x).sys = s.sys := rfl
@[simp] theorem State.postFirst_conts (s : State) (i : Instr) (a b c : Nat) (x : Dword) : (s.postFirst i a b c x).conts = s.conts := rfl
@[simp] theorem State.postFirst_drawers (s : State) (i : Instr) (a b c : Nat) (x : Dword) : (s.postFirst i a b c x).drawers = s.drawers := rfl
@[simp] theorem State.postFirst_culls (s : State) (i : Instr) (a b c : Nat) (x : Dword) : (s.postFirst i a b c x).culls = s.culls := rfl
@[simp] theorem State.postFirst_draws (s : State) (i : Instr) (a b c : Nat) (x : Dword) : (s.postFirst i a b c x).draws = s.draws := rfl
@[simp] theorem State.postFirst_tex (s : State) (i : Instr) (a b c : Nat) (x : Dword) : (s.postFirst i a b c x).tex = s.tex := rfl
@[simp] theorem State.postFirst_disp (s : State) (i : Instr) (a b c : Nat) (x : Dword) : (s.postFirst i a b c x).disp = s.disp := rfl
@[simp] theorem State.postFirst_fab (s : State) (i : Instr) (a b c : Nat) (x : Dword) : (s.postFirst i a b c x).fab = s.fab := rfl
@[simp] theorem State.postFirst_hub (s : State) (i : Instr) (a b c : Nat) (x : Dword) : (s.postFirst i a b c x).hub = s.hub := rfl
@[simp] theorem State.postFirst_sw (s : State) (i : Instr) (a b c : Nat) (x : Dword) : (s.postFirst i a b c x).sw = s.sw := rfl
@[simp] theorem State.postFirst_dbg (s : State) (i : Instr) (a b c : Nat) (x : Dword) : (s.postFirst i a b c x).dbg = s.dbg := rfl
@[simp] theorem State.postFirst_rep (s : State) (i : Instr) (a b c : Nat) (x : Dword) : (s.postFirst i a b c x).rep = s.rep := rfl
@[simp] theorem State.postFirst_life (s : State) (i : Instr) (a b c : Nat) (x : Dword) : (s.postFirst i a b c x).life = s.life := rfl

/-! `State.fresh`: nextUid alone. -/
@[simp] theorem State.fresh_now (s : State) : (s.fresh.2).now = s.now := rfl
@[simp] theorem State.fresh_nextUid (s : State) : (s.fresh.2).nextUid = s.nextUid + 1 := rfl
@[simp] theorem State.fresh_seq (s : State) : (s.fresh.2).seq = s.seq := rfl
@[simp] theorem State.fresh_freeCount (s : State) : (s.fresh.2).freeCount = s.freeCount := rfl
@[simp] theorem State.fresh_arg (s : State) : (s.fresh.2).arg = s.arg := rfl
@[simp] theorem State.fresh_posted (s : State) : (s.fresh.2).posted = s.posted := rfl
@[simp] theorem State.fresh_agenda (s : State) : (s.fresh.2).agenda = s.agenda := rfl
@[simp] theorem State.fresh_flight (s : State) : (s.fresh.2).flight = s.flight := rfl
@[simp] theorem State.fresh_mem (s : State) : (s.fresh.2).mem = s.mem := rfl
@[simp] theorem State.fresh_memBad (s : State) : (s.fresh.2).memBad = s.memBad := rfl
@[simp] theorem State.fresh_l2 (s : State) : (s.fresh.2).l2 = s.l2 := rfl
@[simp] theorem State.fresh_views (s : State) : (s.fresh.2).views = s.views := rfl
@[simp] theorem State.fresh_cores (s : State) : (s.fresh.2).cores = s.cores := rfl
@[simp] theorem State.fresh_waves (s : State) : (s.fresh.2).waves = s.waves := rfl
@[simp] theorem State.fresh_groups (s : State) : (s.fresh.2).groups = s.groups := rfl
@[simp] theorem State.fresh_grids (s : State) : (s.fresh.2).grids = s.grids := rfl
@[simp] theorem State.fresh_regions (s : State) : (s.fresh.2).regions = s.regions := rfl
@[simp] theorem State.fresh_lrate (s : State) : (s.fresh.2).lrate = s.lrate := rfl
@[simp] theorem State.fresh_lrateAt (s : State) : (s.fresh.2).lrateAt = s.lrateAt := rfl
@[simp] theorem State.fresh_lrateQ (s : State) : (s.fresh.2).lrateQ = s.lrateQ := rfl
@[simp] theorem State.fresh_lateWr (s : State) : (s.fresh.2).lateWr = s.lateWr := rfl
@[simp] theorem State.fresh_fault (s : State) : (s.fresh.2).fault = s.fault := rfl
@[simp] theorem State.fresh_sys (s : State) : (s.fresh.2).sys = s.sys := rfl
@[simp] theorem State.fresh_conts (s : State) : (s.fresh.2).conts = s.conts := rfl
@[simp] theorem State.fresh_drawers (s : State) : (s.fresh.2).drawers = s.drawers := rfl
@[simp] theorem State.fresh_culls (s : State) : (s.fresh.2).culls = s.culls := rfl
@[simp] theorem State.fresh_draws (s : State) : (s.fresh.2).draws = s.draws := rfl
@[simp] theorem State.fresh_tex (s : State) : (s.fresh.2).tex = s.tex := rfl
@[simp] theorem State.fresh_disp (s : State) : (s.fresh.2).disp = s.disp := rfl
@[simp] theorem State.fresh_fab (s : State) : (s.fresh.2).fab = s.fab := rfl
@[simp] theorem State.fresh_hub (s : State) : (s.fresh.2).hub = s.hub := rfl
@[simp] theorem State.fresh_sw (s : State) : (s.fresh.2).sw = s.sw := rfl
@[simp] theorem State.fresh_dbg (s : State) : (s.fresh.2).dbg = s.dbg := rfl
@[simp] theorem State.fresh_rep (s : State) : (s.fresh.2).rep = s.rep := rfl
@[simp] theorem State.fresh_life (s : State) : (s.fresh.2).life = s.life := rfl

/-! `State.free`: freeCount alone. -/
@[simp] theorem State.free_now (s : State) : (s.free.2).now = s.now := rfl
@[simp] theorem State.free_nextUid (s : State) : (s.free.2).nextUid = s.nextUid := rfl
@[simp] theorem State.free_seq (s : State) : (s.free.2).seq = s.seq := rfl
@[simp] theorem State.free_freeCount (s : State) : (s.free.2).freeCount = s.freeCount + 1 := rfl
@[simp] theorem State.free_arg (s : State) : (s.free.2).arg = s.arg := rfl
@[simp] theorem State.free_posted (s : State) : (s.free.2).posted = s.posted := rfl
@[simp] theorem State.free_agenda (s : State) : (s.free.2).agenda = s.agenda := rfl
@[simp] theorem State.free_flight (s : State) : (s.free.2).flight = s.flight := rfl
@[simp] theorem State.free_mem (s : State) : (s.free.2).mem = s.mem := rfl
@[simp] theorem State.free_memBad (s : State) : (s.free.2).memBad = s.memBad := rfl
@[simp] theorem State.free_l2 (s : State) : (s.free.2).l2 = s.l2 := rfl
@[simp] theorem State.free_views (s : State) : (s.free.2).views = s.views := rfl
@[simp] theorem State.free_cores (s : State) : (s.free.2).cores = s.cores := rfl
@[simp] theorem State.free_waves (s : State) : (s.free.2).waves = s.waves := rfl
@[simp] theorem State.free_groups (s : State) : (s.free.2).groups = s.groups := rfl
@[simp] theorem State.free_grids (s : State) : (s.free.2).grids = s.grids := rfl
@[simp] theorem State.free_regions (s : State) : (s.free.2).regions = s.regions := rfl
@[simp] theorem State.free_lrate (s : State) : (s.free.2).lrate = s.lrate := rfl
@[simp] theorem State.free_lrateAt (s : State) : (s.free.2).lrateAt = s.lrateAt := rfl
@[simp] theorem State.free_lrateQ (s : State) : (s.free.2).lrateQ = s.lrateQ := rfl
@[simp] theorem State.free_lateWr (s : State) : (s.free.2).lateWr = s.lateWr := rfl
@[simp] theorem State.free_fault (s : State) : (s.free.2).fault = s.fault := rfl
@[simp] theorem State.free_sys (s : State) : (s.free.2).sys = s.sys := rfl
@[simp] theorem State.free_conts (s : State) : (s.free.2).conts = s.conts := rfl
@[simp] theorem State.free_drawers (s : State) : (s.free.2).drawers = s.drawers := rfl
@[simp] theorem State.free_culls (s : State) : (s.free.2).culls = s.culls := rfl
@[simp] theorem State.free_draws (s : State) : (s.free.2).draws = s.draws := rfl
@[simp] theorem State.free_tex (s : State) : (s.free.2).tex = s.tex := rfl
@[simp] theorem State.free_disp (s : State) : (s.free.2).disp = s.disp := rfl
@[simp] theorem State.free_fab (s : State) : (s.free.2).fab = s.fab := rfl
@[simp] theorem State.free_hub (s : State) : (s.free.2).hub = s.hub := rfl
@[simp] theorem State.free_sw (s : State) : (s.free.2).sw = s.sw := rfl
@[simp] theorem State.free_dbg (s : State) : (s.free.2).dbg = s.dbg := rfl
@[simp] theorem State.free_rep (s : State) : (s.free.2).rep = s.rep := rfl
@[simp] theorem State.free_life (s : State) : (s.free.2).life = s.life := rfl

@[simp] theorem State.modCore_eq (s : State) (g : Nat) (f : Core → Core) : s.modCore g f = s.setCore (f (s.core g)) := rfl
@[simp] theorem State.modLine_eq (s : State) (k : Nat) (f : LineCore → LineCore) : s.modLine k f = s.setLine (f (s.line k)) := rfl
@[simp] theorem State.modHead_eq (s : State) (h : Nat) (f : HeadUnit → HeadUnit) : s.modHead h f = s.setHead (f (s.head h)) := rfl
@[simp] theorem State.fresh_name (s : State) : s.fresh.1 = s.nextUid := rfl
@[simp] theorem State.free_number (s : State) : s.free.1 = s.freeCount := rfl

/-! A keyed list after an update. -/

/-- The entry that an update has put is found. -/
theorem getOr_upd_same {α : Type} (p : α → Bool) (d x : α) (l : List α) (hx : p x = true) : getOr p d (upd p x l) = x := by
  induction l with
  | nil => simp [upd, getOr, hx]
  | cons y ys ih =>
    by_cases hy : p y = true
    · simp [upd, getOr, hy, hx]
    · simp only [getOr, Bool.not_eq_true] at ih hy ⊢
      simpa [upd, hy] using ih
/-- An entry that neither the old nor the new content of the updated place matches is found as before. -/
theorem getOr_upd_other {α : Type} (p q : α → Bool) (d x : α) (l : List α) (hx : q x = false)
    (hpq : ∀ y, p y = true → q y = false) : getOr q d (upd p x l) = getOr q d l := by
  induction l with
  | nil => simp [upd, getOr, hx]
  | cons y ys ih =>
    by_cases hy : p y = true
    · simp [upd, getOr, hy, hx, hpq y hy]
    · by_cases hq : q y = true
      · simp [upd, getOr, hy, hq]
      · simp only [getOr, Bool.not_eq_true] at ih hy hq ⊢
        simpa [upd, hy, hq] using ih
/-- An update never leaves the list without the entry. -/
theorem mem_upd {α : Type} (p : α → Bool) (x : α) (l : List α) : x ∈ upd p x l := by
  induction l with
  | nil => simp [upd]
  | cons y ys ih => by_cases hy : p y = true <;> simp [upd, hy, ih]

@[simp] theorem State.core_setCore (s : State) (c : Core) : (s.setCore c).core c.id = c :=
  getOr_upd_same _ _ _ _ (by simp)
theorem State.core_setCore_other (s : State) (c : Core) {k : Nat} (h : k ≠ c.id) : (s.setCore c).core k = s.core k :=
  getOr_upd_other _ _ _ _ _ (by simpa using Ne.symm h) fun y hy => by simp at hy ⊢; omega
@[simp] theorem State.line_setLine (s : State) (l : LineCore) : (s.setLine l).line l.id = l :=
  getOr_upd_same _ _ _ _ (by simp)
theorem State.line_setLine_other (s : State) (l : LineCore) {k : Nat} (h : k ≠ l.id) : (s.setLine l).line k = s.line k :=
  getOr_upd_other _ _ _ _ _ (by simpa using Ne.symm h) fun y hy => by simp at hy ⊢; omega
@[simp] theorem State.head_setHead (s : State) (x : HeadUnit) : (s.setHead x).head x.id = x :=
  getOr_upd_same _ _ _ _ (by simp)
theorem State.head_setHead_other (s : State) (x : HeadUnit) {k : Nat} (h : k ≠ x.id) : (s.setHead x).head k = s.head k :=
  getOr_upd_other _ _ _ _ _ (by simpa using Ne.symm h) fun y hy => by simp at hy ⊢; omega
@[simp] theorem State.queue_setQueue (s : State) (x : CmdQueue) : (s.setQueue x).queue x.id = x :=
  getOr_upd_same _ _ _ _ (by simp)
theorem State.queue_setQueue_other (s : State) (x : CmdQueue) {k : Nat} (h : k ≠ x.id) : (s.setQueue x).queue k = s.queue k :=
  getOr_upd_other _ _ _ _ _ (by simpa using Ne.symm h) fun y hy => by simp at hy ⊢; omega
@[simp] theorem State.peer_setPeer (s : State) (x : PeerPort) : (s.setPeer x).peer x.id = x :=
  getOr_upd_same _ _ _ _ (by simp)
theorem State.peer_setPeer_other (s : State) (x : PeerPort) {k : Nat} (h : k ≠ x.id) : (s.setPeer x).peer k = s.peer k :=
  getOr_upd_other _ _ _ _ _ (by simpa using Ne.symm h) fun y hy => by simp at hy ⊢; omega
@[simp] theorem State.stop_setStop (s : State) (x : RingStop) : (s.setStop x).stop x.gcore = x :=
  getOr_upd_same _ _ _ _ (by simp)
theorem State.stop_setStop_other (s : State) (x : RingStop) {k : Nat} (h : k ≠ x.gcore) : (s.setStop x).stop k = s.stop k :=
  getOr_upd_other _ _ _ _ _ (by simpa using Ne.symm h) fun y hy => by simp at hy ⊢; omega
@[simp] theorem State.section_setSection (s : State) (x : RingSection) : (s.setSection x).section x.cluster = x :=
  getOr_upd_same _ _ _ _ (by simp)
theorem State.section_setSection_other (s : State) (x : RingSection) {k : Nat} (h : k ≠ x.cluster) : (s.setSection x).section k = s.section k :=
  getOr_upd_other _ _ _ _ _ (by simpa using Ne.symm h) fun y hy => by simp at hy ⊢; omega

/-! A wave, group or grid by name after a change of one. -/

/-- A change that keeps the names of a list's entries changes the entry it names and leaves the others. -/
theorem find_map_key {α : Type} (key : α → Nat) (u v : Nat) (f : α → α) (hf : ∀ x, key (f x) = key x) (l : List α) :
    (l.map fun x => if key x == u then f x else x).find? (fun x => key x == v)
      = (l.find? fun x => key x == v).map fun x => if key x == u then f x else x := by
  induction l with
  | nil => rfl
  | cons y ys ih =>
    by_cases hy : key y = v
    · by_cases hu : key y = u <;> simp_all
    · by_cases hu : key y = u <;> simp_all

theorem State.wave?_modWave (s : State) (u v : Nat) (f : Wave → Wave) (hf : ∀ x, (f x).uid = x.uid) :
    (s.modWave u f).wave? v = (s.wave? v).map fun x => if x.uid == u then f x else x :=
  find_map_key _ u v f hf _
theorem State.group?_modGroup (s : State) (u v : Nat) (f : Group → Group) (hf : ∀ x, (f x).uid = x.uid) :
    (s.modGroup u f).group? v = (s.group? v).map fun x => if x.uid == u then f x else x :=
  find_map_key _ u v f hf _
theorem State.grid?_modGrid (s : State) (u v : Nat) (f : Grid → Grid) (hf : ∀ x, (f x).uid = x.uid) :
    (s.modGrid u f).grid? v = (s.grid? v).map fun x => if x.uid == u then f x else x :=
  find_map_key _ u v f hf _

end Sys2Proof.Machine
end

