-- ==== Sys2Proof/Laws/Memory.lean ====
section
/-! SUPPORT. Byte stores: what a read after a write gives, and that every operation on device memory, on scratchpads and on
register contexts keeps the canonical form, in which equal contents are equal lists. -/
namespace Sys2Proof.Machine
open Sys2Proof

/-! The keys of a list rise strictly. -/

/-- Every key of a list lies above `a`. -/
def above {α : Type} (a : Nat) (l : List (Nat × α)) : Prop := ∀ e, e ∈ l → a < e.1
/-- Strictly rising keys, none with the default. -/
def keyed {α : Type} (d : α) : List (Nat × α) → Prop
  | [] => True
  | (a, x) :: t => x ≠ d ∧ above a t ∧ keyed d t

theorem above_cons {α : Type} {k : Nat} {e : Nat × α} {l : List (Nat × α)} : above k (e :: l) ↔ k < e.1 ∧ above k l := by
  simp [above]
theorem above_trans {α : Type} {a k : Nat} {l : List (Nat × α)} (h : above k l) (hk : a < k) : above a l :=
  fun e he => Nat.lt_trans hk (h e he)

theorem above_putKey {α : Type} [DecidableEq α] {d x : α} {a k : Nat} {l : List (Nat × α)} (h : above k l) (hk : k < a) :
    above k (putKey d a x l) := by
  induction l with
  | nil => unfold putKey; split <;> simp [above, hk]
  | cons e t ih =>
    obtain ⟨hj, ht⟩ := above_cons.1 h
    unfold putKey
    split <;> split <;> (try split) <;> simp [above_cons, *]

/-- Setting a key keeps the form. -/
theorem keyed_putKey {α : Type} [DecidableEq α] {d x : α} {a : Nat} {l : List (Nat × α)} (h : keyed d l) : keyed d (putKey d a x l) := by
  induction l with
  | nil => unfold putKey; split <;> simp [keyed, above, *]
  | cons e t ih =>
    obtain ⟨k, y⟩ := e
    obtain ⟨hy, hk, ht⟩ := h
    unfold putKey
    split
    · split
      · exact ⟨hy, hk, ht⟩
      · exact ⟨‹_›, above_cons.2 ⟨‹_›, above_trans hk ‹_›⟩, hy, hk, ht⟩
    · split
      · split
        · exact ht
        · subst_vars; exact ⟨‹_›, hk, ht⟩
      · exact ⟨hy, above_putKey hk (by omega), ih ht⟩

theorem lookKey_above {α : Type} {d : α} {a k : Nat} {l : List (Nat × α)} (h : above k l) (hk : a ≤ k) : lookKey d a l = d := by
  cases l with
  | nil => rfl
  | cons e t =>
    have := h e (by simp)
    simp [lookKey, show ¬ e.1 = a by omega, show a < e.1 by omega]

/-- A read of a key after it was set gives the value set. -/
theorem lookKey_putKey_same {α : Type} [DecidableEq α] {d : α} (x : α) (a : Nat) {l : List (Nat × α)} (h : keyed d l) :
    lookKey d a (putKey d a x l) = x := by
  induction l with
  | nil => unfold putKey; split <;> simp [lookKey, *]
  | cons e t ih =>
    obtain ⟨k, y⟩ := e
    obtain ⟨-, hk, ht⟩ := h
    unfold putKey
    split
    · split
      · simp [lookKey, show ¬ k = a by omega, *]
      · simp [lookKey]
    · split
      · split
        · subst_vars; exact lookKey_above hk (Nat.le_refl _)
        · simp [lookKey]
      · simp [lookKey, show ¬ k = a by omega, show ¬ a < k by omega, ih ht]

/-- Setting a key leaves what every other key reads. -/
theorem lookKey_putKey_other {α : Type} [DecidableEq α] {d : α} (x : α) {a b : Nat} (hab : b ≠ a) {l : List (Nat × α)} (h : keyed d l) :
    lookKey d b (putKey d a x l) = lookKey d b l := by
  induction l with
  | nil => unfold putKey; split <;> simp [lookKey, hab.symm]
  | cons e t ih =>
    obtain ⟨k, y⟩ := e
    obtain ⟨-, hk, ht⟩ := h
    unfold putKey
    split
    · split
      · rfl
      · by_cases hb : b < a <;> simp [lookKey, hab.symm, hb, show b < a → ¬ k = b by omega, show b < a → b < k by omega]
    · split
      · subst_vars
        split
        · by_cases hb : b < k
          · simp [lookKey, hab.symm, hb, lookKey_above hk (Nat.le_of_lt hb)]
          · simp [lookKey, hab.symm, hb]
        · simp [lookKey, hab.symm]
      · by_cases hb : k = b
        · simp [lookKey, hb]
        · by_cases hlt : b < k <;> simp [lookKey, hb, hlt, ih ht]

/-- The checked form of device memory is the rising form of its list. -/
theorem Memory.wf_iff (m : Cells) : Memory.wf m = true ↔ keyed 0 m := by
  induction m with
  | nil => simp [Memory.wf, keyed]
  | cons e t ih =>
    obtain ⟨a, b⟩ := e
    cases t with
    | nil => simp [Memory.wf, keyed, above]
    | cons e' t' =>
      obtain ⟨k, c⟩ := e'
      simp only [Memory.wf, Bool.and_eq_true, bne_iff_ne, ne_eq, decide_eq_true_eq, ih, keyed]
      constructor
      · rintro ⟨⟨hb, hk⟩, hc, hab, ht⟩
        exact ⟨hb, above_cons.2 ⟨hk, above_trans hab hk⟩, hc, hab, ht⟩
      · rintro ⟨hb, hab, h⟩
        exact ⟨⟨hb, (above_cons.1 hab).1⟩, h⟩

/-- A byte after a byte was set: at its address, and at every other. -/
theorem cell_putCell_same {m : Cells} (h : Memory.wf m = true) (a : Nat) (b : Byte) : cell (putCell m a b) a = b :=
  lookKey_putKey_same b a ((Memory.wf_iff m).1 h)
theorem cell_putCell_other {m : Cells} (h : Memory.wf m = true) {a k : Nat} (b : Byte) (hk : k ≠ a) :
    cell (putCell m a b) k = cell m k :=
  lookKey_putKey_other b hk ((Memory.wf_iff m).1 h)
theorem wf_putCell {m : Cells} (h : Memory.wf m = true) (a : Nat) (b : Byte) : Memory.wf (putCell m a b) = true :=
  (Memory.wf_iff _).2 (keyed_putKey ((Memory.wf_iff m).1 h))

/-! Sets of numbers as rising lists. -/

/-- Every number of a list lies above `a`. -/
def allAbove (a : Nat) (l : List Nat) : Prop := ∀ k, k ∈ l → a < k

theorem allAbove_cons {a b : Nat} {l : List Nat} : allAbove a (b :: l) ↔ a < b ∧ allAbove a l := by simp [allAbove]

theorem rising_cons {a : Nat} {l : List Nat} : rising (a :: l) = true ↔ allAbove a l ∧ rising l = true := by
  induction l generalizing a with
  | nil => simp [rising, allAbove]
  | cons b t ih =>
    simp only [rising, Bool.and_eq_true, decide_eq_true_eq]
    constructor
    · rintro ⟨hab, h⟩
      exact ⟨allAbove_cons.2 ⟨hab, fun k hk => Nat.lt_trans hab ((ih.1 h).1 _ hk)⟩, h⟩
    · rintro ⟨ha, h⟩
      exact ⟨(allAbove_cons.1 ha).1, h⟩

theorem mem_putKeySet {a k : Nat} {b : Bool} {l : List Nat} (h : k ∈ putKeySet a b l) : k = a ∨ k ∈ l := by
  induction l with
  | nil => cases b <;> simp_all [putKeySet]
  | cons c t ih =>
    unfold putKeySet at h
    split at h
    · cases b <;> simp_all
    · split at h
      · cases b <;> simp_all
      · simp only [List.mem_cons] at h ⊢
        rcases h with rfl | h
        · simp
        · rcases ih h with rfl | h <;> simp_all

/-- Adding to a set, or removing from it, keeps it rising. -/
theorem rising_putKeySet (a : Nat) (b : Bool) {l : List Nat} (h : rising l = true) : rising (putKeySet a b l) = true := by
  induction l with
  | nil => cases b <;> simp [putKeySet, rising]
  | cons c t ih =>
    obtain ⟨hc, ht⟩ := rising_cons.1 h
    unfold putKeySet
    split
    · cases b
      · exact h
      · exact rising_cons.2 ⟨allAbove_cons.2 ⟨‹_›, fun k hk => Nat.lt_trans ‹_› (hc _ hk)⟩, h⟩
    · split
      · cases b
        · exact ht
        · exact h
      · refine rising_cons.2 ⟨?_, ih ht⟩
        intro k hk
        rcases mem_putKeySet hk with rfl | hk
        · omega
        · exact hc _ hk

theorem inKeys_over {a k : Nat} {l : List Nat} (h : allAbove k l) (hk : a ≤ k) : inKeys a l = false := by
  cases l with
  | nil => rfl
  | cons c t =>
    have := h c (by simp)
    simp [inKeys, show ¬ c = a by omega, show a < c by omega]

/-- Membership after an update: of the number itself, and of every other number. -/
theorem inKeys_putKeySet_same (a : Nat) (b : Bool) {l : List Nat} (h : rising l = true) : inKeys a (putKeySet a b l) = b := by
  induction l with
  | nil => cases b <;> simp [putKeySet, inKeys]
  | cons c t ih =>
    obtain ⟨hc, ht⟩ := rising_cons.1 h
    unfold putKeySet
    split
    · cases b <;> simp [inKeys, show ¬ c = a by omega, *]
    · split
      · subst_vars
        cases b
        · exact inKeys_over hc (Nat.le_refl _)
        · simp [inKeys]
      · simp [inKeys, show ¬ c = a by omega, show ¬ a < c by omega, ih ht]
theorem inKeys_putKeySet_other {a k : Nat} (b : Bool) (hk : k ≠ a) {l : List Nat} (h : rising l = true) :
    inKeys k (putKeySet a b l) = inKeys k l := by
  induction l with
  | nil => cases b <;> simp [putKeySet, inKeys, hk.symm]
  | cons c t ih =>
    obtain ⟨hc, ht⟩ := rising_cons.1 h
    unfold putKeySet
    split
    · cases b
      · rfl
      · by_cases hb : k < a <;> simp [inKeys, hk.symm, hb, show k < a → ¬ c = k by omega, show k < a → k < c by omega]
    · split
      · subst_vars
        cases b
        · by_cases hb : k < c
          · simp [inKeys, hk.symm, hb, inKeys_over hc (Nat.le_of_lt hb)]
          · simp [inKeys, hk.symm, hb]
        · rfl
      · by_cases hb : c = k
        · simp [inKeys, hb]
        · by_cases hlt : k < c <;> simp [inKeys, hb, hlt, ih ht]

/-! Byte stores: scratchpads, line buffers, shelves. -/

/-- A byte store in canonical form. -/
def Store.ok (st : Store) : Prop := Memory.wf st.cells = true ∧ rising st.bad = true

theorem Store.empty_ok : Store.empty.ok := ⟨rfl, rfl⟩
theorem Store.put_ok {st : Store} (h : st.ok) (a : Nat) (b : PByte) : (st.put a b).ok :=
  ⟨wf_putCell h.1 a b.v, rising_putKeySet a b.bad h.2⟩
theorem Store.write_ok {st : Store} (h : st.ok) (a : Nat) (bs : List PByte) : (st.write a bs).ok := by
  induction bs generalizing st a with
  | nil => exact h
  | cons b bs ih => exact ih (Store.put_ok h a b) (a + 1)
/-- A read after a write of the same byte, and of every other byte. -/
theorem Store.get_put_same {st : Store} (h : st.ok) (a : Nat) (b : PByte) : (st.put a b).get a = b := by
  simp [Store.get, Store.put, cell_putCell_same h.1, inKeys_putKeySet_same _ _ h.2]
theorem Store.get_put_other {st : Store} (h : st.ok) {a k : Nat} (b : PByte) (hk : k ≠ a) : (st.put a b).get k = st.get k := by
  simp [Store.get, Store.put, cell_putCell_other h.1 _ hk, inKeys_putKeySet_other _ hk h.2]
/-- The byte that a list of bytes from `a` on puts at `k`, by its first byte and the rest. -/
theorem window_cons (a k : Nat) (b x : PByte) (bs : List PByte) :
    (if a ≤ k ∧ k < a + (b :: bs).length then (b :: bs).getD (k - a) x else x)
      = let y := if k = a then b else x
        if a + 1 ≤ k ∧ k < a + 1 + bs.length then bs.getD (k - (a + 1)) y else y := by
  simp only [List.length_cons]
  by_cases hk : k = a
  · subst hk; simp [show ¬ k + 1 ≤ k by omega]
  · by_cases h : a ≤ k ∧ k < a + (bs.length + 1)
    · obtain ⟨n, hn⟩ : ∃ n, k - a = n + 1 := ⟨k - a - 1, by omega⟩
      rw [if_pos h, if_pos (by omega), hn, show k - (a + 1) = n by omega]
      simp [hk]
    · rw [if_neg h, if_neg (by omega)]
      simp [hk]

/-- A write of consecutive bytes: each address within reads its byte, every other reads as before. -/
theorem Store.get_write {st : Store} (h : st.ok) (a : Nat) (bs : List PByte) (k : Nat) :
    (st.write a bs).get k = if a ≤ k ∧ k < a + bs.length then bs.getD (k - a) (st.get k) else st.get k := by
  induction bs generalizing st a with
  | nil => simp [Store.write]
  | cons b bs ih =>
    have hb : (st.put a b).get k = if k = a then b else st.get k := by
      split
      · subst_vars; exact Store.get_put_same h _ b
      · exact Store.get_put_other h b ‹_›
    rw [Store.write, ih (Store.put_ok h a b), window_cons, hb]

/-! Device memory. -/

/-- The form of device memory depends on the two lists alone. -/
theorem State.memOk_congr {s t : State} (hm : t.mem = s.mem) (hb : t.memBad = s.memBad) : t.memOk = s.memOk := by
  simp [State.memOk, hm, hb]
theorem State.memOk_iff (s : State) : s.memOk = true ↔ Memory.wf s.mem = true ∧ rising s.memBad = true := by
  simp [State.memOk]

/-- Setting bytes of device memory keeps its form. -/
theorem State.memOk_setMem {s : State} (h : s.memOk = true) (pa : Nat) (bs : List PByte) : (s.setMem pa bs).memOk = true := by
  induction bs generalizing s pa with
  | nil => exact h
  | cons b bs ih =>
    rw [State.setMem]
    apply ih
    split
    · exact h
    · rw [State.memOk_iff] at h ⊢
      exact ⟨wf_putCell h.1 _ _, rising_putKeySet _ _ h.2⟩

/-- Whether a byte is discarded depends on the windows, the channels and the address alone. -/
theorem State.viewAt_congr {s t : State} (h : t.sys = s.sys) (pa : Nat) : t.viewAt pa = s.viewAt pa := by
  cases s; cases t; cases h; rfl
theorem State.channelDead_congr {s t : State} (h : t.life = s.life) (pa : Nat) : t.channelDead pa = s.channelDead pa := by
  simp [State.channelDead, State.channel, h]

/-- What setting bytes of device memory leaves alone: all but the two lists of memory. -/
theorem State.setMem_rest (s : State) (pa : Nat) (bs : List PByte) :
    s.setMem pa bs = { s with mem := (s.setMem pa bs).mem, memBad := (s.setMem pa bs).memBad } := by
  induction bs generalizing s pa with
  | nil => rfl
  | cons b bs ih =>
    rw [State.setMem]
    split
    · exact ih s (pa + 1)
    · rw [ih]

/-- A byte of device memory after consecutive bytes were set: an address within, in no view and on no retired channel, reads
the byte set; every other address reads as before (R223, R229, R517). -/
theorem State.rawByte_setMem {s : State} (h : s.memOk = true) (pa : Nat) (bs : List PByte) (k : Nat) (hk : s.channelDead k = false) :
    (s.setMem pa bs).rawByte k =
      if (pa ≤ k ∧ k < pa + bs.length) ∧ s.viewAt k = none then bs.getD (k - pa) (s.rawByte k) else s.rawByte k := by
  induction bs generalizing s pa with
  | nil => simp [State.setMem]
  | cons b bs ih =>
    have hstep : ∀ t : State, t.memOk = true → t.channelDead k = false → t.viewAt k = s.viewAt k →
        (s.viewAt k = none → t.rawByte k = if k = pa then b else s.rawByte k) → (s.viewAt k ≠ none → t.rawByte k = s.rawByte k) →
        (t.setMem (pa + 1) bs).rawByte k =
          if (pa ≤ k ∧ k < pa + (b :: bs).length) ∧ s.viewAt k = none then (b :: bs).getD (k - pa) (s.rawByte k) else s.rawByte k := by
      intro t ht hd hv hfree hview
      rw [ih ht _ hd, hv]
      by_cases h0 : s.viewAt k = none
      · simp only [h0, and_true, hfree h0]
        exact (window_cons pa k b (s.rawByte k) bs).symm
      · simp [h0, hview h0]
    rw [State.setMem]
    split
    · rename_i hc
      refine hstep s h hk rfl (fun h0 => ?_) fun _ => rfl
      have : k ≠ pa := by rintro rfl; simp [h0, hk] at hc
      simp [this]
    · rename_i hc
      simp only [Bool.or_eq_true, not_or, Bool.not_eq_true, Option.isSome_eq_false_iff, Option.isNone_iff_eq_none] at hc
      rw [State.memOk_iff] at h
      have hd : ∀ m n, State.channelDead { s with mem := m, memBad := n } k = false := fun m n => hk
      have hput : k ≠ pa → State.rawByte { s with mem := putCell s.mem pa b.v, memBad := putKeySet pa b.bad s.memBad } k = s.rawByte k := by
        intro hp
        simp [State.rawByte, hd, cell_putCell_other h.1 _ hp, inKeys_putKeySet_other _ hp h.2]
      refine hstep _ ((State.memOk_iff _).2 ⟨wf_putCell h.1 _ _, rising_putKeySet _ _ h.2⟩) hk (State.viewAt_congr rfl k) (fun _ => ?_)
        fun h0 => hput (by rintro rfl; exact h0 hc.1)
      split
      · subst_vars
        simp [State.rawByte, hd, cell_putCell_same h.1, inKeys_putKeySet_same _ _ h.2]
      · exact hput ‹_›

/-! What performs at the LLC besides the bytes leaves device memory alone. -/

theorem State.l1Drop_mem (s : State) (g line : Nat) : (s.l1Drop g line).mem = s.mem ∧ (s.l1Drop g line).memBad = s.memBad := ⟨rfl, rfl⟩
theorem State.breakMarks_mem (s : State) (line : Nat) (p : Nat → Bool) :
    (s.breakMarks line p).mem = s.mem ∧ (s.breakMarks line p).memBad = s.memBad := ⟨rfl, rfl⟩

/-- A fold of operations that each leave a property of the state leaves it. -/
theorem foldl_keeps {α β : Type} (P : β → Prop) (f : β → α → β) (h : ∀ b a, P b → P (f b a)) (l : List α) (b : β) (hb : P b) :
    P (l.foldl f b) := by
  induction l generalizing b with
  | nil => exact hb
  | cons a l ih => exact ih _ (h b a hb)

theorem State.trigger_mem (s : State) (line : Nat) : (s.trigger line).mem = s.mem ∧ (s.trigger line).memBad = s.memBad := by
  rw [State.trigger]
  split
  · simp only [State.post_mem, State.post_memBad]
    exact foldl_keeps (fun t : State => t.mem = s.mem ∧ t.memBad = s.memBad)
      (fun (t : State) (w : Wave) => t.l1Drop (t.coreOf w) line) (fun t w h => h) _ s ⟨rfl, rfl⟩
  · exact ⟨rfl, rfl⟩
theorem State.atLlc_mem (s : State) (d : Option Nat) (line : Nat) :
    (s.atLlc d line).mem = s.mem ∧ (s.atLlc d line).memBad = s.memBad := State.trigger_mem _ line
theorem State.memOk_atLlc (s : State) (d : Option Nat) (line : Nat) : (s.atLlc d line).memOk = s.memOk :=
  State.memOk_congr (State.atLlc_mem s d line).1 (State.atLlc_mem s d line).2
theorem State.memOk_trigger (s : State) (line : Nat) : (s.trigger line).memOk = s.memOk :=
  State.memOk_congr (State.trigger_mem s line).1 (State.trigger_mem s line).2

/-- A write that performs at the LLC keeps the form of device memory. -/
theorem State.memOk_llcWrite {s : State} (h : s.memOk = true) (d : Option Nat) (pa : Nat) (bs : List PByte) :
    (s.llcWrite d pa bs).memOk = true :=
  foldl_keeps (fun t : State => t.memOk = true) _ (fun t l ht => (State.memOk_atLlc t d l).trans ht) _ _ (State.memOk_setMem h pa bs)
theorem State.memOk_llcPutWord {s : State} (h : s.memOk = true) (pa : Nat) (x : Dword) : (s.llcPutWord pa x).memOk = true :=
  State.memOk_llcWrite h none pa _

/-! The levels above device memory: what moves between them keeps its form. -/

theorem State.memOk_post (s : State) (i : Instr) (a b c : Nat) (x : Dword) : (s.post i a b c x).memOk = s.memOk := rfl
theorem State.memOk_setCore (s : State) (c : Core) : (s.setCore c).memOk = s.memOk := rfl
theorem State.memOk_modCore (s : State) (g : Nat) (f : Core → Core) : (s.modCore g f).memOk = s.memOk := rfl
theorem State.memOk_modWave (s : State) (u : Nat) (f : Wave → Wave) : (s.modWave u f).memOk = s.memOk := rfl
theorem State.memOk_modGroup (s : State) (u : Nat) (f : Group → Group) : (s.modGroup u f).memOk = s.memOk := rfl
theorem State.memOk_texDrop (s : State) (g line : Nat) : (s.texDrop g line).memOk = s.memOk := rfl
theorem State.memOk_l1Drop (s : State) (g line : Nat) : (s.l1Drop g line).memOk = s.memOk := rfl
theorem State.memOk_breakMarks (s : State) (line : Nat) (p : Nat → Bool) : (s.breakMarks line p).memOk = s.memOk := rfl
theorem State.memOk_l2Set (s : State) (l : L2Line) : (s.l2Set l).memOk = s.memOk := rfl
theorem State.memOk_touchView (s : State) (line : Nat) : (s.touchView line).memOk = s.memOk := by
  rw [State.touchView]; split
  · rfl
  · split <;> rfl
theorem State.memOk_l2Drop (s : State) (die line : Nat) : (s.l2Drop die line).memOk = s.memOk := by
  rw [State.l2Drop]; split <;> rfl
theorem State.memOk_l2Fill (s : State) (die line : Nat) : (s.l2Fill die line).memOk = s.memOk := by
  rw [State.l2Fill]
  split
  · exact State.memOk_touchView s line
  · exact State.memOk_touchView s line
theorem State.memOk_l1Fill (s : State) (g line : Nat) : (s.l1Fill g line).memOk = s.memOk := by
  rw [State.l1Fill]
  split
  · rfl
  · exact State.memOk_l2Fill (s.texDrop g line) (dieOf g) line

/-- The dirty bytes of a line set one by one. -/
theorem State.memOk_setSome {s : State} (h : s.memOk = true) (c : Nat → Bool) (a : Nat) (f : Nat → PByte) (l : List Nat) :
    (l.foldl (fun (s : State) i => if c i then s.setMem (a + i) [f i] else s) s).memOk = true := by
  apply foldl_keeps (fun t : State => t.memOk = true) _ _ _ _ h
  intro t i ht
  split
  · exact State.memOk_setMem ht _ _
  · exact ht
theorem State.memOk_writeBack {s : State} (h : s.memOk = true) (die line : Nat) : (s.writeBack die line).memOk = true := by
  rw [State.writeBack]
  split
  · exact h
  · split
    · exact h
    · rw [State.memOk_atLlc, State.memOk_l2Set]
      exact State.memOk_setSome h _ (128 * line) _ _
theorem State.memOk_writeBackDie {s : State} (h : s.memOk = true) (die : Nat) : (s.writeBackDie die).memOk = true :=
  foldl_keeps (fun t : State => t.memOk = true) _ (fun _ l ht => State.memOk_writeBack ht die l.line) _ _ h
theorem State.memOk_purgeLine {s : State} (h : s.memOk = true) (line : Nat) : (s.purgeLine line).memOk = true :=
  foldl_keeps (fun t : State => t.memOk = true) _
    (fun _ l ht => (State.memOk_l2Drop _ l.die line).trans (State.memOk_writeBack ht l.die line)) _ _ h
theorem State.memOk_purgePutWord {s : State} (h : s.memOk = true) (pa : Nat) (x : Dword) : (s.purgePutWord pa x).memOk = true :=
  State.memOk_llcPutWord (State.memOk_purgeLine h (pa / 128)) pa x
theorem State.memOk_l2Write {s : State} (h : s.memOk = true) (die pa : Nat) (bs : List PByte) : (s.l2Write die pa bs).memOk = true := by
  apply foldl_keeps (fun t : State => t.memOk = true) _ _ _ _ h
  intro t line ht
  dsimp only
  split
  · exact ht
  · split
    · exact foldl_keeps (fun t : State => t.memOk = true) _ (fun _ p ht => State.memOk_llcWrite ht _ p.1 [p.2]) _ _ ht
    · exact ht
theorem State.memOk_l1Read {s : State} (h : s.memOk = true) (g pa n : Nat) : (s.l1Read g pa n).1.memOk = true :=
  foldl_keeps (fun t : State => t.memOk = true) _ (fun _ l ht => (State.memOk_l1Fill _ g l).trans ht) _ _ h
theorem State.memOk_l1Update {s : State} (h : s.memOk = true) (g pa : Nat) (bs : List PByte) : (s.l1Update g pa bs).memOk = true :=
  foldl_keeps (fun t : State => t.memOk = true) (fun (t : State) l => t.texDrop g l) (fun _ _ ht => ht) _ _ h
theorem State.memOk_wcFlushLine {s : State} (h : s.memOk = true) (g line : Nat) : (s.wcFlushLine g line).memOk = true := by
  rw [State.wcFlushLine]
  split
  · exact h
  · rw [State.memOk_atLlc, State.memOk_breakMarks]
    apply State.memOk_setSome _ _ (128 * line)
    rw [State.memOk_l1Drop, State.memOk_l2Drop]
    refine State.memOk_writeBack ?_ _ line
    exact h
theorem State.memOk_wcFlush {s : State} (h : s.memOk = true) (g : Nat) (classes : BitVec 16) : (s.wcFlush g classes).memOk = true :=
  foldl_keeps (fun t : State => t.memOk = true) _ (fun _ l ht => State.memOk_wcFlushLine ht g l.line) _ _ h
theorem State.memOk_release1 {s : State} (h : s.memOk = true) (g line : Nat) : (s.release1 g line).memOk = true := by
  rw [State.release1, State.memOk_l1Drop, State.memOk_l2Drop]
  exact State.memOk_writeBack (State.memOk_wcFlushLine h g line) _ line

/-! Taking a trap keeps it. -/

theorem State.memOk_writeRecord {s : State} (h : s.memOk = true) (r : FaultRec) : (s.writeRecord r).memOk = true := by
  have h0 := State.memOk_llcPutWord (State.memOk_llcWrite h none
    (s.fault.base.toNat + 64 * (s.fault.tail.toNat % s.fault.cap) + 8) (r.words.flatMap fun w => cleanBytes 8 w.toNat))
    (s.fault.base.toNat + 64 * (s.fault.tail.toNat % s.fault.cap)) (r.word0 s.fault.tail.toNat)
  simp only [State.writeRecord]
  split
  · rw [State.memOk_post]
    split
    · split
      · rw [State.memOk_modWave]; exact h0
      · exact h0
    · exact h0
  · exact h0
theorem State.memOk_drainN {s : State} (h : s.memOk = true) (n : Nat) : (s.drainN n).memOk = true := by
  induction n generalizing s with
  | zero => exact h
  | succ n ih =>
    rw [State.drainN]
    split
    · exact h
    · split
      · refine ih (State.memOk_writeRecord ?_ _)
        exact h
      · exact h
theorem State.memOk_report {s : State} (h : s.memOk = true) (r : FaultRec) : (s.report r).memOk = true := by
  rw [State.report, State.drainFaults]
  refine State.memOk_drainN ?_ _
  exact h
theorem State.memOk_takeTrap {s : State} (h : s.memOk = true) (r : FaultRec) : (s.takeTrap r).memOk = true := by
  rw [State.takeTrap]
  split
  · exact State.memOk_report h r
  · split
    · refine State.memOk_report ?_ r
      exact h
    · exact h

/-- An access that the check of its group placed performs there, and leaves the state as it is. -/
theorem State.placeAcc_placed {s : State} {c : Ctx} {sp : Space} {priv : Bool} {a : MemAcc} {p : Nat × Nat} (h : c.placed? a = some p) :
    s.placeAcc c sp priv a = (s, .ok p.1 p.2) := by
  rw [Ctx.placed?] at h
  rw [State.placeAcc]
  cases hq : c.place? a with
  | none => simp [hq] at h
  | some q =>
    cases hz : q.zero
    · simp only [hq, Option.bind_some, hz, Bool.false_eq_true, if_false, Option.some.injEq] at h
      simp [hz, ← h]
    · simp [hq, hz] at h
/-- The same for the accesses of a fork or join. -/
theorem State.taskAcc_placed {s : State} {c : Ctx} {k : Acc} {mis : Bool} {va : Dword} {p : Nat × Nat}
    (h : c.placed? { lane := 0, va, size := 8, mis } = some p) : s.taskAcc c k mis va = (s, .inr p.1) := by
  rw [State.taskAcc, h]

end Sys2Proof.Machine
end

