-- ==== Sys2Proof/Laws/Slot.lean ====
section
/-! SUPPORT. What a slot operation sees and leaves: the context it runs in, the two ends of `slot`, and each way of leaving a
register write, said once, so that a proof about an operation unfolds neither. -/
namespace Sys2Proof.Machine
open Sys2Proof

/-! The context. -/

/-- An operation that runs sees its flight, its wave and the threads in which it runs. -/
theorem Running.ctx {s : State} {h : Head} {fl : Flight} {w : Wave} (r : Running s h fl w) :
    ∃ c, slotCtx s h = some c ∧ c.fl = fl ∧ c.w = w ∧ c.run = runMask w.r fl h ∧ c.run ≠ 0 := by
  obtain ⟨hf, ho, ht⟩ := r
  obtain ⟨w0, h0, rfl⟩ := Option.map_eq_some_iff.1 ho
  exact ⟨_, by rw [slotCtx, hf, Option.bind_some, h0, Option.map_some], rfl, rfl, rfl, ht⟩
/-- An operation that runs in some thread sees a context. -/
theorem Running.runsIn {s : State} {h : Head} {fl : Flight} {w : Wave} (r : Running s h fl w) :
    ∃ c, RunsIn s h c ∧ c.fl = fl ∧ c.w = w ∧ c.run = runMask w.r fl h := by
  obtain ⟨c, hc, hfl, hw, hr, h0⟩ := r.ctx
  exact ⟨c, ⟨hc, h0⟩, hfl, hw, hr⟩
/-- The flight of a context is the flight of the state. -/
theorem slotCtx_flight {s : State} {h : Head} {c : Ctx} (hc : slotCtx s h = some c) : s.flight = some c.fl := by
  obtain ⟨fl, hf, hm⟩ := Option.bind_eq_some_iff.1 hc
  obtain ⟨w0, -, rfl⟩ := Option.map_eq_some_iff.1 hm
  exact hf
theorem slotCtx_run {s : State} {h : Head} {c : Ctx} (hc : slotCtx s h = some c) : c.run = runMask c.w.r c.fl h := by
  obtain ⟨fl, hf, hm⟩ := Option.bind_eq_some_iff.1 hc
  obtain ⟨w0, -, rfl⟩ := Option.map_eq_some_iff.1 hm
  rfl

/-! The ends of `slot` (R25, R70): with a group in flight it always answers a next state. -/

theorem slot_ctx {s : State} {h : Head} {c : Ctx} (f : Ctx → State → State) (hc : slotCtx s h = some c) :
    slot h s f = .next (if c.run == 0 then s else f c s) := by rw [slot, hc]
/-- It runs in some thread: the effect. -/
theorem slot_runs {s : State} {h : Head} {c : Ctx} (f : Ctx → State → State) (hr : RunsIn s h c) : slot h s f = .next (f c s) := by
  rw [slot_ctx f hr.ctx, if_neg (by simpa using hr.thread)]
/-- It runs in no thread: nothing. -/
theorem slot_idle {s : State} {h : Head} {c : Ctx} (f : Ctx → State → State) (hc : slotCtx s h = some c) (h0 : c.run = 0) :
    slot h s f = .next s := by rw [slot_ctx f hc, if_pos (by simpa using h0)]
/-- A next state of `slot` is the state itself or the effect's; the one stop is a state with no group in flight. -/
theorem slot_cases {s t : State} {h : Head} {f : Ctx → State → State} (hs : slot h s f = .next t) :
    ∃ c, slotCtx s h = some c ∧ ((c.run = 0 ∧ t = s) ∨ (RunsIn s h c ∧ t = f c s)) := by
  unfold slot at hs
  split at hs
  · cases hs
  · rename_i c hc
    cases hs
    refine ⟨c, hc, ?_⟩
    by_cases h0 : c.run = 0#32
    · exact .inl ⟨h0, by simp [h0]⟩
    · exact .inr ⟨⟨hc, h0⟩, by simp [h0]⟩
theorem slot_fault {s : State} {h : Head} {f : Ctx → State → State} {r : Fault} (hs : slot h s f = .fault r) :
    slotCtx s h = none ∧ r = .noGroup := by
  unfold slot at hs
  split at hs
  · cases hs; exact ⟨‹_›, rfl⟩
  · cases hs
theorem slot_not_refused {s : State} {h : Head} {f : Ctx → State → State} {r : Refusal} : slot h s f ≠ .refused r := by
  unfold slot; split <;> simp
/-- A property that the effect keeps is kept by the operation. -/
theorem slot_keeps (P : State → Prop) {s t : State} {h : Head} {f : Ctx → State → State} (hP : P s)
    (hf : ∀ c, RunsIn s h c → P (f c s)) (hs : slot h s f = .next t) : P t := by
  obtain ⟨c, -, ⟨-, rfl⟩ | ⟨hr, rfl⟩⟩ := slot_cases hs
  · exact hP
  · exact hf c hr

/-! Deferred writes (R22). -/

theorem State.modFlight_some {s : State} {fl : Flight} (h : s.flight = some fl) (f : Flight → Flight) :
    s.modFlight f = { s with flight := some (f fl) } := by rw [State.modFlight, h]; rfl
theorem State.emits_leaves {s : State} {fl : Flight} (h : s.flight = some fl) (lat : Nat) (ws : List RegWrite) :
    s.emits lat ws = s.leaves fl lat ws := State.modFlight_some h _
theorem State.emit_leaves {s : State} {fl : Flight} (h : s.flight = some fl) (lat : Nat) (w : RegWrite) :
    s.emit lat w = s.leaves fl lat [w] := State.modFlight_some h _
theorem State.emitS_leaves {s : State} {fl : Flight} (h : s.flight = some fl) (lat : Nat) (d : BitVec 6) (x : Dword) :
    s.emitS lat d x = s.leaves fl lat [.s d x 0] := State.emit_leaves h lat _
theorem State.emitV_leaves {s : State} {fl : Flight} (h : s.flight = some fl) (lat : Nat) (d : BitVec 7) (m : Mask) (x : Line) :
    s.emitV lat d m x = s.leaves fl lat [.v d m x 0] := State.emit_leaves h lat _
/-- A write of a predicate; one of p0 leaves the state as it is (R18). -/
theorem State.emitP_leaves {s : State} {fl : Flight} (h : s.flight = some fl) (lat : Nat) (d : BitVec 5) (m x : Mask) :
    s.emitP lat d m x = s.leaves fl lat (predWrites d m x) := by
  rw [State.emitP, predWrites]
  by_cases hd : d = 0
  · subst hd
    obtain ⟨⟩ := s
    cases h
    simp [State.leaves]
  · simp only [hd, beq_iff_eq, if_false]
    exact State.emit_leaves h lat _
/-- The flight of a state that has left writes. -/
@[simp] theorem State.leaves_flight (s : State) (fl : Flight) (lat : Nat) (ws : List RegWrite) :
    (s.leaves fl lat ws).flight = some { fl with writes := fl.writes ++ ws.map fun x => { lat := fl.latency lat, w := x } } := rfl
@[simp] theorem State.leaves_mem (s : State) (fl : Flight) (lat : Nat) (ws : List RegWrite) : (s.leaves fl lat ws).mem = s.mem := rfl
@[simp] theorem State.leaves_waves (s : State) (fl : Flight) (lat : Nat) (ws : List RegWrite) : (s.leaves fl lat ws).waves = s.waves := rfl
@[simp] theorem State.leaves_cores (s : State) (fl : Flight) (lat : Nat) (ws : List RegWrite) : (s.leaves fl lat ws).cores = s.cores := rfl
@[simp] theorem State.leaves_groups (s : State) (fl : Flight) (lat : Nat) (ws : List RegWrite) : (s.leaves fl lat ws).groups = s.groups := rfl
theorem State.memOk_leaves (s : State) (fl : Flight) (lat : Nat) (ws : List RegWrite) : (s.leaves fl lat ws).memOk = s.memOk := rfl
/-- Writes left one after the other are writes left together. -/
theorem State.leaves_leaves (s : State) (fl : Flight) (lat : Nat) (xs ys : List RegWrite) :
    (s.leaves fl lat xs).leaves { fl with writes := fl.writes ++ xs.map fun x => { lat := fl.latency lat, w := x } } lat ys
      = s.leaves fl lat (xs ++ ys) := by
  simp [State.leaves, Flight.latency]
/-- Draws and flags of a rounding operation, then its writes (R34, R87, R145, R148). -/
theorem State.putNum_emits {s : State} {fl : Flight} (h : s.flight = some fl) (lat : Nat) (n : NumCtx) (ws : List RegWrite) :
    (s.putNum lat n).emits lat ws = { s with flight := some (fl.rounded lat n.st n.flags ws) } := by
  obtain ⟨⟩ := s
  cases h
  by_cases hf : n.flags = 0#5
  · simp [State.putNum, State.raiseFlags, State.emits, State.modFlight, Flight.rounded, Flight.drew, hf, Flight.latency]
  · cases hp : fl.owner.prof <;>
      simp [State.putNum, State.raiseFlags, State.emits, State.emit, State.modFlight, Flight.rounded, Flight.drew, hf, hp, Flight.latency]

/-! The register file (R18, R22). -/

/-- Where a scalar write lands. -/
theorem Regs.sc_write (r : Regs) (n : BitVec 6) (x : Dword) (bad : BitVec 2) (k : Nat) :
    (r.write (.s n x bad)).sc k = if k = n.toNat then x else r.sc k := by
  simp only [Regs.write, Regs.sc, List.getD_eq_getElem?_getD, Vector.getElem?_toList, Vector.getElem?_setIfInBounds]
  by_cases hk : k = n.toNat
  · subst hk; simp [n.isLt]
  · simp [hk, Ne.symm hk]
/-- Where a branch-target write lands. -/
theorem Regs.bt_write (r : Regs) (n : BitVec 3) (x : Dword) (k : Nat) :
    (r.write (.b n x)).bt k = if k = n.toNat then x else r.bt k := by
  simp only [Regs.write, Regs.bt, List.getD_eq_getElem?_getD, Vector.getElem?_toList, Vector.getElem?_setIfInBounds]
  by_cases hk : k = n.toNat
  · subst hk; simp [n.isLt]
  · simp [hk, Ne.symm hk]
/-- Predicate 0 never holds (R18). -/
@[simp] theorem Regs.pred_zero (r : Regs) (i : Fin 32) : r.pred 0 i = false := by simp [Regs.pred]
@[simp] theorem Regs.predMask_zero (r : Regs) : r.predMask 0 = 0 := by simp [Regs.predMask]

end Sys2Proof.Machine
end

