-- ==== Sys2Proof/Tests/Slice0.lean ====
section
/-! SUPPORT. Tests of the model. Expected words come from the layouts of R46 and R48 and the opcode tables of R55 and R56, other
expected values from the spec's worked examples or from its rules by hand; then a witness for the hypotheses of each
statement. -/

namespace Sys2Proof.Machine

/-- The wave with one register set. -/
def Wave.withS (w : Wave) (n : Nat) (x : Dword) : Wave :=
  { w with r := { w.r with s := { w.r.s with val := w.r.s.val.setIfInBounds n x } } }
def Wave.withV (w : Wave) (n : Nat) (f : Nat → Word) : Wave :=
  { w with r := { w.r with v := w.r.v.setIfInBounds n (Line.build fun i => f i.val) } }
def Wave.withP (w : Wave) (n : Nat) (m : Mask) : Wave := { w with r := { w.r with p := w.r.p.setIfInBounds n m } }
def Wave.withB (w : Wave) (n : Nat) (x : Dword) : Wave := { w with r := { w.r with b := w.r.b.setIfInBounds n x } }

end Sys2Proof.Machine

namespace Sys2Proof.Tests
open Sys2Proof Sys2Proof.Machine
set_option Elab.async false

/-! What the tests are built from. -/

/-- No tag, no guard. -/
def h0 : Head := { tag := .always, neg := false, gp := 0 }
/-- Each word decodes to the operation beside it. -/
def decodesAll (p : Profile) (k : Nat) (l : List (Slot × Instr)) : Bool := l.all fun e => decide (decodeSlot p k e.1 = some e.2)
/-- Each word is an illegal encoding in its slot. -/
def illegalAll (l : List (Profile × Nat × Slot)) : Bool := l.all fun e => (decodeSlot e.1 e.2.1 e.2.2).isNone
/-- Each term is refused by the check of well-formedness. -/
def refusesAll (l : List Instr) : Bool := l.all fun i => !i.wf

/-- An empty bundle that ends its group. -/
def plainBundle : FBundle := { bits := 1, bad := false }
/-- A wave of 32 threads activated in slot 0 of core 0, every register zero but v0. -/
def wave0 : Wave := { newWave (soloGrid 0) 0 2 1 0 false none 0 0 0 with act := .active 0 0, cur := BitVec.allOnes 32 }
/-- Its group in flight, one bundle long, all threads in it. -/
def flightOf (w : Wave) : Flight := newFlight (.wave 2) w.r 0 [plainBundle] (BitVec.allOnes 32) []
/-- The state of a wave with a group in flight, in its grid and group on core 0, and without one. -/
def idleState (w : Wave) : State := { State.reset with nextUid := 3, grids := [soloGrid 0], groups := [soloGroup 1 0], waves := [w] }
def waveState (w : Wave) : State := { idleState w with flight := some (flightOf w) }
/-- The same for the wave of a line core. -/
def lineWave : Wave := runWave 2 0 0 1 0 0 0
def lineFlight (w : Wave) : Flight := newFlight (.line 0) w.r 0 [plainBundle] (BitVec.allOnes 32) []
def lineOf (w : Wave) : LineCore :=
  { lineCoreReset 0 with wave := some w, run := some { head := 0, entry := 0, frame := 0, first := 0, lines := 1, popped := none } }
def lineIdle (w : Wave) : State := { State.reset with disp := { lines := [lineOf w], heads := [], mailbox := [] } }
def lineState (w : Wave) : State := { lineIdle w with flight := some (lineFlight w) }

/-- The state after an instruction, and the register writes that it leaves for its group's end. -/
def after (i : Instr) (s : State) : Option State := match exec i s with | .next t => some t | _ => none
def leaves (i : Instr) (s : State) : Option (List RegWrite) := (after i s).bind fun t => t.flight.map fun f => f.writes.map fun x => x.w
def flightAfter (i : Instr) (s : State) : Option Flight := (after i s).bind fun t => t.flight
/-- A vector write of lane function f in all lanes. -/
def vecWrite (d : BitVec 7) (f : Nat → Word) : RegWrite := .v d (BitVec.allOnes 32) (Line.build fun i => f i.val) 0

/-! Decoding: words written out from the layouts and the tables. -/

/-- R55 S map 0x01 to 0x10, SR or SI. -/
theorem test_decode_scalar_arithmetic : decodesAll .c 0 [
    (0x0000BF46800000, .add h0 (.r { d := 63, a := 17, b := 40, ty := .i8, cond := 0, pos := 0, len := 0 })),
    (0x028141F9C20000, .sub { tag := .always, neg := false, gp := 5 } (.i { d := 1, a := 62, ty := .n64, cond := 0, imm := 131072 })),
    (0x1F81BD4E610000, .mul { tag := .always, neg := true, gp := 31 } (.r { d := 61, a := 19, b := 38, ty := .i16, cond := 0, pos := 0, len := 0 })),
    (0x200243F183FFFF, .mulh { tag := .on0, neg := false, gp := 0 } (.i { d := 3, a := 60, ty := .n32, cond := 0, imm := 262143 })),
    (0xA882BB56420000, .div { tag := .on4, neg := false, gp := 17 } (.r { d := 59, a := 21, b := 36, ty := .i32, cond := 0, pos := 0, len := 0 })),
    (0x748345E941FFFF, .mod { tag := .on2, neg := true, gp := 9 } (.i { d := 5, a := 58, ty := .n16, cond := 0, imm := 131071 })),
    (0x0003B95E230000, .min h0 (.r { d := 57, a := 23, b := 34, ty := .i64, cond := 0, pos := 0, len := 0 })),
    (0x028447E1000155, .max { tag := .always, neg := false, gp := 5 } (.i { d := 7, a := 56, ty := .n8, cond := 0, imm := 341 })),
    (0x1F84B766040000, .and { tag := .always, neg := true, gp := 31 } (.r { d := 55, a := 25, b := 32, ty := .n8, cond := 0, pos := 0, len := 0 })),
    (0x200549D8C20000, .or { tag := .on0, neg := false, gp := 0 } (.i { d := 9, a := 54, ty := .i64, cond := 0, imm := 131072 })),
    (0xA885B56DE50000, .xor { tag := .on4, neg := false, gp := 17 } (.r { d := 53, a := 27, b := 30, ty := .n16, cond := 0, pos := 0, len := 0 })),
    (0x74864BD083FFFF, .andn { tag := .on2, neg := true, gp := 9 } (.i { d := 11, a := 52, ty := .i32, cond := 0, imm := 262143 })),
    (0x0006B375C60000, .shl h0 (.r { d := 51, a := 29, b := 28, ty := .n32, cond := 0, pos := 0, len := 0 })),
    (0x02874DC841FFFF, .shr { tag := .always, neg := false, gp := 5 } (.i { d := 13, a := 50, ty := .i16, cond := 0, imm := 131071 })),
    (0x1F87B17DA70000, .sar { tag := .always, neg := true, gp := 31 } (.r { d := 49, a := 31, b := 26, ty := .n64, cond := 0, pos := 0, len := 0 })),
    (0x20084FC0000155, .rol { tag := .on0, neg := false, gp := 0 } (.i { d := 15, a := 48, ty := .i8, cond := 0, imm := 341 }))] = true := by decide +kernel
/-- R55 S map 0x11 to 0x25; the two tagged moves are the worked example of the chapter. -/
theorem test_decode_scalar_control : decodesAll .c 0 [
    (0x00088984070A17, .bfx h0 { d := 9, a := 33, b := 0, ty := .n64, cond := 0, pos := 40, len := 23 }),
    (0x00890987E2015A, .bfi { tag := .always, neg := false, gp := 1 } { d := 9, a := 33, b := 62, ty := .i32, cond := 0, pos := 5, len := 26 }),
    (0x00098108040000, .popc h0 { d := 1, a := 2, b := 0, ty := .n8, cond := 0, pos := 0, len := 0 }),
    (0x000A020C010000, .clz h0 { d := 2, a := 3, b := 0, ty := .i16, cond := 0, pos := 0, len := 0 }),
    (0x000A8310070000, .ctz h0 { d := 3, a := 4, b := 0, ty := .n64, cond := 0, pos := 0, len := 0 }),
    (0x000B0414030000, .brev h0 { d := 4, a := 5, b := 0, ty := .i64, cond := 0, pos := 0, len := 0 }),
    (0x000B9F18765000, .cmp h0 (.r { d := 31, a := 6, b := 7, ty := .n32, cond := 5, pos := 0, len := 0 })),
    (0x000BDE188BFFFD, .cmp h0 (.i { d := 30, a := 6, ty := .i32, cond := 2, imm := 262141 })),
    (0x000C5D2144004D, .test h0 (.i { d := 29, a := 8, ty := .n16, cond := 1, imm := 77 })),
    (0x000CB2CF4307C0, .sel h0 { d := 50, a := 51, b := 52, ty := .i64, cond := 0, pos := 31, len := 0 }),
    (0x200D0304000000, .mov { tag := .on0, neg := false, gp := 0 } (.r { d := 3, a := 1, b := 0, ty := .i8, cond := 0, pos := 0, len := 0 })),
    (0x400D0308000000, .mov { tag := .on1, neg := false, gp := 0 } (.r { d := 3, a := 2, b := 0, ty := .i8, cond := 0, pos := 0, len := 0 })),
    (0x000D5400C3FFF9, .mov h0 (.i { d := 20, a := 0, ty := .i64, cond := 0, imm := 262137 })),
    (0x000DBEDEADBEEF, .movw h0 { d := 62, imm := 3735928559 }),
    (0x000DFE80000001, .movwHi h0 { d := 62, imm := 2147483649 }),
    (0x000E4B00000010, .getid h0 { d := 11, a := 0, ty := .i8, cond := 0, imm := 16 }),
    (0x000ECC00001F15, .setmode h0 (.i { d := 12, a := 0, ty := .i8, cond := 0, imm := 7957 })),
    (0x000E8C34E00000, .setmode h0 (.r { d := 12, a := 13, b := 14, ty := .i8, cond := 0, pos := 0, len := 0 })),
    (0x000F0F000007C0, .rdfl h0 { d := 15, a := 0, b := 0, ty := .i8, cond := 0, pos := 31, len := 0 }),
    (0x00102000000008, .pbr h0 { bt := 2, off := 8 }),
    (0x001077FFFFFFFF, .pbr h0 { bt := 7, off := 34359738367 }),
    (0x0010DF40000000, .pbrx h0 { bt := 5, a := 61 }),
    (0x00116F00000000, .mfb h0 { bt := 6, a := 60 }),
    (0x0011C0FFFF7FFF, .loop h0 { i := true, a := 0, cnt := 65535, off := 32767 }),
    (0x0011AC00000003, .loop h0 { i := false, a := 44, cnt := 0, off := 3 }),
    (0x00121EC0000000, .call h0 { bt := 1, a := 59 }),
    (0x0012C000000000, .ret h0 { bt := 4, a := 0 })] = true := by decide +kernel
/-- R55 V map 0x01 to 0x1F. -/
theorem test_decode_vector_arithmetic : decodesAll .c 1 [
    (0x0000FF80010000, .vadd h0 { d := 127, a := 128, b := 1, c := 0, ty := .i8, md := 0, bsel := false }),
    (0x02817E81040082, .vsub { tag := .always, neg := false, gp := 5 } { d := 126, a := 129, b := 4, c := 0, ty := .f16, md := 1, bsel := false }),
    (0x1F81FD820700A4, .vmul { tag := .always, neg := true, gp := 31 } { d := 125, a := 130, b := 7, c := 0, ty := .f32, md := 2, bsel := false }),
    (0x20027C830A0060, .vmulh { tag := .on0, neg := false, gp := 0 } { d := 124, a := 131, b := 10, c := 0, ty := .n32, md := 0, bsel := false }),
    (0xA882FB840DC898, .vfma { tag := .on4, neg := false, gp := 17 } { d := 123, a := 132, b := 13, c := 200, ty := .bf16, md := 4, bsel := false }),
    (0x74837A85100050, .vmin { tag := .on2, neg := true, gp := 9 } { d := 122, a := 133, b := 16, c := 0, ty := .n16, md := 0, bsel := false }),
    (0x0003F9861300A0, .vmax h0 { d := 121, a := 134, b := 19, c := 0, ty := .f32, md := 0, bsel := false }),
    (0x02847887000020, .vabs { tag := .always, neg := false, gp := 5 } { d := 120, a := 135, b := 0, c := 0, ty := .i32, md := 0, bsel := false }),
    (0x1F84F788000080, .vneg { tag := .always, neg := true, gp := 31 } { d := 119, a := 136, b := 0, c := 0, ty := .f16, md := 0, bsel := false }),
    (0x200576891C0010, .vadds { tag := .on0, neg := false, gp := 0 } { d := 118, a := 137, b := 28, c := 0, ty := .i16, md := 0, bsel := false }),
    (0xA885F58A1F0040, .vsubs { tag := .on4, neg := false, gp := 17 } { d := 117, a := 138, b := 31, c := 0, ty := .n8, md := 0, bsel := false }),
    (0x7486748B2200AA, .vdiv { tag := .on2, neg := true, gp := 9 } { d := 116, a := 139, b := 34, c := 0, ty := .f32, md := 5, bsel := false }),
    (0x0006F38C000090, .vrint h0 { d := 115, a := 140, b := 0, c := 0, ty := .bf16, md := 0, bsel := false }),
    (0x0287728D000082, .vfract { tag := .always, neg := false, gp := 5 } { d := 114, a := 141, b := 0, c := 0, ty := .f16, md := 1, bsel := false }),
    (0x1F87F18E2B00A4, .vldexp { tag := .always, neg := true, gp := 31 } { d := 113, a := 142, b := 43, c := 0, ty := .f32, md := 2, bsel := false }),
    (0x000800FF640000, .vand h0 { d := 0, a := 255, b := 100, c := 0, ty := .i8, md := 0, bsel := false }),
    (0x000881FE000001, .vor h0 { d := 1, a := 254, b := 0, c := 0, ty := .i8, md := 0, bsel := true }),
    (0x000902FD660000, .vxor h0 { d := 2, a := 253, b := 102, c := 0, ty := .i8, md := 0, bsel := false }),
    (0x000983FC670000, .vandn h0 { d := 3, a := 252, b := 103, c := 0, ty := .i8, md := 0, bsel := false }),
    (0x000A04FB000000, .vnot h0 { d := 4, a := 251, b := 0, c := 0, ty := .i8, md := 0, bsel := false }),
    (0x000A85FA690050, .vshl h0 { d := 5, a := 250, b := 105, c := 0, ty := .n16, md := 0, bsel := false }),
    (0x000B06F96A0020, .vshr h0 { d := 6, a := 249, b := 106, c := 0, ty := .i32, md := 0, bsel := false }),
    (0x000B87F86B0040, .vsar h0 { d := 7, a := 248, b := 107, c := 0, ty := .n8, md := 0, bsel := false }),
    (0x000C08F76C0000, .vrol h0 { d := 8, a := 247, b := 108, c := 0, ty := .i8, md := 0, bsel := false }),
    (0x000C89F66D4D60, .vbfx h0 { d := 9, a := 246, b := 109, c := 77, ty := .n32, md := 0, bsel := false }),
    (0x000D0AF56E4D00, .vbfi h0 { d := 10, a := 245, b := 110, c := 77, ty := .i8, md := 0, bsel := false }),
    (0x000D8BF4000040, .vpopc h0 { d := 11, a := 244, b := 0, c := 0, ty := .n8, md := 0, bsel := false }),
    (0x000E0CF3000000, .vclz h0 { d := 12, a := 243, b := 0, c := 0, ty := .i8, md := 0, bsel := false }),
    (0x000E8DF2000050, .vbrev h0 { d := 13, a := 242, b := 0, c := 0, ty := .n16, md := 0, bsel := false }),
    (0x000F0EF1721F00, .vsel h0 { d := 14, a := 241, b := 114, c := 31, ty := .i8, md := 0, bsel := false }),
    (0x000F8F00000001, .vmov h0 { d := 15, a := 0, b := 0, c := 0, ty := .i8, md := 0, bsel := true })] = true := by decide +kernel
/-- R55 V map 0x20 to 0x5C. -/
theorem test_decode_vector_other : decodesAll .c 1 [
    (0x00101F018200AE, .vcmp h0 { d := 31, a := 1, b := 130, c := 0, ty := .f32, md := 7, bsel := false }),
    (0x00101E0102006A, .vcmp h0 { d := 30, a := 1, b := 2, c := 0, ty := .n32, md := 5, bsel := false }),
    (0x00109D0300FFA0, .vclass h0 { d := 29, a := 3, b := 0, c := 255, ty := .f32, md := 0, bsel := false }),
    (0x00111C04050002, .vtest h0 { d := 28, a := 4, b := 5, c := 0, ty := .i8, md := 1, bsel := false }),
    (0x00119B06070840, .vsad h0 { d := 27, a := 6, b := 7, c := 8, ty := .n8, md := 0, bsel := false }),
    (0x00127E090A0020, .vmulw h0 { d := 126, a := 9, b := 10, c := 0, ty := .i32, md := 0, bsel := false }),
    (0x0012FC0B0C0E50, .vmadw h0 { d := 124, a := 11, b := 12, c := 14, ty := .n16, md := 0, bsel := false }),
    (0x00141415000824, .vcvt h0 { d := 20, a := 21, b := 0, c := 8, ty := .i32, md := 2, bsel := false }),
    (0x001496171801B2, .vpack h0 { d := 22, a := 23, b := 24, c := 1, ty := .e4m3, md := 1, bsel := false }),
    (0x0015191A000340, .vunpk h0 { d := 25, a := 26, b := 0, c := 3, ty := .n8, md := 0, bsel := false }),
    (0x00159B1C1D1E00, .vbyte h0 { d := 27, a := 28, b := 29, c := 30, ty := .i8, md := 0, bsel := false }),
    (0x001E1F202122C8, .vdp4 h0 { d := 31, a := 32, b := 33, c := 34, ty := .e5m2, md := 4, bsel := false }),
    (0x001EA32425269A, .vdp2 h0 { d := 35, a := 36, b := 37, c := 38, ty := .bf16, md := 5, bsel := false }),
    (0x00200102030000, .pand h0 { d := 1, a := 2, b := 3, c := 0, ty := .i8, md := 0, bsel := false }),
    (0x00208405060000, .por h0 { d := 4, a := 5, b := 6, c := 0, ty := .i8, md := 0, bsel := false }),
    (0x00210708090000, .pxor h0 { d := 7, a := 8, b := 9, c := 0, ty := .i8, md := 0, bsel := false }),
    (0x00218A0B0C0000, .pandn h0 { d := 10, a := 11, b := 12, c := 0, ty := .i8, md := 0, bsel := false }),
    (0x00220D0E000000, .pnot h0 { d := 13, a := 14, b := 0, c := 0, ty := .i8, md := 0, bsel := false }),
    (0x00228F10000000, .pmov h0 { d := 15, a := 16, b := 0, c := 0, ty := .i8, md := 0, bsel := false }),
    (0x00231100000100, .pset h0 { d := 17, a := 0, b := 0, c := 1, ty := .i8, md := 0, bsel := false }),
    (0x002828292A0000, .vperm h0 { d := 40, a := 41, b := 42, c := 0, ty := .i8, md := 0, bsel := false }),
    (0x0028AB2C001F00, .vrot h0 { d := 43, a := 44, b := 0, c := 31, ty := .i8, md := 0, bsel := false }),
    (0x00292D2E001000, .vshuf h0 { d := 45, a := 46, b := 0, c := 16, ty := .i8, md := 0, bsel := false }),
    (0x0029AF30000700, .vbcast h0 { d := 47, a := 48, b := 0, c := 7, ty := .i8, md := 0, bsel := false }),
    (0x002A0504000000, .vmatch h0 { d := 5, a := 4, b := 0, c := 0, ty := .i8, md := 0, bsel := false }),
    (0x002AB11E000000, .vballot h0 { d := 49, a := 30, b := 0, c := 0, ty := .i8, md := 0, bsel := false }),
    (0x002B3233000D20, .vscan h0 { d := 50, a := 51, b := 0, c := 13, ty := .i32, md := 0, bsel := false }),
    (0x002BB4350000A6, .vred h0 { d := 52, a := 53, b := 0, c := 0, ty := .f32, md := 3, bsel := false }),
    (0x002C3F36001F00, .vlane h0 { d := 63, a := 54, b := 0, c := 31, ty := .i8, md := 0, bsel := false }),
    (0x002CBE1D000000, .vfirst h0 { d := 62, a := 29, b := 0, c := 0, ty := .i8, md := 0, bsel := false }),
    (0x002D37B81C0000, .vcompact h0 { d := 55, a := 184, b := 28, c := 0, ty := .i8, md := 0, bsel := false }),
    (0x002E38390078A0, .mamax h0 { d := 56, a := 57, b := 0, c := 120, ty := .f32, md := 0, bsel := false })] = true := by decide +kernel
/-- R55 V map 0x30 to 0x3B and 0x5D, V1 only. -/
theorem test_decode_vector_v1 : decodesAll .c 2 [
    (0x00183C46000080, .vrcp h0 { d := 60, a := 70, b := 0, c := 0, ty := .f16, md := 0, bsel := false }),
    (0x0018BD470000A2, .vrsq h0 { d := 61, a := 71, b := 0, c := 0, ty := .f32, md := 1, bsel := false }),
    (0x00193E48000084, .vsqrt h0 { d := 62, a := 72, b := 0, c := 0, ty := .f16, md := 2, bsel := false }),
    (0x0019BF490000A6, .vexp2 h0 { d := 63, a := 73, b := 0, c := 0, ty := .f32, md := 3, bsel := false }),
    (0x001A404A000088, .vlog2 h0 { d := 64, a := 74, b := 0, c := 0, ty := .f16, md := 4, bsel := false }),
    (0x001AC14B0000AA, .vsin h0 { d := 65, a := 75, b := 0, c := 0, ty := .f32, md := 5, bsel := false }),
    (0x001B424C000080, .vcos h0 { d := 66, a := 76, b := 0, c := 0, ty := .f16, md := 0, bsel := false }),
    (0x001BC34D0000A2, .vtanh h0 { d := 67, a := 77, b := 0, c := 0, ty := .f32, md := 1, bsel := false }),
    (0x001C0102030060, .vclmul h0 { d := 1, a := 2, b := 3, c := 0, ty := .n32, md := 0, bsel := false }),
    (0x001C8405060060, .vclmulh h0 { d := 4, a := 5, b := 6, c := 0, ty := .n32, md := 0, bsel := false }),
    (0x001D7E7C7D7AA0, .vrbox h0 { d := 126, a := 124, b := 125, c := 122, ty := .f32, md := 0, bsel := false }),
    (0x001DFC000A77A0, .vrtri h0 { d := 124, a := 0, b := 10, c := 119, ty := .f32, md := 0, bsel := false }),
    (0x002E8708090EAA, .mcvt h0 { d := 7, a := 8, b := 9, c := 14, ty := .f32, md := 5, bsel := false })] = true := by decide +kernel
/-- R55 M map: 0x01 to 0x0B. -/
theorem test_decode_matrix : decodesAll .c 3 [
    (0x0000FF82107F80, .mcfg h0 { tn := 3, td := 63, t1 := 1, t2 := 2, t3 := 3, a := 63, md := 0 }),
    (0x00008200000001, .mcfgQ h0 { tn := 0, td := 4, t1 := 0, t2 := 0, t3 := 0, a := 0, md := 1 }),
    (0x00010280001E81, .mshelf h0 { tn := 0, td := 5, t1 := 0, t2 := 0, t3 := 0, a := 61, md := 1 }),
    (0x00018300001E01, .mloop h0 { tn := 0, td := 6, t1 := 0, t2 := 0, t3 := 0, a := 60, md := 1 }),
    (0x00020380001D80, .mstep h0 { tn := 0, td := 7, t1 := 0, t2 := 0, t3 := 0, a := 59, md := 0 }),
    (0x00028400001D00, .mzero h0 { tn := 0, td := 8, t1 := 0, t2 := 0, t3 := 0, a := 58, md := 0 }),
    (0x00030480001CC2, .mrot h0 { tn := 0, td := 9, t1 := 0, t2 := 0, t3 := 0, a := 57, md := 66 }),
    (0x00038500001C4E, .mdrain h0 { tn := 0, td := 10, t1 := 0, t2 := 0, t3 := 0, a := 56, md := 78 }),
    (0x00040580001B80, .mscale h0 { tn := 0, td := 11, t1 := 0, t2 := 0, t3 := 0, a := 55, md := 0 }),
    (0x00048600001B00, .mhistClear h0 { tn := 0, td := 12, t1 := 0, t2 := 0, t3 := 0, a := 54, md := 0 }),
    (0x00050680001A81, .mget h0 { tn := 0, td := 13, t1 := 0, t2 := 0, t3 := 0, a := 53, md := 1 }),
    (0x00058700001A00, .mput h0 { tn := 0, td := 14, t1 := 0, t2 := 0, t3 := 0, a := 52, md := 0 })] = true := by decide +kernel
/-- R55 L map; ld.mark is a worked example of chapter 09. -/
theorem test_decode_loads : decodesAll .c 4 [
    (0x0000FFEFDC8000, .ld h0 { cls := 15, d := 126, base := 63, ty := .n64, addr := .off 32768 }),
    (0x1100883102E4C0, .ld { tag := .always, neg := true, gp := 2 } { cls := 1, d := 3, base := 4, ty := .i8, addr := .idx true 100 3 }),
    (0x000113F14CFFF8, .ldu h0 { cls := 2, d := 63, base := 5, ty := .i64, addr := .off 65528 }),
    (0x00018071960540, .lds h0 { cls := 0, d := 7, base := 6, ty := .n16, addr := .idx false 5 1 }),
    (0x00021891D8F804, .ldp h0 { cls := 3, d := 9, base := 7, ty := .n32, addr := .off 63492 }),
    (0x000288A1180080, .ldMark h0 { cls := 1, d := 10, base := 4, ty := .n32, addr := .off 128 }),
    (0x000320C21B3F28, .atom h0 { cls := 4, d := 12, base := 8, ty := .n32, scope := 6, aop := 7, lu := true, idx := 101 }),
    (0x0003A8E25D4B30, .satom h0 { cls := 5, d := 14, base := 9, ty := .n64, scope := 2, aop := 9, lu := false, idx := 102 }),
    (0x00046300000007, .qpop h0 { v := 99, lu := false, q := 7 }),
    (0x0004FAF828B001, .tex h0 { d := 122, a := 248, res := 10, smp := 11, md := 1 }),
    (0x00050304300002, .tld h0 { d := 3, a := 4, res := 12, smp := 0, md := 2 })] = true := by decide +kernel
/-- R55 W map. -/
theorem test_decode_stores : decodesAll .c 5 [
    (0x0000B145521600, .st h0 { cls := 6, d := 20, base := 21, ty := .n8, addr := .idx false 22 0 }),
    (0x00013976180004, .stu h0 { cls := 7, d := 23, base := 24, ty := .n32, addr := .off 4 }),
    (0x0001C196A00002, .sts h0 { cls := 8, d := 25, base := 26, ty := .f16, addr := .off 2 }),
    (0x000249B70A88E8, .red h0 { cls := 9, d := 27, base := 28, ty := .i32, scope := 5, aop := 1, lu := false, idx := 29 }),
    (0x0002D1E7E88100, .sred h0 { cls := 10, d := 30, base := 31, ty := .f32, scope := 1, aop := 0, lu := false, idx := 32 }),
    (0x00035FC863FF80, .cst4 h0 { cls := 11, d := 124, base := 33, p := 17, nl := 3, off := 32640 }),
    (0x0003A280000005, .qpush h0 { v := 34, lu := true, q := 5 }),
    (0x00042425980003, .vatom h0 { d := 36, a := 37, res := 38, smp := 0, md := 3 })] = true := by decide +kernel
/-- R55 C map; copy is a worked example of chapter 11. -/
theorem test_decode_copy_engine : decodesAll .c 6 [
    (0x0000A40C000A09, .copy h0 { tn := 1, td := 8, t1 := 6, t2 := 0, t3 := 0, a := 20, md := 9 }),
    (0x00010480000A98, .gather h0 { tn := 0, td := 9, t1 := 0, t2 := 0, t3 := 0, a := 21, md := 24 }),
    (0x00018500000B04, .scatter h0 { tn := 0, td := 10, t1 := 0, t2 := 0, t3 := 0, a := 22, md := 4 }),
    (0x00020580000B82, .pref h0 { tn := 0, td := 11, t1 := 0, t2 := 0, t3 := 0, a := 23, md := 2 }),
    (0x00028600000C08, .fill h0 { tn := 0, td := 12, t1 := 0, t2 := 0, t3 := 0, a := 24, md := 8 }),
    (0x00030680000C80, .cflush h0 { tn := 0, td := 13, t1 := 0, t2 := 0, t3 := 0, a := 25, md := 0 }),
    (0x00038700000D00, .cinv h0 { tn := 0, td := 14, t1 := 0, t2 := 0, t3 := 0, a := 26, md := 0 }),
    (0x000447A0880D87, .send h0 { tn := 2, td := 15, t1 := 16, t2 := 17, t3 := 0, a := 27, md := 7 }),
    (0x00048900001F85, .recv h0 { tn := 0, td := 18, t1 := 0, t2 := 0, t3 := 0, a := 63, md := 5 }),
    (0x00050980000E00, .xmit h0 { tn := 0, td := 19, t1 := 0, t2 := 0, t3 := 0, a := 28, md := 0 }),
    (0x00058A00000E80, .isel h0 { tn := 0, td := 20, t1 := 0, t2 := 0, t3 := 0, a := 29, md := 0 }),
    (0x00060A80000F4A, .coll h0 { tn := 0, td := 21, t1 := 0, t2 := 0, t3 := 0, a := 30, md := 74 })] = true := by decide +kernel
/-- R55 Y map; sysc is a worked example of chapter 17. -/
theorem test_decode_synchronisation : decodesAll .c 7 [
    (0x0000D800008001, .fence h0 { kind := 2, scope := 6, cmask := 32769 }),
    (0x0001200240FFC0, .mon h0 { cls := 4, d := 0, base := 9, ty := .i8, addr := .off 65472 }),
    (0x00019F000FFFFF, .wait h0 { d := 31, a := 0, b := 0, imm := 1048575 }),
    (0x00020000020000, .meet h0 { d := 0, a := 0, b := 0, imm := 131072 }),
    (0x00027E00040000, .meetSave h0 { d := 126, a := 0, b := 0, imm := 262144 }),
    (0x00027C00080000, .meetRest h0 { d := 124, a := 0, b := 0, imm := 524288 }),
    (0x000200000C0000, .meetClr h0 { d := 0, a := 0, b := 0, imm := 786432 }),
    (0x00028000000000, .yield h0 { d := 0, a := 0, b := 0, imm := 0 }),
    (0x00030000000000, .bar h0 { d := 0, a := 0, b := 0, imm := 0 }),
    (0x00039E74000002, .vote h0 { d := 30, a := 29, b := 0, imm := 2 }),
    (0x000400FC01FFFF, .trap h0 { d := 0, a := 63, b := 0, imm := 131071 }),
    (0x00048014000042, .sysc h0 { d := 0, a := 5, b := 0, imm := 66 }),
    (0x0005000000FFFF, .bkpt h0 { d := 0, a := 0, b := 0, imm := 65535 }),
    (0x0005B200000010, .rdsr h0 { s := 50, srn := 16 }),
    (0x00063300000A30, .wrsr h0 { s := 51, srn := 2608 }),
    (0x00068180001FBF, .dlaunch h0 { tn := 0, td := 3, t1 := 0, t2 := 0, t3 := 0, a := 63, md := 63 }),
    (0x00070004200000, .fork h0 { d := 0, a := 1, b := 2, imm := 0 }),
    (0x0007800C400000, .join h0 { d := 0, a := 3, b := 4, imm := 0 }),
    (0x00080280001F04, .enq h0 { tn := 0, td := 5, t1 := 0, t2 := 0, t3 := 0, a := 62, md := 4 }),
    (0x00088300001E00, .mapsync h0 { tn := 0, td := 6, t1 := 0, t2 := 0, t3 := 0, a := 60, md := 0 }),
    (0x00090380001D00, .present h0 { tn := 0, td := 7, t1 := 0, t2 := 0, t3 := 0, a := 58, md := 0 }),
    (0x00098000000000, .barc h0 { d := 0, a := 0, b := 0, imm := 0 }),
    (0x00098000000001, .barcClose h0 { d := 0, a := 0, b := 0, imm := 1 }),
    (0x000A0014600000, .emit h0 { d := 0, a := 5, b := 6, imm := 0 }),
    (0x000A001C800001, .emitRetest h0 { d := 0, a := 7, b := 8, imm := 1 }),
    (0x000A0000900002, .emitClose h0 { d := 0, a := 0, b := 9, imm := 2 }),
    (0x000A8000003039, .sleep h0 { d := 0, a := 0, b := 0, imm := 12345 }),
    (0x000B3F00000001, .rdclk h0 { d := 63, a := 0, b := 0, imm := 1 })] = true := by decide +kernel
/-- R56 V0 and V1 additions of profile D. -/
theorem test_decode_display_vector : decodesAll .d 2 [
    (0x00307D7D007CA0, .vqrot h0 { d := 125, a := 125, b := 0, c := 124, ty := .f32, md := 0, bsel := false }),
    (0x0030FE000004A0, .vproj h0 { d := 126, a := 0, b := 0, c := 4, ty := .f32, md := 0, bsel := false }),
    (0x00310A0C0077A0, .vwarp h0 { d := 10, a := 12, b := 0, c := 119, ty := .f32, md := 0, bsel := false }),
    (0x003194161819A0, .vextr h0 { d := 20, a := 22, b := 24, c := 25, ty := .f32, md := 0, bsel := false }),
    (0x00327C000408A0, .vblend h0 { d := 124, a := 0, b := 4, c := 8, ty := .f32, md := 0, bsel := false }),
    (0x00329F010203A0, .vdisoc h0 { d := 31, a := 1, b := 2, c := 3, ty := .f32, md := 0, bsel := false }),
    (0x00331E7C000100, .vpxpk h0 { d := 30, a := 124, b := 0, c := 1, ty := .i8, md := 0, bsel := false }),
    (0x0033FC05000000, .vpxup h0 { d := 124, a := 5, b := 0, c := 0, ty := .i8, md := 0, bsel := false })] = true := by decide +kernel
/-- R56 X map. -/
theorem test_decode_display_matrix : decodesAll .d 3 [
    (0x00008000FC0000, .xcfg h0 { d := 0, a := 0, s := 63, md := 0 }),
    (0x00010000F80003, .xwld h0 { d := 0, a := 0, s := 62, md := 3 }),
    (0x00018000F4007F, .xmma h0 { d := 0, a := 0, s := 61, md := 127 }),
    (0x00020000F000FE, .xact h0 { d := 0, a := 0, s := 60, md := 254 }),
    (0x00028000EC1FFC, .xdrain h0 { d := 0, a := 0, s := 59, md := 8188 }),
    (0x0003000000007C, .xzero h0 { d := 0, a := 0, s := 0, md := 124 })] = true := by decide +kernel
/-- R56 F map. -/
theorem test_decode_frame_fetch : decodesAll .d 6 [
    (0x0000FC7E01FC01, .ffet h0 { d := 124, a := 126, b := 1, frm := 63, md := 1 }),
    (0x00017F02001400, .ffetd h0 { d := 127, a := 2, b := 0, frm := 5, md := 0 }),
    (0x00018607002000, .ffetm h0 { d := 6, a := 7, b := 0, frm := 8, md := 0 }),
    (0x0002090A8B3001, .fnear h0 { d := 9, a := 10, b := 139, frm := 12, md := 1 })] = true := by decide +kernel
/-- R56 E map; pget is a worked example of chapter 15. -/
theorem test_decode_display_sync : decodesAll .d 7 [
    (0x0000B40000FFFF, .fence h0 { kind := 1, scope := 5, cmask := 65535 }),
    (0x000400040000AB, .trap h0 { d := 0, a := 1, b := 0, imm := 171 }),
    (0x00050000000007, .bkpt h0 { d := 0, a := 0, b := 0, imm := 7 }),
    (0x00058100000040, .rdsr h0 { s := 1, srn := 64 }),
    (0x00060200000018, .wrsr h0 { s := 2, srn := 24 }),
    (0x00105A0400001F, .hemit h0 { d := 90, a := 1, b := 0, imm := 31 }),
    (0x0010800830001E, .hfill h0 { d := 0, a := 2, b := 3, imm := 30 }),
    (0x00112850000002, .pget h0 { d := 40, a := 20, b := 0, imm := 2 }),
    (0x0011801400001D, .dqpop h0 { d := 0, a := 5, b := 0, imm := 29 }),
    (0x00120000000000, .dqdone h0 { d := 0, a := 0, b := 0, imm := 0 }),
    (0x00128018700000, .atlset h0 { d := 0, a := 6, b := 7, imm := 0 }),
    (0x00130000000000, .lbar h0 { d := 0, a := 0, b := 0, imm := 0 }),
    (0x00138020000000, .lwait h0 { d := 0, a := 8, b := 0, imm := 0 }),
    (0x00143F24000001, .rdbeam h0 { d := 63, a := 9, b := 0, imm := 1 })] = true := by decide +kernel
/-- exit has no operand field, a hint ignores its own, and a slot of zeros is a nop (R47, R55, R57). -/
theorem test_decode_plain : decodesAll .c 0 [
    (0x00130000000000, .exit h0), (0, .nop h0), (0x20000000000000, .nop { tag := .on0, neg := false, gp := 0 }),
    (0x007A8000000123, .hint h0 5 0x123)] = true := by decide +kernel
/-- Illegal: tags 6 and 7, GP = 0 with GN = 1, a nop with an operand, opcodes that no table row gives (among them V1-only in V0, V0-only in V1,
profile C's in profile D and the other way round), a reserved TYPE, and a bit that a format marks zero (R27, R46, R47, R55 to R58). -/
theorem test_illegal_words : illegalAll [
    (.c, 0, 0xC0000000000000), (.c, 0, 0xE0000000000000), (.c, 0, 0x10000000000000), (.c, 0, 1), (.c, 0, 0x000F8000000000),
    (.c, 0, 0x00138000000000), (.c, 1, 0x00180000000000 + 0xA0), (.d, 1, 0x00180000000000 + 0xA0), (.c, 2, 0x002E00000000A0),
    (.d, 1, 0x002E00000000A0), (.d, 2, 0x001C0000000060), (.c, 1, 0x003280000000A0), (.c, 3, 0x00060000000000), (.d, 4, 0x00020000180000),
    (.d, 5, 0x00030000000000), (.c, 6, 0x00068000000000), (.d, 6, 0x00028000000000), (.c, 7, 0x000B8000000000), (.d, 7, 0x00010000000000),
    (.c, 0, 0x000080000D0000), (.c, 4, 0x00008000010000), (.c, 0, 0x00108000000000 + 1), (.c, 7, 0x00058000001010)] = true := by
  decide +kernel
/-- The header of the worked example of R41 to R43: the last bundle of its group, one test, SCYC 3; it may not stand first, and a test
above TCNT, a TCNT of 5, a broadcast register without BPE and the other profile are refused (R43, R44, R59). -/
theorem test_header :
    treeOf 0x000C000000001109 = { tests := [{ pred := 4, neg := false, bt := 1 }] } ∧ hdrOk .c true 0x000C000000001109 = true ∧
    hdrOk .c false 0x000C000000001109 = false ∧ hdrOk .c true (0x000C000000001109 + 0x8000) = false ∧ hdrOk .c true 0x29 = false ∧
    hdrOk .c true (1 + 2 ^ 43) = false ∧ hdrOk .c true (1 + 2 ^ 42 + 2 ^ 43) = true ∧ hdrOk .c true 3 = false ∧ hdrOk .d true 3 = true ∧
    hdrScyc 0x000C000000001109 = 3 := by decide +kernel
/-- Bundle A of the same example by its bytes in address order: slot S at byte 8 (R41). -/
theorem test_bundle_bytes :
    decodeTableWord 120 (natOfBytes [0, 0, 0, 0, 0, 0, 0x08, 0, 0, 0, 0, 4, 3, 0x0D, 0x20] + 1)
      = some (.mov { tag := .on0, neg := false, gp := 0 } (.r { d := 3, a := 1, b := 0, ty := .i8, cond := 0, pos := 0, len := 0 })) := by decide +kernel

/-! Well-formedness: for each instruction a term that its rule forbids. -/

theorem test_ill_formed_scalar : refusesAll [
    .add h0 (.r { d := 63, a := 17, b := 40, ty := .i8, cond := 0, pos := 0, len := 1 }),
    .mul h0 (.r { d := 61, a := 19, b := 38, ty := .i16, cond := 0, pos := 0, len := 1 }),
    .div h0 (.r { d := 59, a := 21, b := 36, ty := .i32, cond := 0, pos := 0, len := 1 }),
    .min h0 (.r { d := 57, a := 23, b := 34, ty := .i64, cond := 0, pos := 0, len := 1 }),
    .and h0 (.r { d := 55, a := 25, b := 32, ty := .n8, cond := 0, pos := 0, len := 1 }),
    .xor h0 (.r { d := 53, a := 27, b := 30, ty := .n16, cond := 0, pos := 0, len := 1 }),
    .shl h0 (.r { d := 51, a := 29, b := 28, ty := .n32, cond := 0, pos := 0, len := 1 }),
    .sar h0 (.r { d := 49, a := 31, b := 26, ty := .n64, cond := 0, pos := 0, len := 1 }),
    .sub h0 (.i { d := 1, a := 62, ty := .f32, cond := 0, imm := 131072 }),
    .mulh h0 (.i { d := 3, a := 60, ty := .f32, cond := 0, imm := 262143 }),
    .mod h0 (.i { d := 5, a := 58, ty := .f32, cond := 0, imm := 131071 }),
    .max h0 (.i { d := 7, a := 56, ty := .f32, cond := 0, imm := 341 }),
    .or h0 (.i { d := 9, a := 54, ty := .f32, cond := 0, imm := 131072 }),
    .andn h0 (.i { d := 11, a := 52, ty := .f32, cond := 0, imm := 262143 }),
    .shr h0 (.i { d := 13, a := 50, ty := .f32, cond := 0, imm := 131071 }),
    .rol h0 (.i { d := 15, a := 48, ty := .f32, cond := 0, imm := 341 }),
    .add h0 (.r { d := 63, a := 17, b := 40, ty := .i8, cond := 1, pos := 0, len := 0 }),
    .mov h0 (.r { d := 3, a := 1, b := 0, ty := .i8, cond := 0, pos := 1, len := 0 }),
    .bfx h0 { d := 9, a := 33, b := 0, ty := .n64, cond := 0, pos := 41, len := 23 },
    .bfx h0 { d := 9, a := 33, b := 1, ty := .n64, cond := 0, pos := 40, len := 23 },
    .bfi h0 { d := 9, a := 33, b := 62, ty := .i32, cond := 0, pos := 6, len := 26 },
    .popc h0 { d := 1, a := 2, b := 1, ty := .n8, cond := 0, pos := 0, len := 0 },
    .clz h0 { d := 2, a := 3, b := 1, ty := .i16, cond := 0, pos := 0, len := 0 },
    .ctz h0 { d := 3, a := 4, b := 1, ty := .n64, cond := 0, pos := 0, len := 0 },
    .brev h0 { d := 4, a := 5, b := 1, ty := .i64, cond := 0, pos := 0, len := 0 },
    .cmp h0 (.r { d := 32, a := 6, b := 7, ty := .n32, cond := 5, pos := 0, len := 0 }),
    .cmp h0 (.i { d := 30, a := 6, ty := .i32, cond := 6, imm := 262141 }),
    .test h0 (.i { d := 29, a := 8, ty := .n16, cond := 2, imm := 77 }),
    .sel h0 { d := 50, a := 51, b := 52, ty := .i64, cond := 0, pos := 32, len := 0 },
    .mov h0 (.i { d := 20, a := 1, ty := .i64, cond := 0, imm := 262137 }),
    .getid h0 { d := 11, a := 0, ty := .i8, cond := 0, imm := 17 },
    .setmode h0 (.i { d := 12, a := 0, ty := .i8, cond := 0, imm := 32 }),
    .setmode h0 (.i { d := 12, a := 0, ty := .i8, cond := 0, imm := 8192 }),
    .setmode h0 (.r { d := 12, a := 13, b := 14, ty := .i8, cond := 1, pos := 0, len := 0 }),
    .rdfl h0 { d := 15, a := 0, b := 0, ty := .i8, cond := 0, pos := 32, len := 0 },
    .rdfl h0 { d := 15, a := 0, b := 0, ty := .i8, cond := 0, pos := 31, len := 1 },
    .loop h0 { i := true, a := 0, cnt := 65535, off := 32768 },
    .loop h0 { i := true, a := 1, cnt := 65535, off := 32767 },
    .loop h0 { i := false, a := 44, cnt := 1, off := 3 },
    .ret h0 { bt := 4, a := 1 }] = true := by decide +kernel
theorem test_ill_formed_vector : refusesAll [
    .vadd h0 { d := 127, a := 128, b := 1, c := 1, ty := .i8, md := 0, bsel := false },
    .vsub h0 { d := 126, a := 129, b := 4, c := 1, ty := .f16, md := 1, bsel := false },
    .vmul h0 { d := 125, a := 130, b := 7, c := 1, ty := .f32, md := 2, bsel := false },
    .vadd h0 { d := 127, a := 128, b := 1, c := 0, ty := .i64, md := 0, bsel := false },
    .vmul h0 { d := 125, a := 130, b := 7, c := 0, ty := .f32, md := 6, bsel := false },
    .vfma h0 { d := 123, a := 132, b := 13, c := 200, ty := .n32, md := 1, bsel := false },
    .vmulh h0 { d := 124, a := 131, b := 10, c := 0, ty := .f16, md := 0, bsel := false },
    .vadds h0 { d := 118, a := 137, b := 28, c := 0, ty := .f32, md := 0, bsel := false },
    .vsubs h0 { d := 117, a := 138, b := 31, c := 0, ty := .i64, md := 0, bsel := false },
    .vmin h0 { d := 122, a := 133, b := 16, c := 0, ty := .f32, md := 1, bsel := false },
    .vmax h0 { d := 121, a := 134, b := 19, c := 0, ty := .e4m3, md := 0, bsel := false },
    .vabs h0 { d := 120, a := 135, b := 0, c := 0, ty := .n8, md := 0, bsel := false },
    .vneg h0 { d := 119, a := 136, b := 1, c := 0, ty := .f16, md := 0, bsel := false },
    .vdiv h0 { d := 116, a := 139, b := 34, c := 0, ty := .i32, md := 5, bsel := false },
    .vldexp h0 { d := 113, a := 142, b := 43, c := 0, ty := .n32, md := 2, bsel := false },
    .vrint h0 { d := 115, a := 140, b := 1, c := 0, ty := .bf16, md := 0, bsel := false },
    .vfract h0 { d := 114, a := 141, b := 0, c := 1, ty := .f16, md := 1, bsel := false },
    .vand h0 { d := 0, a := 255, b := 100, c := 0, ty := .i16, md := 0, bsel := false },
    .vor h0 { d := 1, a := 254, b := 0, c := 0, ty := .i16, md := 0, bsel := true },
    .vxor h0 { d := 2, a := 253, b := 102, c := 0, ty := .i16, md := 0, bsel := false },
    .vandn h0 { d := 3, a := 252, b := 103, c := 0, ty := .i16, md := 0, bsel := false },
    .vnot h0 { d := 4, a := 251, b := 0, c := 0, ty := .i16, md := 0, bsel := false },
    .vor h0 { d := 1, a := 254, b := 1, c := 0, ty := .i8, md := 0, bsel := true },
    .vshl h0 { d := 5, a := 250, b := 105, c := 0, ty := .f32, md := 0, bsel := false },
    .vshr h0 { d := 6, a := 249, b := 106, c := 0, ty := .f32, md := 0, bsel := false },
    .vsar h0 { d := 7, a := 248, b := 107, c := 0, ty := .f32, md := 0, bsel := false },
    .vrol h0 { d := 8, a := 247, b := 108, c := 0, ty := .f32, md := 0, bsel := false },
    .vbfx h0 { d := 9, a := 246, b := 109, c := 77, ty := .i8, md := 0, bsel := false },
    .vbfi h0 { d := 10, a := 245, b := 110, c := 77, ty := .i8, md := 1, bsel := false },
    .vpopc h0 { d := 11, a := 244, b := 1, c := 0, ty := .n8, md := 0, bsel := false },
    .vclz h0 { d := 12, a := 243, b := 1, c := 0, ty := .i8, md := 0, bsel := false },
    .vbrev h0 { d := 13, a := 242, b := 1, c := 0, ty := .n16, md := 0, bsel := false },
    .vsel h0 { d := 14, a := 241, b := 114, c := 32, ty := .i8, md := 0, bsel := false },
    .vmov h0 { d := 15, a := 1, b := 0, c := 0, ty := .i8, md := 0, bsel := true },
    .vcmp h0 { d := 32, a := 1, b := 130, c := 0, ty := .f32, md := 7, bsel := false },
    .vcmp h0 { d := 31, a := 1, b := 130, c := 0, ty := .n32, md := 6, bsel := false },
    .vclass h0 { d := 29, a := 3, b := 0, c := 255, ty := .f16, md := 0, bsel := false },
    .vtest h0 { d := 28, a := 4, b := 5, c := 0, ty := .i8, md := 2, bsel := false },
    .vsad h0 { d := 27, a := 6, b := 7, c := 8, ty := .i32, md := 0, bsel := false },
    .vmulw h0 { d := 127, a := 9, b := 10, c := 0, ty := .i32, md := 0, bsel := false },
    .vmadw h0 { d := 124, a := 11, b := 12, c := 15, ty := .n16, md := 0, bsel := false },
    .vcvt h0 { d := 20, a := 21, b := 0, c := 19, ty := .i32, md := 2, bsel := false },
    .vcvt h0 { d := 20, a := 21, b := 0, c := 56, ty := .i32, md := 2, bsel := false },
    .vpack h0 { d := 22, a := 23, b := 24, c := 2, ty := .e4m3, md := 1, bsel := false },
    .vunpk h0 { d := 25, a := 26, b := 0, c := 4, ty := .n8, md := 0, bsel := false },
    .vbyte h0 { d := 27, a := 28, b := 29, c := 30, ty := .i32, md := 0, bsel := false },
    .vrcp h0 { d := 60, a := 70, b := 0, c := 0, ty := .bf16, md := 0, bsel := false },
    .vrsq h0 { d := 61, a := 71, b := 0, c := 0, ty := .bf16, md := 1, bsel := false },
    .vsqrt h0 { d := 62, a := 72, b := 0, c := 0, ty := .bf16, md := 2, bsel := false },
    .vexp2 h0 { d := 63, a := 73, b := 0, c := 0, ty := .bf16, md := 3, bsel := false },
    .vlog2 h0 { d := 64, a := 74, b := 0, c := 0, ty := .bf16, md := 4, bsel := false },
    .vsin h0 { d := 65, a := 75, b := 0, c := 0, ty := .bf16, md := 5, bsel := false },
    .vcos h0 { d := 66, a := 76, b := 0, c := 0, ty := .bf16, md := 0, bsel := false },
    .vtanh h0 { d := 67, a := 77, b := 0, c := 0, ty := .bf16, md := 1, bsel := false },
    .vclmul h0 { d := 1, a := 2, b := 3, c := 0, ty := .i32, md := 0, bsel := false },
    .vclmulh h0 { d := 4, a := 5, b := 6, c := 1, ty := .n32, md := 0, bsel := false },
    .vrbox h0 { d := 126, a := 125, b := 125, c := 122, ty := .f32, md := 0, bsel := false },
    .vrbox h0 { d := 126, a := 124, b := 125, c := 123, ty := .f32, md := 0, bsel := false },
    .vrtri h0 { d := 125, a := 0, b := 10, c := 119, ty := .f32, md := 0, bsel := false },
    .vdp4 h0 { d := 31, a := 32, b := 33, c := 34, ty := .i16, md := 4, bsel := false },
    .vdp2 h0 { d := 35, a := 36, b := 37, c := 38, ty := .e4m3, md := 5, bsel := false },
    .pand h0 { d := 1, a := 2, b := 32, c := 0, ty := .i8, md := 0, bsel := false },
    .por h0 { d := 4, a := 5, b := 32, c := 0, ty := .i8, md := 0, bsel := false },
    .pxor h0 { d := 7, a := 8, b := 32, c := 0, ty := .i8, md := 0, bsel := false },
    .pandn h0 { d := 10, a := 11, b := 32, c := 0, ty := .i8, md := 0, bsel := false },
    .pnot h0 { d := 13, a := 14, b := 1, c := 0, ty := .i8, md := 0, bsel := false },
    .pmov h0 { d := 15, a := 32, b := 0, c := 0, ty := .i8, md := 0, bsel := false },
    .pset h0 { d := 17, a := 0, b := 0, c := 2, ty := .i8, md := 0, bsel := false },
    .pset h0 { d := 32, a := 0, b := 0, c := 1, ty := .i8, md := 0, bsel := false },
    .vperm h0 { d := 40, a := 41, b := 42, c := 1, ty := .i8, md := 0, bsel := false },
    .vrot h0 { d := 43, a := 44, b := 0, c := 32, ty := .i8, md := 0, bsel := false },
    .vshuf h0 { d := 45, a := 46, b := 0, c := 32, ty := .i8, md := 0, bsel := false },
    .vbcast h0 { d := 47, a := 48, b := 0, c := 32, ty := .i8, md := 0, bsel := false },
    .vlane h0 { d := 63, a := 54, b := 0, c := 32, ty := .i8, md := 0, bsel := false },
    .vmatch h0 { d := 5, a := 4, b := 1, c := 0, ty := .i8, md := 0, bsel := false },
    .vballot h0 { d := 49, a := 32, b := 0, c := 0, ty := .i8, md := 0, bsel := false },
    .vscan h0 { d := 50, a := 51, b := 0, c := 6, ty := .i32, md := 0, bsel := false },
    .vscan h0 { d := 50, a := 51, b := 0, c := 16, ty := .i32, md := 0, bsel := false },
    .vred h0 { d := 52, a := 53, b := 0, c := 3, ty := .f32, md := 3, bsel := false },
    .vred h0 { d := 52, a := 53, b := 0, c := 8, ty := .f32, md := 3, bsel := false },
    .vlane h0 { d := 64, a := 54, b := 0, c := 31, ty := .i8, md := 0, bsel := false },
    .vfirst h0 { d := 64, a := 29, b := 0, c := 0, ty := .i8, md := 0, bsel := false },
    .vcompact h0 { d := 55, a := 184, b := 32, c := 0, ty := .i8, md := 0, bsel := false },
    .mamax h0 { d := 56, a := 57, b := 0, c := 142, ty := .f32, md := 0, bsel := false },
    .mamax h0 { d := 56, a := 57, b := 0, c := 1, ty := .f32, md := 0, bsel := false },
    .mcvt h0 { d := 7, a := 8, b := 9, c := 30, ty := .f32, md := 5, bsel := false },
    .mcvt h0 { d := 7, a := 8, b := 9, c := 14, ty := .f32, md := 6, bsel := false },
    .vqrot h0 { d := 125, a := 125, b := 1, c := 124, ty := .f32, md := 0, bsel := false },
    .vproj h0 { d := 127, a := 0, b := 0, c := 4, ty := .f32, md := 0, bsel := false },
    .vwarp h0 { d := 10, a := 12, b := 0, c := 120, ty := .f32, md := 0, bsel := false },
    .vextr h0 { d := 20, a := 127, b := 24, c := 25, ty := .f32, md := 0, bsel := false },
    .vblend h0 { d := 124, a := 0, b := 125, c := 8, ty := .f32, md := 0, bsel := false },
    .vdisoc h0 { d := 32, a := 1, b := 2, c := 3, ty := .f32, md := 0, bsel := false },
    .vpxpk h0 { d := 30, a := 124, b := 0, c := 2, ty := .i8, md := 0, bsel := false },
    .vpxup h0 { d := 125, a := 5, b := 0, c := 0, ty := .i8, md := 0, bsel := false }] = true := by decide +kernel
theorem test_ill_formed_waits_and_display : refusesAll [
    .meet h0 { d := 0, a := 0, b := 0, imm := 262144 },
    .meetSave h0 { d := 125, a := 0, b := 0, imm := 262144 },
    .meetRest h0 { d := 124, a := 0, b := 0, imm := 524289 },
    .meetClr h0 { d := 1, a := 0, b := 0, imm := 786432 },
    .yield h0 { d := 0, a := 0, b := 0, imm := 1 },
    .bar h0 { d := 0, a := 0, b := 0, imm := 1 },
    .vote h0 { d := 30, a := 29, b := 0, imm := 3 },
    .vote h0 { d := 32, a := 29, b := 0, imm := 2 },
    .sleep h0 { d := 1, a := 0, b := 0, imm := 12345 },
    .rdclk h0 { d := 63, a := 0, b := 0, imm := 2 },
    .rdclk h0 { d := 64, a := 0, b := 0, imm := 1 },
    .fence h0 { kind := 3, scope := 6, cmask := 32769 },
    .fence h0 { kind := 2, scope := 7, cmask := 32769 },
    .wait h0 { d := 32, a := 0, b := 0, imm := 1048575 },
    .trap h0 { d := 0, a := 63, b := 0, imm := 131072 },
    .sysc h0 { d := 0, a := 5, b := 1, imm := 66 },
    .bkpt h0 { d := 0, a := 0, b := 0, imm := 65536 },
    .rdsr h0 { s := 50, srn := 21 },
    .wrsr h0 { s := 51, srn := 4095 },
    .fork h0 { d := 0, a := 1, b := 2, imm := 1 },
    .join h0 { d := 1, a := 3, b := 4, imm := 0 },
    .barc h0 { d := 0, a := 1, b := 0, imm := 0 },
    .barcClose h0 { d := 0, a := 0, b := 0, imm := 2 },
    .emit h0 { d := 0, a := 5, b := 6, imm := 1 },
    .emitRetest h0 { d := 0, a := 7, b := 8, imm := 0 },
    .emitClose h0 { d := 0, a := 1, b := 9, imm := 2 },
    .xcfg h0 { d := 0, a := 0, s := 63, md := 1 },
    .xwld h0 { d := 0, a := 0, s := 62, md := 4 },
    .xmma h0 { d := 0, a := 0, s := 61, md := 128 },
    .xact h0 { d := 0, a := 0, s := 60, md := 259 },
    .xact h0 { d := 0, a := 0, s := 60, md := 3 },
    .xdrain h0 { d := 0, a := 0, s := 59, md := 1 },
    .xzero h0 { d := 0, a := 0, s := 1, md := 124 },
    .ffet h0 { d := 125, a := 126, b := 1, frm := 63, md := 1 },
    .ffetd h0 { d := 127, a := 2, b := 1, frm := 5, md := 0 },
    .ffetm h0 { d := 6, a := 7, b := 0, frm := 8, md := 1 },
    .fnear h0 { d := 9, a := 10, b := 139, frm := 12, md := 2 },
    .hemit h0 { d := 90, a := 1, b := 0, imm := 32 },
    .hfill h0 { d := 1, a := 2, b := 3, imm := 30 },
    .pget h0 { d := 57, a := 20, b := 0, imm := 2 },
    .dqpop h0 { d := 0, a := 5, b := 1, imm := 29 },
    .dqdone h0 { d := 0, a := 1, b := 0, imm := 0 },
    .atlset h0 { d := 0, a := 6, b := 7, imm := 1 },
    .lbar h0 { d := 0, a := 0, b := 0, imm := 1 },
    .lwait h0 { d := 1, a := 8, b := 0, imm := 0 },
    .rdbeam h0 { d := 63, a := 9, b := 0, imm := 3 },
    .rdbeam h0 { d := 63, a := 9, b := 0, imm := 0 }] = true := by decide +kernel
theorem test_ill_formed_memory : refusesAll [
    .mon h0 { cls := 4, d := 1, base := 9, ty := .i8, addr := .off 65472 },
    .mon h0 { cls := 4, d := 0, base := 9, ty := .i16, addr := .off 65472 },
    .ld h0 { cls := 15, d := 127, base := 63, ty := .n64, addr := .off 32768 },
    .ld h0 { cls := 1, d := 3, base := 4, ty := .i64, addr := .idx true 100 3 },
    .ldu h0 { cls := 2, d := 64, base := 5, ty := .i64, addr := .off 65528 },
    .lds h0 { cls := 0, d := 7, base := 6, ty := .n64, addr := .idx false 5 1 },
    .ldMark h0 { cls := 1, d := 11, base := 4, ty := .i64, addr := .off 128 },
    .ldp h0 { cls := 3, d := 9, base := 7, ty := .n64, addr := .off 63492 },
    .ldp h0 { cls := 0, d := 1, base := 0, ty := .n32, addr := .idx false 1 0 },
    .ldu h0 { cls := 0, d := 1, base := 0, ty := .n32, addr := .idx false 1 0 },
    .st h0 { cls := 6, d := 21, base := 21, ty := .n64, addr := .idx false 22 0 },
    .stu h0 { cls := 7, d := 64, base := 24, ty := .n32, addr := .off 4 },
    .sts h0 { cls := 8, d := 25, base := 26, ty := .i64, addr := .off 2 },
    .atom h0 { cls := 4, d := 12, base := 8, ty := .n32, scope := 6, aop := 10, lu := true, idx := 101 },
    .atom h0 { cls := 4, d := 12, base := 8, ty := .n32, scope := 7, aop := 7, lu := true, idx := 101 },
    .atom h0 { cls := 4, d := 12, base := 8, ty := .i16, scope := 6, aop := 7, lu := true, idx := 101 },
    .atom h0 { cls := 4, d := 2, base := 8, ty := .n64, scope := 6, aop := 7, lu := true, idx := 101 },
    .satom h0 { cls := 5, d := 14, base := 9, ty := .n64, scope := 3, aop := 9, lu := false, idx := 102 },
    .red h0 { cls := 9, d := 27, base := 28, ty := .i32, scope := 5, aop := 6, lu := false, idx := 29 },
    .sred h0 { cls := 10, d := 30, base := 31, ty := .f32, scope := 1, aop := 3, lu := false, idx := 32 },
    .cst4 h0 { cls := 11, d := 125, base := 33, p := 17, nl := 3, off := 32640 },
    .qpop h0 { v := 99, lu := true, q := 7 },
    .tex h0 { d := 124, a := 248, res := 10, smp := 11, md := 1 },
    .tex h0 { d := 122, a := 248, res := 10, smp := 11, md := 4 },
    .tex h0 { d := 122, a := 123, res := 10, smp := 11, md := 1 },
    .tld h0 { d := 3, a := 4, res := 12, smp := 1, md := 2 },
    .tld h0 { d := 3, a := 4, res := 12, smp := 0, md := 1 },
    .vatom h0 { d := 37, a := 37, res := 38, smp := 0, md := 3 }] = true := by decide +kernel
theorem test_ill_formed_commands : refusesAll [
    .dlaunch h0 { tn := 0, td := 3, t1 := 0, t2 := 0, t3 := 0, a := 63, md := 64 },
    .dlaunch h0 { tn := 0, td := 3, t1 := 0, t2 := 0, t3 := 0, a := 63, md := 1 },
    .enq h0 { tn := 0, td := 5, t1 := 0, t2 := 0, t3 := 0, a := 62, md := 1 },
    .mapsync h0 { tn := 0, td := 6, t1 := 0, t2 := 0, t3 := 0, a := 60, md := 1 },
    .present h0 { tn := 0, td := 7, t1 := 0, t2 := 0, t3 := 0, a := 63, md := 0 },
    .copy h0 { tn := 1, td := 8, t1 := 6, t2 := 0, t3 := 0, a := 20, md := 3 },
    .copy h0 { tn := 1, td := 8, t1 := 6, t2 := 0, t3 := 0, a := 20, md := 32 },
    .copy h0 { tn := 1, td := 8, t1 := 6, t2 := 1, t3 := 0, a := 20, md := 9 },
    .copy h0 { tn := 1, td := 8, t1 := 6, t2 := 0, t3 := 0, a := 62, md := 9 },
    .gather h0 { tn := 0, td := 9, t1 := 0, t2 := 0, t3 := 0, a := 21, md := 1 },
    .scatter h0 { tn := 0, td := 10, t1 := 0, t2 := 0, t3 := 0, a := 61, md := 4 },
    .pref h0 { tn := 0, td := 11, t1 := 0, t2 := 0, t3 := 0, a := 23, md := 3 },
    .fill h0 { tn := 0, td := 12, t1 := 0, t2 := 0, t3 := 0, a := 24, md := 1 },
    .cflush h0 { tn := 0, td := 13, t1 := 0, t2 := 0, t3 := 0, a := 25, md := 1 },
    .cinv h0 { tn := 0, td := 14, t1 := 0, t2 := 0, t3 := 0, a := 63, md := 0 },
    .send h0 { tn := 2, td := 15, t1 := 16, t2 := 17, t3 := 0, a := 27, md := 8 },
    .send h0 { tn := 2, td := 15, t1 := 16, t2 := 17, t3 := 1, a := 27, md := 7 },
    .recv h0 { tn := 0, td := 18, t1 := 0, t2 := 0, t3 := 0, a := 63, md := 8 },
    .xmit h0 { tn := 0, td := 19, t1 := 0, t2 := 0, t3 := 0, a := 28, md := 1 },
    .isel h0 { tn := 0, td := 20, t1 := 0, t2 := 0, t3 := 0, a := 63, md := 0 },
    .coll h0 { tn := 0, td := 21, t1 := 0, t2 := 0, t3 := 0, a := 30, md := 7 },
    .coll h0 { tn := 0, td := 21, t1 := 0, t2 := 0, t3 := 0, a := 30, md := 96 },
    .coll h0 { tn := 0, td := 21, t1 := 0, t2 := 0, t3 := 0, a := 30, md := 19 },
    .mcfg h0 { tn := 3, td := 63, t1 := 1, t2 := 2, t3 := 3, a := 63, md := 1 },
    .mcfgQ h0 { tn := 0, td := 4, t1 := 0, t2 := 0, t3 := 0, a := 0, md := 2 },
    .mshelf h0 { tn := 0, td := 5, t1 := 0, t2 := 0, t3 := 0, a := 61, md := 2 },
    .mloop h0 { tn := 0, td := 6, t1 := 0, t2 := 0, t3 := 0, a := 61, md := 1 },
    .mstep h0 { tn := 0, td := 7, t1 := 0, t2 := 0, t3 := 0, a := 59, md := 2 },
    .mzero h0 { tn := 0, td := 8, t1 := 0, t2 := 0, t3 := 0, a := 58, md := 1 },
    .mrot h0 { tn := 0, td := 9, t1 := 0, t2 := 0, t3 := 0, a := 57, md := 3 },
    .mdrain h0 { tn := 0, td := 10, t1 := 0, t2 := 0, t3 := 0, a := 56, md := 5 },
    .mdrain h0 { tn := 0, td := 10, t1 := 0, t2 := 0, t3 := 0, a := 56, md := 94 },
    .mscale h0 { tn := 0, td := 11, t1 := 0, t2 := 0, t3 := 0, a := 55, md := 1 },
    .mhistClear h0 { tn := 0, td := 12, t1 := 0, t2 := 0, t3 := 0, a := 54, md := 1 },
    .mget h0 { tn := 0, td := 13, t1 := 0, t2 := 0, t3 := 0, a := 53, md := 2 },
    .mput h0 { tn := 0, td := 14, t1 := 0, t2 := 0, t3 := 0, a := 63, md := 0 }] = true := by decide +kernel

/-! One operation each, on a small state. -/

/-- R71, R73 at the edge of i8: 127 + 1 wraps to −128, extended by its sign; unsigned it is 128. -/
theorem test_add_wraps :
    leaves (.add h0 (.i { d := 3, a := 1, ty := .i8, cond := 0, imm := 1 })) (waveState (wave0.withS 1 127)) = some [.s 3 (-128) 0] ∧
    leaves (.add h0 (.i { d := 3, a := 1, ty := .n8, cond := 0, imm := 1 })) (waveState (wave0.withS 1 127)) = some [.s 3 128 0] := by
  decide +kernel
/-- R74: division by zero, and the least number by −1. -/
theorem test_div_corners :
    leaves (.div h0 (.i { d := 3, a := 1, ty := .n16, cond := 0, imm := 0 })) (waveState (wave0.withS 1 7)) = some [.s 3 0xFFFF 0] ∧
    leaves (.div h0 (.i { d := 3, a := 1, ty := .i32, cond := 0, imm := -1 })) (waveState (wave0.withS 1 0x80000000))
      = some [.s 3 0xFFFFFFFF80000000 0] := by decide +kernel
/-- movw.hi keeps the low half (worked example of chapter 03, g2). -/
theorem test_movw_hi :
    leaves (.movwHi h0 { d := 1, imm := 0x01234567 }) (waveState (wave0.withS 1 0x89ABCDEF)) = some [.s 1 0x0123456789ABCDEF 0] := by
  decide +kernel
/-- Four bits from bit 0, and the shift by four (same example, g6 and g8). -/
theorem test_bfx_shr :
    leaves (.bfx h0 { d := 3, a := 1, b := 0, ty := .n64, cond := 0, pos := 0, len := 3 }) (waveState (wave0.withS 1 0x0123456789ABCDEF))
      = some [.s 3 15 0] ∧
    leaves (.shr h0 (.i { d := 1, a := 1, ty := .n64, cond := 0, imm := 4 })) (waveState (wave0.withS 1 0x0123456789ABCDEF))
      = some [.s 1 0x00123456789ABCDE 0] := by decide +kernel
/-- pbr at K + 128 with OFF35 8: K + 640, DEPTH 3 (same example, g3; K = 0). -/
theorem test_pbr :
    leaves (.pbr h0 { bt := 2, off := 8 }) { idleState wave0 with flight := some { flightOf wave0 with pc := 128 } } = some [.b 2 643] := by
  decide +kernel
/-- loop at K + 256: start K + 320, end K + 448, count 4 (same example, g5). -/
theorem test_loop :
    (flightAfter (.loop h0 { i := true, a := 0, cnt := 4, off := 2 })
      { idleState wave0 with flight := some { flightOf wave0 with pc := 256 } }).map (fun f => f.ctl)
      = some (.loop (BitVec.allOnes 32) 320 448 4) := by decide +kernel
/-- call at K + 512: s60 := K + 576 and the target of b2 (same example, g9). -/
theorem test_call :
    (flightAfter (.call h0 { bt := 2, a := 60 }) { idleState (wave0.withB 2 643) with flight := some { flightOf wave0 with pc := 512 } }).map
      (fun f => (f.ctl, f.writes.map fun x => x.w)) = some (.call (BitVec.allOnes 32) 640 2, [.s 60 576 0]) := by decide +kernel
/-- A wave in a loop, at the end of its body. -/
def loopWave : Wave :=
  { wave0 with threads := Vector.replicate 32 { wave0.threads.get 0 with pc := 448 },
               r := { wave0.r with loops := [{ start := 320, stop := 448, count := 4 }] } }
/-- The end of a loop body, count 4: back to the start with count 3 (same example, g8; R36). -/
theorem test_loop_back :
    ((after (.br { tests := [] }) { idleState loopWave with flight := some { flightOf loopWave with pc := 448 } }).bind fun t => t.wave? 2).map
      (fun v => ((v.threads.get 0).pc, v.r.loops.map fun e => e.count)) = some (320, [3]) := by decide +kernel
/-- A guarded operation runs in the lanes of its predicate, a negated one in the others (R25). -/
theorem test_guard :
    leaves (.vmov { tag := .always, neg := true, gp := 5 } { d := 1, a := 0, b := 4, c := 0, ty := .i8, md := 0, bsel := false })
      (waveState ((wave0.withP 5 0x0000FFFF).withV 4 fun _ => 7)) = some [.v 1 0xFFFF0000 (Line.fill 7) 0] := by decide +kernel

/-- The lanes of the worked example of chapter 06: lanes 0 to 19 hold 7, 20 to 27 hold 2, 28 to 31 hold 9. -/
def lanesOf (a b c : Word) (i : Nat) : Word := if i < 20 then a else if i < 28 then b else c
def matchWave : Wave := (wave0.withV 4 (lanesOf 7 2 9)).withP 1 0x0FFFFFFF
def matchFields : VFmt := { d := 5, a := 4, b := 0, c := 0, ty := .i8, md := 0, bsel := false }
/-- vmatch (same example, g1), and with lanes 28 to 31 not running. -/
theorem test_vmatch :
    leaves (.vmatch h0 matchFields) (waveState matchWave) = some [vecWrite 5 (lanesOf 0x000FFFFF 0x0FF00000 0xF0000000)] ∧
    (leaves (.vmatch { h0 with gp := 1 } matchFields) (waveState matchWave)).map (fun l => l.map fun x => match x with
      | .v _ m x _ => (m, x.get 0, x.get 20) | _ => (0, 0, 0)) = some [(0x0FFFFFFF, 0x000FFFFF, 0x0FF00000)] := by decide +kernel
def countFields : VFmt := { d := 6, a := 5, b := 0, c := 0, ty := .n32, md := 0, bsel := false }
/-- vpopc and vclz after vbrev (same example, g2 to g4). -/
theorem test_counts :
    leaves (.vpopc h0 countFields) (waveState (wave0.withV 5 (lanesOf 0x000FFFFF 0x0FF00000 0xF0000000))) = some [vecWrite 6 (lanesOf 20 8 4)] ∧
    leaves (.vbrev h0 countFields) (waveState (wave0.withV 5 (lanesOf 0x000FFFFF 0x0FF00000 0xF0000000)))
      = some [vecWrite 6 (lanesOf 0xFFFFF000 0x00000FF0 0x0000000F)] ∧
    leaves (.vclz h0 countFields) (waveState (wave0.withV 5 (lanesOf 0xFFFFF000 0x00000FF0 0x0000000F))) = some [vecWrite 6 (lanesOf 0 20 28)] := by
  decide +kernel
/-- vcmp.eq against the lane numbers, vballot and vlane (same example, g5 to g7). -/
theorem test_leaders :
    leaves (.vcmp h0 { d := 2, a := 7, b := 0, c := 0, ty := .n32, md := 0, bsel := false }) (waveState (wave0.withV 7 (lanesOf 0 20 28)))
      = some [.p 2 (BitVec.allOnes 32) 0x10100001] ∧
    leaves (.vballot h0 { d := 8, a := 2, b := 0, c := 0, ty := .i8, md := 0, bsel := false }) (waveState (wave0.withP 2 0x10100001))
      = some [vecWrite 8 fun _ => 0x10100001] ∧
    leaves (.vlane h0 { d := 9, a := 8, b := 0, c := 0, ty := .i8, md := 0, bsel := false }) (waveState (wave0.withV 8 fun _ => 0x10100001))
      = some [.s 9 0x10100001 0] := by decide +kernel
def stochWave : Wave :=
  (wave0.withV 4 fun i => if i = 0 then 0x3F804000 else if i = 1 then 0x40400000 else 0xBF80C000).withP 1 0b1011
def stochAfter : Option Flight :=
  flightAfter (.vcvt { h0 with gp := 1 } { d := 5, a := 4, b := 0, c := 0x0A, ty := .bf16, md := 5, bsel := false })
    { idleState stochWave with flight := some { flightOf stochWave with stoch := { x := 1, y := 2, z := 3, w := 0xFFFF0000 } } }
/-- A vcvt from f32 to bf16 under .rst in lanes 0, 1 and 3 (worked example of chapter 05): results, draws and NX. -/
theorem test_stochastic :
    stochAfter.map (fun f => f.stoch) = some { x := 0xFFFF0000, y := 0xFFFF17F6, z := 0xFFFF181B, w := 0xFFFF1FFF } ∧
    stochAfter.map (fun f => f.raised) = some 0b10000 ∧
    stochAfter.map (fun f => f.writes.map fun x => match x.w with
      | .v d m x _ => [d.toNat, m.toNat, (x.get 0).toNat, (x.get 1).toNat, (x.get 3).toNat] | _ => [])
      = some [[5, 0b1011, 0x3F80, 0x4040, 0xBF80]] := by decide +kernel
/-- Saturation at the edge of n8, and the wrap of i16 (R161). -/
theorem test_vadds_vmul :
    leaves (.vadds h0 { d := 1, a := 2, b := 3, c := 0, ty := .n8, md := 0, bsel := false })
      (waveState ((wave0.withV 2 fun _ => 0xFF80FE01).withV 3 fun _ => 0x01800101)) = some [vecWrite 1 fun _ => 0xFFFFFF02] ∧
    leaves (.vmul h0 { d := 1, a := 2, b := 3, c := 0, ty := .i16, md := 0, bsel := false })
      (waveState ((wave0.withV 2 fun _ => 0x80007FFF).withV 3 fun _ => 0x00020002)) = some [vecWrite 1 fun _ => 0x0000FFFE] := by decide +kernel
/-- f32: 1 + 2^−24 is a tie and goes to even with NX; 1 / 0 is infinity with DZ (R140, R141, R164). -/
theorem test_float_add_div :
    (flightAfter (.vadd h0 { d := 1, a := 2, b := 3, c := 0, ty := .f32, md := 1, bsel := false })
      (waveState ((wave0.withV 2 fun _ => 0x3F800000).withV 3 fun _ => 0x33800000))).map (fun f => (f.raised, f.writes.map fun x => x.w))
      = some (0b10000, [vecWrite 1 fun _ => 0x3F800000]) ∧
    (flightAfter (.vdiv h0 { d := 1, a := 2, b := 3, c := 0, ty := .f32, md := 1, bsel := false })
      (waveState ((wave0.withV 2 fun _ => 0x3F800000).withV 3 fun _ => 0))).map (fun f => (f.raised, f.writes.map fun x => x.w))
      = some (0b00010, [vecWrite 1 fun _ => 0x7F800000]) := by decide +kernel

/-- The group's scratchpad of one bank with a few bytes. -/
def scratchState (w : Wave) (st : Store) : State :=
  { waveState w with groups := [{ soloGroup 1 0 with sbanks := [3], scratch := st }] }
/-- lds reads little-endian and extends by sign; sts of lanes at one address leaves the highest lane's (R3, R265, R268, R272). -/
theorem test_scratchpad :
    leaves (.lds h0 { cls := 0, d := 1, base := 4, ty := .i16, addr := .idx false 9 0 })
      (scratchState wave0 (Store.empty.write 0 (cleanBytes 2 0x8001))) = some [vecWrite 1 fun _ => 0xFFFF8001] ∧
    ((after (.sts h0 { cls := 0, d := 0, base := 4, ty := .n16, addr := .idx false 9 0 }) (scratchState wave0 Store.empty)).bind
      fun t => t.group? 1).map (fun g => g.scratch.read 0 3) = some [clean 31, clean 0, clean 0] := by decide +kernel
/-- satom add returns the old value and stores the sum (R277); one running lane. -/
theorem test_satom :
    (after (.satom { h0 with gp := 1 } { cls := 0, d := 2, base := 4, ty := .n32, scope := 1, aop := 0, lu := false, idx := 9 })
      (scratchState ((wave0.withP 1 1).withV 2 fun _ => 5) (Store.empty.write 0 (cleanBytes 4 0xFFFFFFFE)))).map
      (fun t => ((t.group? 1).map fun g => g.scratch.read 0 4, t.flight.map fun f => f.writes.map fun x => match x.w with
        | .v d m x _ => (d, m, x.get 0) | _ => (0, 0, 0)))
      = some (some (cleanBytes 4 3), some [(2, 1, 0xFFFFFFFE)]) := by decide +kernel
def storeState : State :=
  { waveState ((wave0.withS 4 0x1000).withS 5 0x8899AABB) with
    flight := some { flightOf wave0 with placed := [{ at0 := (0, 0), lane := 0, va := 0x1004, pa := 0x2004, mt := 0 }] } }
def storeFields : LmFmt := { cls := 0, d := 5, base := 4, ty := .n32, addr := .off 4 }
/-- A store to a write-back page and the load of it through L1: the place of each access as its check has found it (R269, R272). -/
theorem test_store_load :
    (after (.stu h0 storeFields) storeState).map (fun t => (t.l1Byte 0 0x2004, t.l1Byte 0 0x2007, t.mem)) = some (clean 0xBB, clean 0x88, []) ∧
    ((after (.stu h0 storeFields) storeState).bind fun t => leaves (.ldu h0 { storeFields with d := 6, ty := .i32 }) t) = some [.s 6 0xFFFFFFFF8899AABB 0] := by
  decide +kernel

/-- setmode under its mask, a reserved rounding mode kept out (R85). -/
theorem test_setmode :
    (flightAfter (.setmode h0 (.i { d := 1, a := 0, ty := .i8, cond := 0, imm := 0x1F0B })) (waveState wave0)).map (fun f => f.mode)
      = some (some 0b01011) ∧
    (flightAfter (.setmode h0 (.i { d := 1, a := 0, ty := .i8, cond := 0, imm := 0x1F0E })) (waveState wave0)).map (fun f => f.mode)
      = some (some 0b01000) := by decide +kernel
/-- trap on an error only, sysc with its number (R430, R432; worked example of chapter 17). -/
theorem test_traps :
    (flightAfter (.trap h0 { d := 0, a := 5, b := 0, imm := 0 }) (waveState (wave0.withS 5 0x7F))).map (fun f => f.trap) = some none ∧
    (flightAfter (.sysc h0 { d := 0, a := 5, b := 0, imm := 0x42 }) (waveState (wave0.withS 5 9))).map (fun f => f.trap.map fun t => (t.code, t.addr, t.info))
      = some (some (0x0D, 0x42, 9)) := by decide +kernel
def trapState : State :=
  { idleState wave0 with flight := some { flightOf wave0 with
    trap := some { code := 0x0D, m := BitVec.allOnes 32, slot := 7, addr := 0x42, info := 9 } } }
/-- A trap taken at a group's end stops the wave and its record waits while the ring is off (R420, R422). -/
theorem test_trap_entry :
    (after (.br { tests := [] }) trapState).map (fun t => t.fault.waiting.map fun r => [r.code.toNat, r.sloti.getD 0, r.addr.toNat, r.info.toNat])
      = some [[0x0D, 7, 0x42, 9]] ∧
    (after (.br { tests := [] }) trapState).map (fun t => (t.wave? 2).map fun v => (v.c.stopped, (v.threads.get 0).pc))
      = some (some (true, 0)) := by decide +kernel
def popWave : Wave := { wave0 with windows := [[{ data := Line.fill 77, bad := 0, bookend := false }]] }
/-- A queue window: the head entry into v[V] (R317). -/
theorem test_qpop :
    leaves (.qpop h0 { v := 9, lu := false, q := 0 }) (waveState popWave) = some [vecWrite 9 fun _ => 77] ∧
    ((after (.qpop h0 { v := 9, lu := false, q := 0 }) (waveState popWave)).bind fun t => t.wave? 2).map (fun v => v.window 0) = some [] := by decide +kernel
/-- A command takes its operands and its token register (R53, R289). -/
theorem test_copy_command :
    (after (.copy h0 { tn := 0, td := 8, t1 := 0, t2 := 0, t3 := 0, a := 20, md := 1 }) (waveState (wave0.withS 20 0x77))).map
      (fun t => (t.flight.map fun f => f.pend, (t.core 0).copyQ.map fun c => (c.run.length, c.run.getD 0 0, c.td)))
      = some (some 0x100, [(4, 0x77, 8)]) := by decide +kernel
/-- A step from the word of a movw runs it (R20, R82). -/
theorem test_step_movw :
    (match step (State.reset.withFetchWord 120 (1 + (0x000DBE00000000 + 0xDEADBEEF) * 2 ^ 64)) with
      | .next t => t.flight.map fun f => f.writes.map fun x => x.w
      | _ => none) = some [.s 62 0xDEADBEEF 0] := by decide +kernel


/-! Witnesses: states and operands that meet the hypotheses of each statement, clause by clause. -/

/-- An operation without a guard runs in the group in flight of any wave 2, on core 0 and on line core 0. -/
theorem running_wave (w : Wave) (hu : w.uid = 2) : Running (waveState w) h0 (flightOf w) w where
  flight := rfl
  owner := by simp [waveState, idleState, State.owner, State.wave?, State.reader, flightOf, newFlight, hu]
  thread := by simp [runMask, h0, flightOf, newFlight, Tag.outcome]
theorem running_line (w : Wave) : Running (lineState w) h0 (lineFlight w) w where
  flight := rfl
  owner := rfl
  thread := by simp [runMask, h0, lineFlight, newFlight, Tag.outcome]
/-- The same with what the operation sees. -/
def SeesWave (w : Wave) : Prop := Running (waveState w) h0 (flightOf w) w ∧ ∃ c, slotCtx (waveState w) h0 = some c
theorem sees_wave (w : Wave) (hu : w.uid = 2) : SeesWave w := by
  obtain ⟨c, hc, -⟩ := (running_wave w hu).ctx
  exact ⟨running_wave w hu, c, hc⟩
/-- What the operation sees satisfies a test. -/
def sees (s : State) (p : Ctx → Bool) : Bool := (slotCtx s h0).any p

/-- An S operand pair from registers 1 and 2, and from register 1 and an immediate. -/
def regs2 (ty : Ty) : SFmt := .r { d := 3, a := 1, b := 2, ty, cond := 0, pos := 0, len := 0 }
def regImm (ty : Ty) (x : BitVec 18) : SFmt := .i { d := 3, a := 1, ty, cond := 0, imm := x }
def field (pos len : BitVec 6) : SrFmt := { d := 3, a := 1, b := 2, ty := .n64, cond := 0, pos, len }

theorem witness_ScalarArithmetic : Running (waveState wave0) h0 (flightOf wave0) wave0 := running_wave _ rfl
/-- A zero divisor, the least number by −1, and another. -/
theorem witness_ScalarDivision :
    let w := wave0.withS 1 0x80000000
    Running (waveState w) h0 (flightOf w) w ∧
    bitsVal true (((regImm .i32 0).right w.r).setWidth 32) = 0 ∧
    (bitsVal true (((regImm .i32 (-1)).left w.r).setWidth 32) = -2 ^ 31 ∧ bitsVal true (((regImm .i32 (-1)).right w.r).setWidth 32) = -1) ∧
    bitsVal true (((regImm .i32 (-2)).right w.r).setWidth 32) = -2 := by
  intro w; exact ⟨running_wave _ rfl, by decide +kernel, by decide +kernel, by decide +kernel⟩
theorem witness_ScalarShifts : Running (waveState wave0) h0 (flightOf wave0) wave0 := running_wave _ rfl
/-- A field that ends at the top bit of its type. -/
theorem witness_ScalarBitFields :
    Running (waveState wave0) h0 (flightOf wave0) wave0 ∧ (field 60 3).pos.toNat + ((field 60 3).len.toNat + 1) ≤ (field 60 3).ty.width :=
  ⟨running_wave _ rfl, by decide⟩
/-- A selection with its predicate set in lane 31, and clear everywhere. -/
theorem witness_ScalarSelection :
    let w := wave0.withP 5 0x80000000
    Running (waveState w) h0 (flightOf w) w ∧ (regs2 .i32).code ≤ 1 ∧
    (∃ k : Fin 32, (runMask w.r (flightOf w) h0).has k = true ∧ w.r.pred ((field 5 0).pos.toNat % 32) k = true) ∧
    ¬ ∃ k : Fin 32, (runMask w.r (flightOf w) h0).has k = true ∧ w.r.pred ((field 6 0).pos.toNat % 32) k = true := by
  intro w; exact ⟨running_wave _ rfl, by decide, ⟨31, by decide +kernel⟩, by decide +kernel⟩
/-- A placed wave with a grid that is not empty, and a line core with a run. -/
theorem witness_ScalarIdentity :
    (Running (waveState wave0) h0 (flightOf wave0) wave0 ∧ (flightOf wave0).owner = .wave 2 ∧
      (waveState wave0).group? wave0.group = some (soloGroup 1 0) ∧ (waveState wave0).grid? (soloGroup 1 0).grid = some (soloGrid 0) ∧
      0 < (soloGrid 0).nx ∧ 0 < (soloGrid 0).ny) ∧
    Running (lineState lineWave) h0 (lineFlight lineWave) lineWave ∧ (lineFlight lineWave).owner = .line 0 ∧
      ((lineState lineWave).line 0).run.isSome = true :=
  ⟨⟨running_wave _ rfl, rfl, rfl, rfl, by decide, by decide⟩, running_line _, rfl, rfl⟩
theorem witness_BranchTargets : Running (waveState wave0) h0 (flightOf wave0) wave0 := running_wave _ rfl
theorem witness_ControlOperations : Running (waveState wave0) h0 (flightOf wave0) wave0 ∧ (flightOf wave0).owner = .wave 2 :=
  ⟨running_wave _ rfl, rfl⟩
/-- Thread 0 runs it, and only others do. -/
theorem witness_LineControlOperations :
    (Running (lineState lineWave) h0 (lineFlight lineWave) lineWave ∧ (lineFlight lineWave).owner = .line 0 ∧
      (lineFlight lineWave).lanes ≠ 0 ∧ runMask lineWave.r (lineFlight lineWave) h0 &&& 1 = 1) ∧
    let w := lineWave.withP 5 0xFFFFFFFE
    let h : Head := { h0 with gp := 5 }
    Running (lineState w) h (lineFlight w) w ∧ runMask w.r (lineFlight w) h &&& 1 = 0 := by
  exact ⟨⟨running_line _, rfl, by decide, by decide⟩, ⟨rfl, rfl, by decide +kernel⟩, by decide +kernel⟩
theorem witness_NoOperations : Running (waveState wave0) h0 (flightOf wave0) wave0 := running_wave _ rfl
/-- A guard that is false everywhere, on a compute core and on a line core. -/
theorem witness_GuardFalseNoEffect :
    let h : Head := { h0 with gp := 5 }
    (Instr.nop h).head? = some h ∧ (waveState wave0).flight = some (flightOf wave0) ∧
    ((waveState wave0).owner (flightOf wave0).owner).map ((waveState wave0).reader (flightOf wave0)) = some wave0 ∧
    runMask wave0.r (flightOf wave0) h = 0 ∧
    ((lineState lineWave).owner (lineFlight lineWave).owner).map ((lineState lineWave).reader (lineFlight lineWave)) = some lineWave ∧
    runMask lineWave.r (lineFlight lineWave) h = 0 := ⟨rfl, rfl, rfl, by decide +kernel, rfl, by decide +kernel⟩
/-- No guard, a guard, and the guard of a predicate inverted; a tag of the third outcome. -/
theorem witness_RunsWhere :
    h0.wf = true ∧ ({ h0 with gp := 31 } : Head).wf = true ∧ ({ h0 with gp := 1, neg := true } : Head).wf = true ∧
    ({ h0 with tag := .on3 } : Head).wf = true := by decide
/-- A last bundle with a test; an operation in its bundle, with and without the broadcast scalar. -/
theorem witness_RunsWhere_tree :
    ([({ bits := 0x000C000000001109, bad := false } : FBundle)].getLast? = some { bits := 0x000C000000001109, bad := false } ∧
      bits (0x000C000000001109 : BitVec 512) 5 3 = 1) ∧
    SeesWave wave0 ∧ (flightOf wave0).bundles[(flightOf wave0).cur.1]? = some plainBundle ∧ matchFields.bsel = false ∧
    ({ matchFields with bsel := true } : VFmt).bsel = true :=
  ⟨by decide +kernel, sees_wave _ rfl, rfl, rfl, rfl⟩

/-- A V operation from registers 2, 3 and 4. -/
def vec (ty : Ty) (md : Mod) (c : BitVec 8) : VFmt := { d := 9, a := 2, b := 3, c, ty, md, bsel := false }
theorem witness_VectorIntegerArithmetic :
    SeesWave wave0 ∧ (vec .i8 0 4).ty.isInt = true ∧ (vec .n8 0 4).ty.isInt = true ∧ (vec .i8 0 4).ty.signed = true :=
  ⟨sees_wave _ rfl, by decide⟩
theorem witness_VectorBitwise : SeesWave wave0 := sees_wave _ rfl
/-- An empty field and one that ends at bit 31, signed and unsigned. -/
theorem witness_VectorBitFields :
    let w := (wave0.withV 3 fun _ => 31).withV 4 fun i => if i = 0 then 0 else 63
    SeesWave w ∧ sees (waveState w) (fun c =>
      min (((c.vc (vec .i32 0 4)).get 0).toNat % 64) (32 - ((c.vb (vec .i32 0 4)).get 0).toNat % 32) == 0 &&
      min (((c.vc (vec .i32 0 4)).get 1).toNat % 64) (32 - ((c.vb (vec .i32 0 4)).get 1).toNat % 32) == 1) = true := by
  intro w; exact ⟨sees_wave _ rfl, by decide +kernel⟩
theorem witness_VectorPredicates : SeesWave wave0 ∧ (vec .i32 0 4).ty = .i32 ∧ (vec .n32 0 4).ty = .n32 := ⟨sees_wave _ rfl, rfl, rfl⟩
/-- A NaN, two numbers, positive infinity above a number, and zeros of opposite sign. -/
theorem witness_FloatCompare :
    let w := (wave0.withV 2 fun i => if i = 0 then 0x7FC00000 else if i = 1 then 0x3F800000 else if i = 2 then 0x7F800000 else 0).withV 3 fun i =>
      if i < 3 then 0xBF800000 else 0x80000000
    SeesWave w ∧ (vec .f32 1 0).ty = .f32 ∧ sees (waveState w) (fun c =>
      let a (k : Fin 32) := fmF32.read false ((c.va (vec .f32 1 0)).get k).toNat
      let b (k : Fin 32) := fmF32.read false ((c.vb (vec .f32 1 0)).get k).toNat
      a 0 == .nan && a 1 == .num false 1 && b 1 == .num true (-1) && a 2 == .inf false && b 2 != .nan && b 2 != .inf false &&
      a 3 == .num false 0 && b 3 == .num true 0) = true := by
  intro w; exact ⟨sees_wave _ rfl, rfl, by decide +kernel⟩
theorem witness_VectorWidening : SeesWave wave0 ∧ (vec .n16 0 4).ty.isInt = true := ⟨sees_wave _ rfl, by decide⟩
/-- A shuffle of distance 31; a compaction of no lane and of the odd ones. -/
theorem witness_LaneExchange :
    let w := wave0.withP 5 0xAAAAAAAA
    SeesWave w ∧ (vec .i8 0 31).c.toNat < 32 ∧ (runMask w.r (flightOf w) h0).list.filter (fun k => w.r.pred 6 k) = [] ∧
    (runMask w.r (flightOf w) h0).list.filter (fun k => w.r.pred 5 k) ≠ [] := by
  intro w; exact ⟨sees_wave _ rfl, by decide, by decide +kernel, by decide +kernel⟩
theorem witness_ScanReduce :
    SeesWave wave0 ∧ ((vec .i32 0 5).ty = .i32 ∨ (vec .i32 0 5).ty = .n32) ∧ ((vec .n32 0 13).ty = .i32 ∨ (vec .n32 0 13).ty = .n32) ∧
    (vec .i32 0 5).c.toNat % 8 ≤ 5 ∧ (vec .i32 0 5).c.getLsbD 3 = false ∧ (vec .n32 0 13).c.getLsbD 3 = true :=
  ⟨sees_wave _ rfl, by decide⟩

/-- Fields of each kind of encoding, the one NaN of e4m3 among them. -/
theorem witness_FormatValues :
    (254 < 2 ^ fmF32.ew ∧ 2 ^ 23 - 1 < 2 ^ fmF32.fw) ∧ (31 = 2 ^ fmE5m2.ew - 1 ∧ fmE5m2 ≠ fmE4m3 ∧ 3 < 2 ^ fmE5m2.fw) ∧
    (15 = 2 ^ fmE4m3.ew - 1 ∧ 7 < 2 ^ fmE4m3.fw) := by decide
/-- The largest value of each format is a number, and rounds. -/
theorem witness_RoundDirected :
    (∀ f ∈ [fmF32, fmF16, fmBf16, fmE4m3, fmE5m2], ∃ x : Rat, x ≠ 0 ∧ x ≤ x ∧ -x ≤ x ∧ f.read false f.top = .num false x) ∧
    (0 : Rat) < 1 ∧ (-1 : Rat) < 0 := by
  refine ⟨fun f hf => ?_, by decide, by decide⟩
  simp only [List.mem_cons, List.not_mem_nil, or_false] at hf
  rcases hf with rfl | rfl | rfl | rfl | rfl
  · exact ⟨340282346638528859811704183484516925440, by decide +kernel⟩
  · exact ⟨65504, by decide +kernel⟩
  · exact ⟨338953138925153547590470800371487866880, by decide +kernel⟩
  · exact ⟨448, by decide +kernel⟩
  · exact ⟨57344, by decide +kernel⟩
/-- A real between two numbers of e4m3, one on each side of it, and a word for the draw. -/
theorem witness_RoundDirected_drawn :
    fmE4m3.read false (fmE4m3.round .rtz false 0 (mkRat 17 16)).1 = .num false 1 ∧
    fmE4m3.read false (fmE4m3.round .rup false 0 (mkRat 17 16)).1 = .num false (mkRat 9 8) ∧
    fmE4m3.read false (fmE4m3.round .rdn false 0 (mkRat (-17) 16)).1 = .num true (mkRat (-9) 8) ∧ (1 : Rat) ≠ mkRat 9 8 ∧
    ((mkRat 17 16 - 1) / (mkRat 9 8 - 1) * 4294967296 : Rat).floor = 2 ^ 31 := by decide +kernel
theorem witness_RoundNearest : (1 : Rat) ≠ 0 ∧ fmE4m3.read false fmE4m3.top = .num false 448 ∧ (1 : Rat) ≤ 448 ∧ (-448 : Rat) ≤ 1 := by
  decide +kernel
theorem witness_RoundExact : 0x3F800000 < 2 ^ fmF32.width ∧ fmF32.read false 0x3F800000 = .num false 1 ∧ (1 : Rat) ≠ 0 := by decide +kernel
theorem witness_RoundOverflow : fmE5m2.read false fmE5m2.top = .num false 57344 ∧ (2 * 57344 : Rat) ≤ 114688 := by decide +kernel
/-- Lanes 0 to 3: a NaN, 2 and −4, 0 and 0, infinity and 0; a mode that is the stochastic one and one that is not. -/
def floatWave : Wave :=
  (wave0.withV 2 fun i => if i = 0 then 0x7FC00000 else if i = 1 then 0x40000000 else if i = 2 then 0 else 0x7F800000).withV 3 fun i =>
    if i = 1 then 0xC0800000 else 0
theorem witness_VectorFloatArithmetic :
    SeesWave floatWave ∧ fmOf .f32 = some fmF32 ∧ Ty.f32.vFloat = true ∧ modeOf floatWave.r.mode 1 ≠ .rst ∧ modeOf floatWave.r.mode 5 = .rst ∧
    sees (waveState floatWave) (fun c =>
      let a (k : Fin 32) := fmF32.read false ((c.va (vec .f32 1 4)).get k).toNat
      let b (k : Fin 32) := fmF32.read false ((c.vb (vec .f32 1 4)).get k).toNat
      a 0 == .nan && a 1 == .num false 2 && b 1 == .num true (-4) && a 2 == .num false 0 && b 2 == .num false 0 && a 3 == .inf false) = true :=
  ⟨sees_wave _ rfl, by decide, by decide, by decide +kernel, by decide +kernel, by decide +kernel⟩
/-- One NaN and two; numbers; infinities of both signs. -/
theorem witness_VectorFloatSelection :
    let w := (wave0.withV 2 fun i => if i < 2 then 0x7FC00000 else 0x7F800000).withV 3 fun i => if i = 0 then 0x7FC00001 else if i = 1 then 0 else 0xFF800000
    SeesWave w ∧ fmOf .f32 = some fmF32 ∧ Ty.f32.vFloat = true ∧ fmOf .f16 = some fmF16 ∧ Ty.f16.vFloat = true ∧ sees (waveState w) (fun c =>
      let a (k : Fin 32) := fmF32.read false ((c.va (vec .f32 0 0)).get k).toNat
      let b (k : Fin 32) := fmF32.read false ((c.vb (vec .f32 0 0)).get k).toNat
      a 0 == .nan && b 0 == .nan && a 1 == .nan && b 1 == .num false 0 && a 2 == .inf false && b 2 == .inf true) = true := by
  intro w; exact ⟨sees_wave _ rfl, by decide, by decide, by decide, by decide, by decide +kernel⟩
theorem witness_StochasticDraws :
    Running (waveState wave0) h0 (flightOf wave0) wave0 ∧ fmOf .f16 = some fmF16 ∧ Ty.f16.isInt = false ∧ modeOf wave0.r.mode 5 = .rst :=
  ⟨running_wave _ rfl, by decide, by decide, by decide +kernel⟩
/-- A source type for vcvt; the sum, inclusive and exclusive. -/
theorem witness_StochasticDrawsPerLane :
    Running (waveState wave0) h0 (flightOf wave0) wave0 ∧ modeOf wave0.r.mode 5 = .rst ∧
    (Ty.ofCode ((vec .f32 5 0x2A).c.extractLsb' 0 4) = some .f32 ∧ Ty.f32.isInt = false) ∧
    (vec .f32 5 0).c.toNat % 8 = 0 ∧ (vec .f32 5 8).c.toNat % 8 = 0 ∧ (vec .f32 5 8).c.getLsbD 3 = true :=
  ⟨running_wave _ rfl, by decide +kernel, by decide, by decide⟩
/-- Operands that reach the table's special values, a half-turn, an integral power and a square. -/
theorem witness_VectorFunctions :
    SeesWave floatWave ∧ (Ty.f32 = .f32 ∨ Ty.f32 = .f16) ∧ fmOf .f32 = some fmF32 ∧ modeOf floatWave.r.mode 1 ≠ .rst ∧
    ((0 : Rat) < 2 ∧ (2 : Rat) * 2 = 4 ∧ (2 : Rat) * 2 * mkRat 1 4 = 1) ∧ modeOf 0 3 = .rdn ∧
    (2 : Rat) = (2 : Rat).floor ∧ (mkRat 5 2 - mkRat 1 2) / 2 = ((mkRat 5 2 - mkRat 1 2) / 2).floor :=
  ⟨sees_wave _ rfl, by decide, by decide, by decide +kernel, by decide +kernel, by decide, by decide +kernel, by decide +kernel⟩
/-- One source operand. -/
def vec1 (ty : Ty) (md : Mod) (c : BitVec 8) : VFmt := { vec ty md c with b := 0 }
/-- vcvt between each pair of kinds, vpack to 16 and to 8 bits, vunpk of both kinds. -/
theorem witness_VectorConversions :
    SeesWave floatWave ∧ modeOf floatWave.r.mode 0 ≠ .rst ∧ modeOf floatWave.r.mode 1 ≠ .rst ∧
    ([vec1 .i8 0 1, vec1 .f16 1 0x11, vec1 .i8 1 0x0A, vec1 .bf16 1 0x4A].all fun o => o.cvtOk && (Ty.ofCode (o.c.extractLsb' 0 4)).isSome) = true ∧
    (vec .i16 0 0).packOk = true ∧ (vec .e4m3 1 1).packOk = true ∧ (vec1 .n8 0 3).unpkOk = true ∧ (vec1 .f16 0 1).unpkOk = true ∧
    floatWave.r.mode.getLsbD 3 = false ∧ modeOf floatWave.r.mode 5 = .rst ∧ (fmOf .f32 = some fmF32 ∧ Ty.i8.isInt = true ∧ (vec1 .i8 5 0x0A).cvtOk = true) :=
  ⟨sees_wave _ rfl, by decide +kernel, by decide +kernel, by decide, by decide, by decide, by decide, by decide, by decide +kernel, by decide +kernel,
   by decide⟩
theorem witness_RoundIntModes : (0 : Rat) ≤ mkRat 5 2 ∧ mkRat (-5) 2 ≤ 0 := by decide +kernel
/-- Every element a number, and a sum that is not zero. -/
theorem witness_VectorFloatDot :
    let w := ((wave0.withV 2 fun _ => 0x3C003C00).withV 3 fun _ => 0x3C003C00).withV 4 fun _ => 0x3F800000
    SeesWave w ∧ fmOf .f16 = some fmF16 ∧ Ty.f16.isInt = false ∧ modeOf w.r.mode 1 ≠ .rst ∧
    sees (waveState w) (fun c => (List.range 2).all fun j => lanes.all fun k =>
      fmF16.read false (elt ((c.va (vec .f16 1 4)).get k) 16 j).toNat == .num false 1 &&
      fmF16.read false (elt ((c.vb (vec .f16 1 4)).get k) 16 j).toNat == .num false 1 &&
      fmF32.read false ((c.vc (vec .f16 1 4)).get k).toNat == .num false 1) = true := by
  intro w; exact ⟨sees_wave _ rfl, by decide, by decide, by decide +kernel, by decide +kernel⟩
theorem witness_FloatScanReduce :
    let w := wave0.withV 2 fun _ => 0xBF800000
    SeesWave w ∧ (vec .f32 1 0).ty = .f32 ∧ modeOf w.r.mode 1 ≠ .rst ∧
    (∀ k : Fin 32, fmF32.read (w.r.mode.getLsbD 3) ((w.r.vec 2).get k).toNat = .num true (-1)) ∧
    ((vec .f32 1 1).c.toNat % 8 = 1 ∧ (vec .f32 1 10).c.toNat % 8 = 2 ∧ (vec .f32 1 10).c.getLsbD 3 = true) := by
  intro w; exact ⟨sees_wave _ rfl, rfl, by decide +kernel, by decide +kernel, by decide⟩
/-- A ray along x in every lane; lanes 0 to 3 meet an invalid ray, a box with a NaN bound, a box ahead, and a triangle with an infinite
corner; lane 4 a box ahead without a limit, lane 5 one around the origin, lane 6 one aside; lanes 7 to 9 a triangle from the front, from
the back, and one of no area. -/
def rayWave : Wave :=
  let v (n : Nat) (f : Nat → Word) (w : Wave) : Wave := w.withV n f
  let a : Word := 0xBF800000
  let b : Word := 0x40000000
  ((v 10 fun i => if i = 0 then 0x7F800000 else 0) ∘ (v 20 fun _ => 0x3F800000) ∘ (v 13 fun i => if i = 4 then 0x7F800000 else 0x41200000) ∘
   (v 30 fun i => if i = 1 then 0x7FC00000 else if i = 3 then 0x7F800000 else if i = 5 then a else 0x3F800000) ∘
   (v 31 fun i => if i = 6 then 0x3F800000 else if 7 ≤ i then a else 0) ∘ (v 32 fun i => if 7 ≤ i then a else 0) ∘
   (v 33 fun i => if i < 5 then b else 0x3F800000) ∘ (v 34 fun i => if i = 6 then 0x3F800000 else if i = 8 then a else if 7 ≤ i then b else 0) ∘
   (v 35 fun i => if i = 8 then b else if 7 ≤ i then a else 0) ∘ (v 36 fun _ => 0x3F800000) ∘
   (v 37 fun i => if i = 7 then a else if 8 ≤ i then b else 0) ∘ (v 38 fun i => if i = 7 then b else if 8 ≤ i then a else 0)) wave0
def rayFields : VFmt := { d := 40, a := 10, b := 20, c := 30, ty := .f32, md := 0, bsel := false }
theorem witness_RayTests :
    SeesWave rayWave ∧ sees (waveState rayWave) (fun c =>
      let val (l : Line) (k : Fin 32) := fmF32.read false (l.get k).toNat
      let is (l : Nat → Line) (n : Nat) (k : Fin 32) (xs : List Rat) : Bool := (List.range n).all fun j => match val (l j) k with
        | .num _ x => decide (xs[j]? = some x) | _ => false
      let at' (k : Fin 32) (xs : List Rat) : Bool := is (c.va rayFields ·) 3 k [0, 0, 0] && is (c.vb rayFields ·) 3 k [1, 0, 0] && is (c.vc rayFields ·) xs.length k xs
      val (c.va rayFields 0) 0 == .inf false && val (c.vc rayFields 0) 1 == .nan && val (c.va rayFields 3) 2 == .num false 10 &&
      val (c.va rayFields 3) 4 == .inf false && val (c.vc rayFields 0) 3 == .inf false &&
      at' 2 [1, 0, 0, 2, 0, 0] && at' 4 [1, 0, 0, 2, 0, 0] && at' 5 [-1, 0, 0, 1, 0, 0] && at' 6 [1, 1, 0, 1, 1, 0] &&
      at' 7 [1, -1, -1, 1, 2, -1, 1, -1, 2] && at' 8 [1, -1, -1, 1, -1, 2, 1, 2, -1] && at' 9 [1, -1, -1, 1, 2, -1, 1, 2, -1]) = true :=
  ⟨sees_wave _ rfl, by decide +kernel⟩
/-- The first two boxes are hit at t = 1 and not before it, the third at 0 and also before it, the fourth at no t; the first two triangles
at t = 1 with both coordinates a third. -/
theorem witness_RayTests_hits :
    ((1 : Rat) ≤ 0 + 1 * 1 ∧ (0 : Rat) + 1 * 1 ≤ 2 ∧ ∀ y : Rat, 1 ≤ 0 + y * 1 → 1 ≤ y) ∧
    ((-1 : Rat) ≤ 0 + 0 * 1 ∧ (-1 : Rat) ≤ 0 + mkRat (-1) 2 * 1 ∧ mkRat (-1) 2 < 0) ∧ (∀ y : Rat, ¬ 1 ≤ 0 + y * 0) ∧
    ((0 : Rat) + 1 * 0 = -1 + mkRat 1 3 * (2 - -1) + mkRat 1 3 * (-1 - -1) ∧ mkRat 1 3 + mkRat 1 3 ≤ 1 ∧
      (0 : Rat) < 1 * ((2 - -1) * (2 - -1) - (-1 - -1) * (-1 - -1))) := by
  refine ⟨⟨by decide +kernel, by decide +kernel, fun y h => by rwa [Rat.mul_one, Rat.zero_add] at h⟩, by decide +kernel, fun y h => ?_, by decide +kernel⟩
  rw [Rat.mul_zero, Rat.add_zero] at h
  exact absurd h (by decide +kernel)

/-- A Y operation with an immediate. -/
def yfmt (x : BitVec 20) : YgFmt := { d := 9, a := 5, b := 6, imm := x }
theorem witness_WaveSynchronisation :
    Running (waveState wave0) h0 (flightOf wave0) wave0 ∧ (yfmt 0).imm = 0 ∧ (yfmt 1).imm = 1 ∧ (yfmt 1).imm ≠ 0 := ⟨running_wave _ rfl, by decide⟩
/-- A wave and a line core with a register operation, and a control port between steps; each register named once. -/
theorem witness_TrapsAndRegisters :
    (Running (waveState wave0) h0 (flightOf wave0) wave0 ∧ (flightOf wave0).owner = .wave 2) ∧
    (Running (lineState lineWave) h0 (lineFlight lineWave) lineWave ∧ (lineFlight lineWave).owner = .line 0) ∧
    ((yfmt 0).imm.getLsbD 16 = false ∧ (yfmt 0x10000).imm.getLsbD 16 = true) ∧
    (({ waveState wave0 with cores := [{ coreReset 0 with roleWait := [(34, 2)] }] } : State).core 0).roleWait = [(31 + 3, 2)] ∧
    State.reset.flight = none := ⟨⟨running_wave _ rfl, rfl⟩, ⟨running_line _, rfl⟩, by decide, rfl, rfl⟩

theorem witness_EncodeThenDecode :
    (Instr.vadd h0 (vec .f32 1 0)).wf = true ∧ 2 ∈ (Instr.vadd h0 (vec .f32 1 0)).slots .c ∧
    (Instr.rdbeam h0 { d := 9, a := 0, b := 0, imm := 2 }).wf = true ∧
    7 ∈ (Instr.rdbeam h0 { d := 9, a := 0, b := 0, imm := 2 }).slots .d := by decide
theorem witness_DecodeThenEncode :
    7 < 8 ∧ decodeSlot .c 7 0x00_0480_1400_0042 = some (.sysc h0 { d := 0, a := 5, b := 0, imm := 0x42 }) := by decide

/-- A group whose one bundle holds a movw in slot 0 and nothing in slot 1. -/
def movwBundle : FBundle := { bits := 1 + (0x000DBE00000000 + 0xDEADBEEF) * 2 ^ 64, bad := false }
def emptyBundle : FBundle := { bits := 1 + 0x00_7780_0000_0000 * 2 ^ 120, bad := false }
def movwFlight (todo : List (Nat × Nat)) (sysw : List Offer) : Flight := { flightOf wave0 with bundles := [movwBundle], todo, sysw }
def movwState (todo : List (Nat × Nat)) (sysw : List Offer) : State := { idleState wave0 with flight := some (movwFlight todo sysw) }
def offer (i : Instr) (arg : Arg) : Offer := { instr := i, arg }
def noArg : Arg := { a := 0, b := 0, c := 0, x := 0 }
/-- An operation, an empty slot, a step that a register write has caused, the end of a group; a posted step, an offer that is due,
and nothing at all. -/
theorem witness_StepRunsDecoded :
    ((movwState [(0, 0)] []).owner (movwFlight [(0, 0)] []).owner = some wave0 ∧
      decodeSlot (movwFlight [(0, 0)] []).owner.prof 0 (slotOf movwBundle.bits 0) = some (.movw h0 { d := 62, imm := 0xDEADBEEF })) ∧
    (({ movwFlight [(0, 1)] [] with bundles := [emptyBundle] } : Flight).bundles[0]? = some emptyBundle ∧
      decodeSlot .c 1 (slotOf emptyBundle.bits 1) = none) ∧
    (movwState [] [offer .lrateWindow noArg]).flight.map (fun f => f.sysw) = some [offer .lrateWindow noArg] ∧
    (movwFlight [] []).bundles.getLast? = some movwBundle ∧
    (let s : State := { State.reset with posted := [offer .lrateWindow noArg] }
     s.flight = none ∧ s.posted = [offer .lrateWindow noArg]) ∧
    (let s : State := { State.reset with agenda := [(0, offer .lrateWindow noArg)] }
     s.flight = none ∧ s.posted = [] ∧ 0 ≤ s.now ∧ s.admits .lrateWindow = true) ∧
    (let s : State := { State.reset with now := 1 }
     s.flight = none ∧ s.posted = [] ∧ s.agenda = [] ∧ s.due = none) :=
  ⟨⟨rfl, by decide +kernel⟩, by decide +kernel⟩
/-- A step over memory that lists a byte and a poisoned one. -/
theorem witness_MemoryFormEveryStep :
    let s : State := { State.reset with mem := [(0x2000, 7)], memBad := [0x2001], posted := [offer .lrateWindow noArg] }
    s.memOk = true ∧ goesOn s = true := by decide +kernel

/-- What an operation sees satisfies a test, and it runs in some thread. -/
theorem sees_runs {s : State} {h : Head} {p : Ctx → Bool} (hs : (slotCtx s h).any (fun c => c.run != 0 && p c) = true) :
    ∃ c, RunsIn s h c ∧ p c = true := by
  cases hc : slotCtx s h with
  | none => simp [hc] at hs
  | some c => simp only [hc, Option.any_some, Bool.and_eq_true, bne_iff_ne] at hs; exact ⟨c, ⟨hc, hs.1⟩, hs.2⟩
/-- Every access has its place from the check of its group, in device memory and a write-back page. -/
def placedAt (s : State) (c : Ctx) (as : List MemAcc) (pa : Fin 32 → Nat) : Bool :=
  as.all fun a => decide (c.placed? a = some (pa a.lane, 0)) && decide (s.range (pa a.lane) = .mem)
theorem placedAt_passes {s : State} {c : Ctx} {as : List MemAcc} {pa : Fin 32 → Nat} (k : Acc) (h : placedAt s c as pa = true) :
    Passes s c k as pa := by
  intro a ha
  have := List.all_eq_true.1 h a ha
  simp only [Bool.and_eq_true, decide_eq_true_eq] at this
  exact ⟨State.placeAcc_placed this.1, this.2⟩
/-- The same after any store, for the accesses in turn. -/
theorem placedAt_turn {s : State} {c : Ctx} {as : List MemAcc} {pa : Fin 32 → Nat} (k : Acc) (h : placedAt s c as pa = true)
    (j : Nat) (a : MemAcc) (hj : as[j]? = some a) (t : State) : t.placeAcc c (.mem k) (s.priv c.w) a = (t, .ok (pa a.lane) 0) := by
  have := List.all_eq_true.1 h a (List.mem_of_getElem? hj)
  simp only [Bool.and_eq_true, decide_eq_true_eq] at this
  exact State.placeAcc_placed this.1

/-- A wave whose lanes access 4 bytes each from 0x1000 on, placed at 0x2000, whose line the core's L1 holds. -/
def lanePa (k : Fin 32) : Nat := 0x2000 + 4 * k.val
def memWave : Wave := (wave0.withS 4 0x1000).withV 9 fun i => BitVec.ofNat 32 (4 * i)
def memFlight : Flight :=
  { flightOf memWave with placed := (List.range 32).map fun k => { at0 := (0, 0), lane := k, va := 0x1000 + BitVec.ofNat 64 (4 * k), pa := 0x2000 + 4 * k, mt := 0 } }
def memState : State :=
  { idleState memWave with flight := some memFlight, cores := [{ coreReset 0 with l1 := [{ line := 64, data := 0x1234, bad := 0 }] }] }
def loadFields (x : BitVec 16) : LmFmt := { cls := 0, d := 10, base := 4, ty := .i32, addr := .off x }
theorem witness_Loads :
    ∃ c, RunsIn memState h0 c ∧ c.fl.owner = .wave 2 ∧
      (let as := c.perLane 4 (c.laneAddr (loadFields 0) 4)
       Passes memState c .load as lanePa ∧ InL1 memState c as lanePa) ∧
      (let ps := c.perLane 4 (c.probeAddr (loadFields 0x800))
       Passes memState c .probe ps lanePa ∧ InL1 memState c ps lanePa) ∧
      (let one := c.single 4 (c.oneAddr (loadFields 0)) ((c.oneAddr (loadFields 0)).toNat % 4 != 0)
       Passes memState c .load one lanePa ∧ InL1 memState c one lanePa ∧ c.run.lowest = some 0) := by
  let inL1 (c : Ctx) (as : List MemAcc) : Bool := decide ((memState.core c.core).wc = []) && as.all fun a =>
    (linesOf (lanePa a.lane) a.size).all fun l => ((memState.core c.core).l1Find l).isSome
  have hin (c : Ctx) (as : List MemAcc) (h : inL1 c as = true) : InL1 memState c as lanePa := by
    simp only [inL1, Bool.and_eq_true, decide_eq_true_eq, List.all_eq_true] at h
    exact ⟨h.1, h.2⟩
  let ps (c : Ctx) : List (List MemAcc) :=
    [c.perLane 4 (c.laneAddr (loadFields 0) 4), c.perLane 4 (c.probeAddr (loadFields 0x800)),
     c.single 4 (c.oneAddr (loadFields 0)) ((c.oneAddr (loadFields 0)).toNat % 4 != 0)]
  obtain ⟨c, hr, h⟩ := sees_runs (s := memState) (h := h0) (p := fun c => decide (c.fl.owner = .wave 2) &&
    decide (c.run.lowest = some 0) && (ps c).all fun as => placedAt memState c as lanePa && inL1 c as) (by decide +kernel)
  simp only [Bool.and_eq_true, decide_eq_true_eq, ps, List.all_cons, List.all_nil] at h
  obtain ⟨⟨ho, hl⟩, ⟨p1, i1⟩, ⟨p2, i2⟩, ⟨p3, i3⟩, -⟩ := h
  exact ⟨c, hr, ho, ⟨placedAt_passes _ p1, hin _ _ i1⟩, ⟨placedAt_passes _ p2, hin _ _ i2⟩, placedAt_passes _ p3, hin _ _ i3, hl⟩

/-- A store of every lane and of one; a line's last byte in device memory; a group's scratchpad; a line core with nothing pending. -/
theorem witness_Stores :
    (∃ c, RunsIn memState h0 c ∧ c.fl.owner = .wave 2 ∧ c.run.lowest = some 0 ∧
      (∀ (j : Nat) (a : MemAcc), (c.perLane 4 (c.laneAddr (loadFields 0) 4))[j]? = some a → ∀ t : State,
        t.placeAcc c (.mem .store) (memState.priv c.w) a = (t, .ok (lanePa a.lane) 0)) ∧
      Passes memState c .store (c.single 4 (c.oneAddr (loadFields 0)) ((c.oneAddr (loadFields 0)).toNat % 4 != 0)) lanePa) ∧
    (let s := State.reset
     0x207F % 128 + 1 ≤ 128 ∧ s.range 0x207F = .mem ∧ (s.core 0).wc = [] ∧ s.viewAt 0x2000 = none ∧ s.sliceDead 0 64 = false ∧ s.memOk = true ∧
       s.l2Find 0 64 = none ∧ s.channelDead 0x207F = false ∧ s.viewAt 0x207F = none) ∧
    (∃ c g, RunsIn (scratchState memWave Store.empty) h0 c ∧ c.fl.owner = .wave 2 ∧
      (scratchState memWave Store.empty).group? c.w.group = some g ∧ Memory.wf g.scratch.cells = true ∧ rising g.scratch.bad = true) ∧
    ∃ c, RunsIn (lineState lineWave) h0 c ∧ c.fl.owner = .line 0 ∧ ((lineState lineWave).line 0).bufPend = [] := by
  refine ⟨?_, by decide +kernel, ?_, ?_⟩
  · obtain ⟨c, hr, h⟩ := sees_runs (s := memState) (h := h0) (p := fun c => decide (c.fl.owner = .wave 2) && decide (c.run.lowest = some 0) &&
      placedAt memState c (c.perLane 4 (c.laneAddr (loadFields 0) 4)) lanePa &&
      placedAt memState c (c.single 4 (c.oneAddr (loadFields 0)) ((c.oneAddr (loadFields 0)).toNat % 4 != 0)) lanePa) (by decide +kernel)
    simp only [Bool.and_eq_true, decide_eq_true_eq] at h
    obtain ⟨⟨⟨ho, hl⟩, p1⟩, p2⟩ := h
    exact ⟨c, hr, ho, hl, placedAt_turn .store p1, placedAt_passes _ p2⟩
  · obtain ⟨c, hr, h⟩ := sees_runs (s := scratchState memWave Store.empty) (h := h0) (p := fun c => decide (c.fl.owner = .wave 2) &&
      decide (c.w.group = 1)) (by decide +kernel)
    simp only [Bool.and_eq_true, decide_eq_true_eq] at h
    exact ⟨c, _, hr, h.1, by rw [h.2]; rfl, by decide, by decide⟩
  · obtain ⟨c, hr, h⟩ := sees_runs (s := lineState lineWave) (h := h0) (p := fun c => decide (c.fl.owner = .line 0)) (by decide +kernel)
    exact ⟨c, hr, by simpa using h, rfl⟩

/-- One running thread, lane 31: a memory atomic at a line's end, vatom, and a scratchpad atomic. -/
def oneHead : Head := { h0 with gp := 1 }
def oneWave : Wave := (memWave.withP 1 0x80000000).withV 10 fun i => BitVec.ofNat 32 i
def oneState : State :=
  { scratchState oneWave Store.empty with flight := some { flightOf oneWave with placed :=
      [{ at0 := (0, 0), lane := 31, va := 0x107C, pa := 0x207C, mt := 0 }, { at0 := (0, 0), lane := 31, va := 0x1000, pa := 0x2000, mt := 0 }] } }
def atomFields (ty : Ty) (aop : BitVec 4) : LaFmt := { cls := 0, d := 10, base := 4, ty, scope := 4, aop, lu := false, idx := 9 }
def keyFields : TFmt := { d := 10, a := 5, res := 4, smp := 0, md := 0 }
theorem witness_Atomics :
    (∃ c, RunsIn oneState oneHead c ∧ oneState.rep.state = 0 ∧ c.fl.owner = .wave 2 ∧ c.run = 1#32 <<< (31 : Fin 32).val ∧
      (oneState.core c.core).wc = [] ∧
      (aopOk .i32 7 = true ∧ aopOk .n64 8 = true ∧ Ty.i32.isInt = true ∧ (atomFields .i32 7).scope.toNat < 5) ∧
      (Passes oneState c .atom (c.perLane 4 (c.atomAddr (atomFields .i32 7))) (fun _ => 0x207C) ∧ 0x207C % 128 + 4 ≤ 128) ∧
      (bit keyFields.md 1 = false ∧ Passes oneState c .atom (c.perLane 8 (c.vatomAddr keyFields)) (fun _ => 0x2000) ∧ 0x2000 % 128 + 8 ≤ 128) ∧
      ∃ g, oneState.group? c.w.group = some g ∧ Memory.wf g.scratch.cells = true ∧ rising g.scratch.bad = true ∧
        anyBad (g.scratch.read (c.atomAddr (atomFields .i32 7) 31).toNat 4) = false) ∧
    (oneState.viewAt (128 * (0x207C / 128)) = none ∧ oneState.sliceDead 0 (0x207C / 128) = false ∧ anyBad (oneState.dieBytes 0 0x207C 4) = false) ∧
    (oneState.viewAt (128 * (0x2000 / 128)) = none ∧ oneState.sliceDead 0 (0x2000 / 128) = false ∧ anyBad (oneState.dieBytes 0 0x2000 8) = false) := by
  refine ⟨?_, by decide +kernel, by decide +kernel⟩
  obtain ⟨c, hr, h⟩ := sees_runs (s := oneState) (h := oneHead) (p := fun c => decide (c.fl.owner = .wave 2 ∧ c.run = 1#32 <<< (31 : Fin 32).val ∧
    (oneState.core c.core).wc = [] ∧ c.w.group = 1 ∧ placedAt oneState c (c.perLane 4 (c.atomAddr (atomFields .i32 7))) (fun _ => 0x207C) = true ∧
    placedAt oneState c (c.perLane 8 (c.vatomAddr keyFields)) (fun _ => 0x2000) = true ∧
    anyBad (Store.empty.read (c.atomAddr (atomFields .i32 7) 31).toNat 4) = false)) (by decide +kernel)
  obtain ⟨ho, hm, hw, hg, p1, p2, hb⟩ := of_decide_eq_true h
  exact ⟨c, hr, rfl, ho, hm, hw, by decide, ⟨placedAt_passes _ p1, by decide⟩, ⟨by decide, placedAt_passes _ p2, by decide⟩,
    _, by rw [hg]; rfl, by decide, by decide, hb⟩

/-- cst4 on a line without and with its mark; fences of each kind; an armed monitor's line; a paired wave and a window with an entry. -/
def cstWave : Wave :=
  { memWave with c := { memWave.c with marks := [{ line := 64, broken := false }] }, pair := some 2, windows := popWave.windows }
def cstState (w : Wave) : State :=
  { idleState w with flight := some { flightOf w with placed := [{ at0 := (0, 0), lane := 0, va := 0x1000, pa := 0x2000, mt := 0 }] } }
def cstFields : LcFmt := { cls := 0, d := 10, base := 4, p := 1, nl := 0, off := 0 }
theorem witness_FencesMonitorsQueues :
    (∃ c, RunsIn (cstState memWave) h0 c ∧ c.fl.owner = .wave 2 ∧ (cstState memWave).rep.state = 0 ∧ cstFields.nl = 0 ∧
      Passes (cstState memWave) c .cst (c.single 128 (c.cstAddr cstFields) false) (fun _ => 0x2000) ∧ c.run.lowest = some 0 ∧ c.w.c.marks = []) ∧
    (∃ c, RunsIn (cstState cstWave) h0 c ∧ c.fl.owner = .wave 2 ∧
      Passes (cstState cstWave) c .cst (c.single 128 (c.cstAddr cstFields) false) (fun _ => 0x2000) ∧ c.run.lowest = some 0 ∧
      (∃ m, m ∈ c.w.c.marks ∧ m.line = 0x2000 / 128 ∧ m.broken = false) ∧
      ((cstState cstWave).core c.core).wc = [] ∧ (cstState cstWave).sliceDead (dieOf c.core) (0x2000 / 128) = false ∧
      (cstState cstWave).placeAcc c (.mem .mon) ((cstState cstWave).priv c.w)
        { lane := 0, va := c.oneAddr (loadFields 0), size := 1, mis := false } = (cstState cstWave, .ok 0x2000 0) ∧
      c.w.pair = some 2 ∧ ∃ e es, c.w.window 0 = e :: es) ∧
    (0x2000 % 128 = 0 ∧ (cstState cstWave).memOk = true ∧
      ∀ j, j < 128 → (cstState cstWave).viewAt (0x2000 + j) = none ∧ (cstState cstWave).channelDead (0x2000 + j) = false) ∧
    ∃ c, RunsIn (lineState lineWave) h0 c ∧ c.fl.owner = .line 0 := by
  refine ⟨?_, ?_, by decide +kernel, ?_⟩
  · obtain ⟨c, hr, h⟩ := sees_runs (s := cstState memWave) (h := h0) (p := fun c => decide (c.fl.owner = .wave 2 ∧ c.run.lowest = some 0 ∧
      c.w.c.marks = [] ∧ placedAt (cstState memWave) c (c.single 128 (c.cstAddr cstFields) false) (fun _ => 0x2000) = true)) (by decide +kernel)
    obtain ⟨ho, hl, hm, p⟩ := of_decide_eq_true h
    exact ⟨c, hr, ho, rfl, rfl, placedAt_passes _ p, hl, hm⟩
  · obtain ⟨c, hr, h⟩ := sees_runs (s := cstState cstWave) (h := h0) (p := fun c => decide (c.fl.owner = .wave 2 ∧ c.run.lowest = some 0 ∧
      { line := 64, broken := false } ∈ c.w.c.marks ∧ placedAt (cstState cstWave) c (c.single 128 (c.cstAddr cstFields) false) (fun _ => 0x2000) = true ∧
      ((cstState cstWave).core c.core).wc = [] ∧ (cstState cstWave).sliceDead (dieOf c.core) (0x2000 / 128) = false ∧
      c.placed? { lane := 0, va := c.oneAddr (loadFields 0), size := 1, mis := false } = some (0x2000, 0) ∧
      c.w.pair = some 2 ∧ c.w.window 0 ≠ [])) (by decide +kernel)
    obtain ⟨ho, hl, hm, p, hw, hd, hmon, hp, hq⟩ := of_decide_eq_true h
    exact ⟨c, hr, ho, placedAt_passes _ p, hl, ⟨_, hm, rfl, rfl⟩, hw, hd, State.placeAcc_placed hmon, hp, List.exists_cons_of_ne_nil hq⟩
  · obtain ⟨c, hr, h⟩ := sees_runs (s := lineState lineWave) (h := h0) (p := fun c => decide (c.fl.owner = .line 0)) (by decide +kernel)
    exact ⟨c, hr, of_decide_eq_true h⟩
/-- The scale of numbers, of zeros and of an infinity; a conversion under a scale; a negative texel; a record at an odd address. -/
theorem witness_DisplayScaleTexture :
    (∃ c, RunsIn (lineState lineWave) h0 c) ∧
    (let w := (wave0.withV 2 fun i => if i = 0 then 0xC0400000 else 0x3F800000).withV 3 fun _ => 127
     let o : VFmt := { d := 9, a := 2, b := 3, c := 2, ty := .f32, md := 1, bsel := false }
     (∃ c, RunsIn (waveState w) h0 c) ∧ sees (waveState w) (fun c =>
       let x (k : Fin 32) := fmF32.read (fzOf c.w.r.mode .f32) ((c.va o).get k).toNat
       (lanes.all fun k => x k == .num true (-3) || x k == .num false 1) && decide (pow2 1 ≤ 3 ∧ (3 : Rat) < pow2 2) &&
       decide (c.run.lowest = some 0 ∧ modeOf c.w.r.mode o.md ≠ .rst ∧ bits ((c.vb o).get 0) 7 0 ≠ 255)) = true) ∧
    (let w := wave0.withV 2 fun _ => 0
     (∃ c, RunsIn (waveState w) h0 c) ∧ lanes.all (fun k => fmF32.read false ((w.r.vec 2).get k).toNat == .num false 0) = true) ∧
    (let w := wave0.withV 2 fun i => if i = 31 then 0x7F800000 else 0x80000000
     (∃ c, RunsIn (waveState w) h0 c) ∧ fmF32.read false ((w.r.vec 2).get 31).toNat = .inf false ∧ ((w.r.vec 2).get 0).toInt < 0) ∧
    (let w := lineWave.withS 6 32
     (∃ c, RunsIn (lineState w) h0 c) ∧ (w.r.sc 6).toNat % 64 ≠ 0) := by
  have hw (w : Wave) (hu : w.uid = 2) : ∃ c, RunsIn (waveState w) h0 c := by
    obtain ⟨c, hc, -⟩ := (running_wave w hu).runsIn; exact ⟨c, hc⟩
  have hl (w : Wave) : ∃ c, RunsIn (lineState w) h0 c := by obtain ⟨c, hc, -⟩ := (running_line w).runsIn; exact ⟨c, hc⟩
  exact ⟨hl _, ⟨hw _ rfl, by decide +kernel⟩, ⟨hw _ rfl, by decide +kernel⟩, ⟨hw _ rfl, by decide +kernel, by decide +kernel⟩, hl _, by decide +kernel⟩

/-- A head of 64 by 2 active pixels, 1000 cycles a line, one line of lead, line 0 of frame 0 at cycle 1000; a line core runs its band. -/
def scanHead : HeadUnit :=
  { headReset 0 with en := true, f0 := 1000, desc := [63 + 1 * 2 ^ 16 + 3 * 2 ^ 32 + 1000 * 2 ^ 48, 0x40, 0, 0, 0, 0, 0, 0] }
def bandRun : Run := { head := 0, entry := 0, frame := 0, first := 0, lines := 2, popped := none }
def bandCore (w : Wave) : LineCore := { lineCoreReset 0 with wave := some w, run := some bandRun }
/-- The core's group at a time in ticks; s5 and s6 hold the operands. -/
def bandState (a b : Dword) (now : Nat) : State :=
  let w := (lineWave.withS 5 a).withS 6 b
  { State.reset with now, flight := some (lineFlight w), disp := { lines := [bandCore w], heads := [scanHead], mailbox := [] } }
/-- What an operation of a line core sees, with its run, satisfies a test. -/
def bandSees (s : State) (p : Ctx → LineCtx → Bool) : Bool := (slotCtx s h0).any fun c => c.run != 0 && (s.lineCtx c).any fun l => p c l
theorem bandSees_runs {s : State} {p : Ctx → LineCtx → Bool} (hs : bandSees s p = true) :
    ∃ c l, RunsIn s h0 c ∧ s.lineCtx c = some l ∧ p c l = true := by
  obtain ⟨c, hr, hp⟩ := sees_runs hs
  obtain ⟨l, hl, h⟩ := (Option.any_eq_true _ _).1 hp
  exact ⟨c, l, hr, hl, h⟩
/-- The last segment of a line and a span to its end, both in time; operands that are out of range; a pose to come. -/
def earlyState : State := bandState (32 * 2 ^ 16) 0 0
theorem witness_LineOperations :
    (∃ c l, RunsIn earlyState h0 c ∧ earlyState.lineCtx c = some l ∧
      (l.run.first ≤ 0 ∧ 0 < l.run.first + l.run.lines ∧ 32 < l.head.width ∧ l.at' ≤ l.head.deadline l.run.frame (0 : Nat) - 2) ∧
      (∀ z, z ∈ (earlyState.head l.run.head).lines → ¬ (z.frame = l.run.frame ∧ z.line = 0)) ∧
      ((earlyState.dcycle : Int) ≤ l.head.latchAt l.run.frame (0 : Nat) ∧ 0 < l.head.ltime) ∧ l.line.xq = []) ∧
    (bits (32 * 2 ^ 16 : Dword) 63 32 = 0 ∧ bits (64 * 2 ^ 32 + 32 * 2 ^ 16 : Dword) 63 48 = 0 ∧ bits (64 * 2 ^ 32 + 32 * 2 ^ 16 : Dword) 47 32 = 64 ∧
      bits (2 ^ 16 : Dword) 31 16 % 32 ≠ 0 ∧ bits (2 ^ 16 : Dword) 63 16 ≠ 0 ∧ bits (0 : Dword) 63 16 = 0) := by
  refine ⟨?_, by decide⟩
  obtain ⟨c, l, hr, hl, h⟩ := bandSees_runs (s := earlyState) (p := fun _ l =>
    (decide (l.run.first ≤ 0 ∧ 0 < l.run.first + l.run.lines ∧ 32 < l.head.width ∧ l.at' ≤ l.head.deadline l.run.frame (0 : Nat) - 2) &&
     decide (∀ z, z ∈ (earlyState.head l.run.head).lines → ¬ (z.frame = l.run.frame ∧ z.line = 0))) &&
    (decide ((earlyState.dcycle : Int) ≤ l.head.latchAt l.run.frame (0 : Nat) ∧ 0 < l.head.ltime) && l.line.xq.isEmpty)) (by decide +kernel)
  simp only [Bool.and_eq_true, decide_eq_true_eq, List.isEmpty_iff] at h
  exact ⟨c, l, hr, hl, h.1.1, h.1.2, h.2.1, h.2.2⟩
/-- The last entry of the atlas; a pose and a record that are there; an illegal range; before and after the scan-out of the line. -/
def midState : State := bandState 0 (1 * 2 ^ 16 + 1023) 450
def lateState : State := bandState 0 (2 ^ 27) 45045
theorem witness_LineOperations_later :
    (∃ c l, RunsIn midState h0 c ∧ midState.lineCtx c = some l ∧
      (bits (c.w.r.sc 5) 63 16 = 0 ∧ l.head.latchAt l.run.frame (0 : Nat) < (midState.dcycle : Int) ∧ l.head.cur = none) ∧
      (min (bits (c.w.r.sc 6) 26 16) (1024 - bits (c.w.r.sc 6) 9 0) = 1 ∧ bits (c.w.r.sc 6) 15 10 = 0 ∧ bits (c.w.r.sc 6) 63 27 = 0) ∧
      midState.range (c.w.r.sc 5).toNat = .mem ∧ ¬ l.head.scanAt l.run.frame (0 : Nat) < (midState.dcycle : Int)) ∧
    ∃ c l, RunsIn lateState h0 c ∧ lateState.lineCtx c = some l ∧ bits (c.w.r.sc 6) 63 27 ≠ 0 ∧
      l.head.scanAt l.run.frame (0 : Nat) < (lateState.dcycle : Int) := by
  constructor
  · obtain ⟨c, l, hr, hl, h⟩ := bandSees_runs (s := midState) (p := fun c l =>
      (decide (bits (c.w.r.sc 5) 63 16 = 0 ∧ l.head.latchAt l.run.frame (0 : Nat) < (midState.dcycle : Int) ∧ l.head.cur = none) &&
       decide (min (bits (c.w.r.sc 6) 26 16) (1024 - bits (c.w.r.sc 6) 9 0) = 1 ∧ bits (c.w.r.sc 6) 15 10 = 0 ∧ bits (c.w.r.sc 6) 63 27 = 0)) &&
      decide (midState.range (c.w.r.sc 5).toNat = .mem ∧ ¬ l.head.scanAt l.run.frame (0 : Nat) < (midState.dcycle : Int))) (by decide +kernel)
    simp only [Bool.and_eq_true, decide_eq_true_eq] at h
    exact ⟨c, l, hr, hl, h.1.1, h.1.2, h.2⟩
  · obtain ⟨c, l, hr, hl, h⟩ := bandSees_runs (s := lateState) (p := fun c l => decide (
      bits (c.w.r.sc 6) 63 27 ≠ 0 ∧ l.head.scanAt l.run.frame (0 : Nat) < (lateState.dcycle : Int))) (by decide +kernel)
    exact ⟨c, l, hr, hl, of_decide_eq_true h⟩

/-- Slot 0 maps its first gibibyte to device memory at the same addresses, write-back, with every permission; core 0 holds page 0x10;
memory lists some cells more. The device has a copy of the region block at 0: 65,535 lines, ten cycles of watchdog. -/
def mapped (s : State) (more : Cells) : State :=
  { s with sys := { s.sys with ctxTable := 0x1000 },
           regions := [{ slot := 0, addr := 0, words := [0, 0, 0xFFFF0000, 10, 0, 0, 0, 0] }],
           mem := [(0x1000, 0x01), (0x1001, 0x20), (0x2000, 0x01), (0x2001, 0x30), (0x3000, 0x1F)] ++ more,
           cores := [{ coreReset 0 with tlb := [{ slot := 0, vpage := 0x10, pa := 0x10000, w := true, x := true, u := true, mt := 0, pages := 262144 }] }] }
/-- An access that core g's translation holds as the tables give it passes its checks and leaves the state as it is. -/
theorem checkVa_held {s : State} {g slot : Nat} {priv : Bool} {k : Acc} {size : Nat} {va : Dword} (e : TlbEntry) (vp pa : Nat)
    (hb : bits va 63 56 = 0) (hv : va.toNat / 4096 = vp) (hpa : e.pa + va.toNat % 4096 = pa)
    (h : s.walk (some (dieOf g)) slot vp false = .ok e ∧ s.walk (some (dieOf g)) slot vp true = .ok e)
    (ht : (s.core g).tlb.find? (fun e => e.slot == slot && e.vpage == vp) = some e)
    (hp : s.permOk e pa size priv k = true) (hm : s.mtOf e.mt pa = 0) : s.checkVa g slot priv k size false va = (s, .ok pa 0) := by
  have ht' : s.translate (some g) slot va.toNat = (s, .ok e) := by
    simp only [State.translate, hv, Option.map_some, State.walkAny, h.1, h.2, beq_self_eq_true, if_true, ht]
  simp only [State.checkVa, hb, bne_self_eq_false, Bool.false_eq_true, if_false, ht', hpa, hp, if_true, hm]
theorem queueOf_held {s : State} {c : Ctx} {hdr : Dword} {t : Nat} (hm : bits hdr 5 0 = 0) (hpl : c.fl.placed = [])
    (h : s.checkVa c.core (s.slotOf c.w) (s.priv c.w) .atom 8 false (hdr + 0x18) = (s, .ok t 0)) :
    s.queueOf c hdr = (s, .inr
      { head := s.dieWord c.core (t - 0x18 + 8 * 2), tail := s.dieWord c.core (t - 0x18 + 8 * 3), ring := s.dieWord c.core (t - 0x18 + 8 * 0),
        cap := 2 ^ bits (s.dieWord c.core (t - 0x18 + 8 * 1)) 4 0, tailPa := t }) := by
  simp only [State.queueOf, State.headerAcc, State.taskAcc, Ctx.placed?, Ctx.place?, hpl, List.find?_nil, Option.bind_none, State.queueAt, hm, h,
    bne_self_eq_false]
/-- A wave with a header of a queue of 16 records at 0x10000 in s5, its ring at 0x10100; nothing in it. -/
def taskWave : Wave := wave0.withS 5 0x10000
def taskState : State := mapped (waveState taskWave) [(0x10001, 0x01), (0x10002, 0x01), (0x10008, 4)]
def benchState (n : Nat) : State :=
  let c : Cmd := { uid := 9, wave := 2, group := 1, core := 0, op := .nop h0, run := [], td := 0, deps := [], banks := [], prog := 0, aux := [],
                   started := false, priv := false }
  { waveState wave0 with groups := [{ soloGroup 1 0 with bench := List.replicate n c }] }
def engFields (md : BitVec 7) : EFmt := { tn := 3, td := 8, t1 := 9, t2 := 10, t3 := 11, a := 20, md }
/-- Commands with three tokens; dlaunch with room for one more and with a full bench, waiting and not; a fork whose header, place
and memory are at hand. -/
theorem witness_CommandsAndTasks :
    (∃ c g, RunsIn (benchState 3) h0 c ∧ (benchState 3).group? c.w.group = some g ∧ g.bench.length < 4) ∧
    (∃ c g, RunsIn (benchState 4) h0 c ∧ (benchState 4).group? c.w.group = some g ∧ 4 ≤ g.bench.length) ∧
    ((engFields 0x20).md.getLsbD 5 = true ∧ (engFields 0).md.getLsbD 5 = false) ∧
    (∃ c q pa, RunsIn taskState h0 c ∧ taskState.queueOf c (c.w.r.sc 5) = (taskState, .inr q) ∧ q.full = false ∧
      taskState.taskAcc c .store false q.at' = (taskState, .inr pa) ∧ (taskState.core c.core).wc = []) ∧
    taskState.l2 = [] ∧ taskState.rep.state = 0 := by
  refine ⟨?_, ?_, by decide, ?_, by decide +kernel, by decide +kernel⟩
  · obtain ⟨c, hr, h⟩ := sees_runs (s := benchState 3) (h := h0) (p := fun c => ((benchState 3).group? c.w.group).any fun (g : Group) => decide (g.bench.length < 4))
      (by decide +kernel)
    obtain ⟨g, hg, hl⟩ := (Option.any_eq_true _ _).1 h
    exact ⟨c, g, hr, hg, of_decide_eq_true hl⟩
  · obtain ⟨c, hr, h⟩ := sees_runs (s := benchState 4) (h := h0) (p := fun c => ((benchState 4).group? c.w.group).any fun (g : Group) => decide (4 ≤ g.bench.length))
      (by decide +kernel)
    obtain ⟨g, hg, hl⟩ := (Option.any_eq_true _ _).1 h
    exact ⟨c, g, hr, hg, of_decide_eq_true hl⟩
  · let e : TlbEntry := { slot := 0, vpage := 0x10, pa := 0x10000, w := true, x := true, u := true, mt := 0, pages := 262144 }
    obtain ⟨c, hr, h⟩ := sees_runs (s := taskState) (h := h0) (p := fun c => decide (c.core = 0 ∧ c.w.r.sc 5 = 0x10000 ∧ taskState.slotOf c.w = 0 ∧ c.fl.placed = []))
      (by decide +kernel)
    obtain ⟨hc, h5, hs, hpl⟩ := of_decide_eq_true h
    have hw : taskState.walk (some (dieOf 0)) 0 0x10 false = .ok e ∧ taskState.walk (some (dieOf 0)) 0 0x10 true = .ok e := by decide +kernel
    have ht : (taskState.core 0).tlb.find? (fun e => e.slot == 0 && e.vpage == 0x10) = some e := by decide +kernel
    have hp (k : Acc) (pa : Nat) (h : k = .atom ∨ k = .store) (hpa : taskState.range pa = .mem) : taskState.permOk e pa 8 (taskState.priv c.w) k = true := by
      rcases h with rfl | rfl <;> simp [State.permOk, hpa, State.mtOf, e, Acc.writes]
    have hq := queueOf_held (s := taskState) (c := c) (hdr := 0x10000) (t := 0x10018) (by decide) hpl (by
      rw [hc, hs]
      exact checkVa_held e 0x10 0x10018 (by decide) (by decide) (by decide) hw ht (hp .atom 0x10018 (.inl rfl) (by decide +kernel)) (by decide +kernel))
    have ha : taskState.taskAcc c .store false 0x10100 = (taskState, .inr 0x10100) := by
      simp only [State.taskAcc, Ctx.placed?, Ctx.place?, hpl, List.find?_nil, Option.bind_none]
      rw [hc, hs, checkVa_held e 0x10 0x10100 (by decide) (by decide) (by decide) hw ht (hp .store 0x10100 (.inr rfl) (by decide +kernel)) (by decide +kernel)]
    refine ⟨c, _, 0x10100, hr, by rw [h5]; exact hq, ?_, ?_, by rw [hc]; decide +kernel⟩
    · rw [hc]; decide +kernel
    · rw [hc, show Queue.at' _ = (0x10100 : Dword) by decide +kernel]; exact ha

/-- A wave at 0x10000 whose threads were sent there through b2, whose entry holds an empty bundle and waits for one bundle more. -/
def targetEntry : PTEntry := { base := 0x10000, got := [plainBundle], left := 1, next := 0, fault := false }
def issueWave : Wave :=
  { wave0 with threads := Vector.replicate 32 { wave0.threads.get 0 with pc := 0x10000, via := some 2 },
               targets := wave0.targets.setIfInBounds 2 targetEntry, cursor := 0x10000,
               lines := { wave0.lines with resident := BitVec.allOnes 133, dead := 0 } }
def issueState : State := { mapped (idleState issueWave) [] with cores := [{ coreReset 0 with lru := [(2, 131)] }] }
def lineBundle : FBundle := { plainBundle with bits := 3 }
def issueLine : LineCore :=
  { bandCore { lineWave with threads := Vector.replicate 32 { lineWave.threads.get 0 with pc := 0x10000, via := some 2 } } with
    atlas := [(0, 1)], pt := (lineCoreReset 0).pt.setIfInBounds 2 { targetEntry with got := [lineBundle] } }
def issueLineState : State := { State.reset with disp := { lines := [issueLine], heads := [scanHead], mailbox := [] } }
/-- A transfer of a wave and of a line core, with a test. -/
theorem witness_GroupEnd :
    ((waveState wave0).flight = some (flightOf wave0) ∧ (waveState wave0).owner (flightOf wave0).owner = some wave0 ∧ (flightOf wave0).bundles ≠ [] ∧
      (flightOf wave0).trap = none ∧ (flightOf wave0).waits = [] ∧ (flightOf wave0).meets = [] ∧ (flightOf wave0).kills = [] ∧
      (flightOf wave0).stochW = [] ∧ (flightOf wave0).ctl = .none ∧ wave0.r.loops = [] ∧ (flightOf wave0).lanes ≠ 0 ∧
      (∀ i : Fin 32, (wave0.threads.get i).st = .runnable) ∧ wave0.c.stepOnce = false) ∧
    ((lineState lineWave).flight = some (lineFlight lineWave) ∧ (lineState lineWave).owner (lineFlight lineWave).owner = some lineWave ∧
      (lineFlight lineWave).ctl = .none ∧ lineWave.r.loops = [] ∧ ∀ r, ((lineState lineWave).line 0).run = some r → r.closing = false) := by
  refine ⟨⟨rfl, rfl, by decide, rfl, rfl, rfl, rfl, rfl, rfl, rfl, by decide, by decide +kernel, rfl⟩, ⟨rfl, rfl, rfl, rfl, ?_⟩⟩
  intro r hr; cases hr; rfl

/-- A fetch from an entry that holds the bundle leaves the state as it is, and the bundle closes its group. -/
theorem fetchGroup_held {s : State} {w : Wave} {b : FBundle} (hs : hdrStop b.bits = true)
    (h : ((w.cur.lowest.bind fun i => (w.threads.get i).via).bind fun bt => (w.targets.get ⟨bt.toNat, bt.isLt⟩).look w.nextPc) = some (some b)) :
    s.fetchGroup w = (s, .got [b]) := by
  have hb : s.fetchBundle w (w.cur.lowest.bind fun i => (w.threads.get i).via) w.loopBack w.nextPc = (s, .got b) := by
    simp only [State.fetchBundle, h]
  simp [State.fetchGroup, fetchRun, hb, hs]
theorem fetchRunLine_held {s : State} {k : Nat} {via : Option (BitVec 3)} {back : Option LoopEntry} {a : Dword} {b : FBundle}
    (hs : hdrStop b.bits = true) (h : (via.bind fun bt => ((s.line k).pt.get ⟨bt.toNat, bt.isLt⟩).look a) = some (some b)) :
    fetchRun (fun s a => s.fetchLineVia k via back a) 4 s a [] = (s, .got [b]) := by
  have hb : s.fetchLineVia k via back a = (s, .got b) := by
    cases via with
    | none => cases h
    | some bt => simp only [Option.bind_some] at h; simp only [State.fetchLineVia, Option.map_some, Option.bind_some, h]
  simp [fetchRun, hb, hs]
/-- A group of empty bundles passes its checks and leaves the state as it is. -/
theorem dataVerdict_empty {s : State} {fl : Flight} {w : Wave} (h : treePoison fl w = .go) (hp : fl.placed = []) :
    s.dataVerdict fl w [] = (s, .go, []) := by
  simp [State.dataVerdict, firstVerdict, Verdict.orElse, h, State.opsVerdict, hp]
/-- A bundle that can be fetched through L1. -/
def fetches (f : State × Fetched FBundle) : Option Bool := match f.2 with | .got _ => some true | .bad _ _ => some false | _ => none
theorem fetchBundle_through {s : State} {w : Wave} {a : Dword} {pa mt : Nat}
    (h : (s.checkVa (s.coreOf w) (s.slotOf w) (s.priv w) .fetch 64 (a.toNat % 64 != 0) a).2 = .ok pa mt) :
    fetches (s.fetchBundle w none none a) = some true := by
  simp [fetches, State.fetchBundle, h]
theorem fetchBundle_fault {s : State} {w : Wave} {a : Dword} {k : Nat} {c : Byte}
    (h : (s.checkVa (s.coreOf w) (s.slotOf w) (s.priv w) .fetch 64 (a.toNat % 64 != 0) a).2 = .bad k c) :
    fetches (s.fetchBundle w none none a) = some false := by
  simp [fetches, State.fetchBundle, h]
theorem fetchLine_through {s : State} {k : Nat} {a : Dword} {p : Nat × Bool} (h : (s.line k).look a = .inr p) (hp : s.lineRange p.1 64 false = true) :
    fetches (s.fetchLine k a) = some true := by
  simp [fetches, State.fetchLine, h, hp]

def issueLineWave : Wave := issueLine.wave.getD lineWave
def issueLineBase : State := (issueLineState.setLine (issueLineState.line 0)).modLine 0 fun (l : LineCore) => { l with base := issueLineState.dcycle }
/-- A wave and a line core that issue a group. -/
theorem witness_GroupIssue :
    (∃ w, issueState.selectWave 0 = some w ∧ (issueState.flight = none ∧ issueState.rep.waiting = [] ∧ issueState.rep.state ≠ 2 ∧ (issueState.core 0).free ≤ issueState.cycle ∧
        issueState.withheldNow = false) ∧ issueState.wdogOver w 1 = false ∧
      issueState.fetchGroup w = (issueState, .got [plainBundle]) ∧ plainBundle.bad = false ∧
      encodingVerdict .c w.surveyor w.pair.isSome [plainBundle] w.cur = (some [], .go) ∧
      (let fl := newFlight (.wave w.uid) w.r w.nextPc [plainBundle] w.cur []
       issueState.dataVerdict fl w [] = (issueState, .go, []) ∧ issueState.holdVerdict fl w [] = .go)) ∧
    ((issueLineState.flight = none ∧ (issueLineState.line 0).land = issueLineState.line 0 ∧ (issueLineState.line 0).wave = some issueLineWave ∧
      (issueLineState.line 0).run = some bandRun ∧ (issueLineState.line 0).wait = none ∧ (issueLineState.line 0).free ≤ issueLineState.now) ∧
     (let r := issueLineState.setLine (issueLineState.line 0)
      fetchRun (fun s a => s.fetchLineVia 0 (issueLineWave.threads.get 0).via issueLineWave.loopBack a) 4 r (issueLineWave.threads.get 0).pc []
        = (r, .got [lineBundle])) ∧
     encodingVerdict .d false false [lineBundle] (BitVec.allOnes 32) = (some [], .go) ∧
     issueLineBase.dataVerdict (newFlight (.line 0) issueLineWave.r (issueLineWave.threads.get 0).pc [lineBundle] (BitVec.allOnes 32) [])
       issueLineWave [] = (issueLineBase, .go, [])) := by
  constructor
  · have h : (issueState.selectWave 0).any (fun w => decide (issueState.wdogOver w 1 = false ∧
        ((w.cur.lowest.bind fun i => (w.threads.get i).via).bind fun bt => (w.targets.get ⟨bt.toNat, bt.isLt⟩).look w.nextPc)
          = some (some plainBundle) ∧ encodingVerdict .c w.surveyor w.pair.isSome [plainBundle] w.cur = (some [], .go) ∧
        treePoison (newFlight (.wave w.uid) w.r w.nextPc [plainBundle] w.cur []) w = .go ∧
        issueState.holdVerdict (newFlight (.wave w.uid) w.r w.nextPc [plainBundle] w.cur []) w [] = .go)) = true := by decide +kernel
    obtain ⟨w, hw, h⟩ := (Option.any_eq_true _ _).1 h
    obtain ⟨h1, h2, h3, h4, h5⟩ := of_decide_eq_true h
    exact ⟨w, hw, by decide +kernel, h1, fetchGroup_held (by decide +kernel) h2, rfl, h3, dataVerdict_empty h4 rfl, h5⟩
  · exact ⟨⟨rfl, rfl, rfl, rfl, rfl, by decide⟩, fetchRunLine_held (by decide +kernel) (by decide +kernel), by decide +kernel, dataVerdict_empty (by decide +kernel) rfl⟩
/-- A target buffer entry whose next bundle can be fetched, and one past what is mapped. -/
def farEntry : PTEntry := { targetEntry with base := 0x40000000, left := 2 }
def nextAddr (e : PTEntry) : Dword := e.base + BitVec.ofNat 64 (64 * e.got.length)
theorem witness_GroupIssue_fills :
    (∃ w, issueState.wave? 2 = some w ∧ w.targets.toList[2]? = some targetEntry ∧ targetEntry.left ≠ 0 ∧ targetEntry.next ≤ issueState.cycle ∧
      w.isActive = true ∧ fetches (issueState.fetchBundle w none none (nextAddr targetEntry)) = some true ∧
      fetches (issueState.fetchBundle w none none (nextAddr farEntry)) = some false) ∧
    ((issueLineState.line 0).run ≠ none ∧ (issueLineState.line 0).pt.toList[2]? = some { targetEntry with got := [lineBundle] } ∧
      targetEntry.next ≤ (issueLineState.line 0).count issueLineState.dcycle) ∧
    fetches (issueLineState.fetchLine 0 (nextAddr targetEntry)) = some true ∧ fetches (issueLineState.fetchLine 0 (nextAddr farEntry)) = some false := by
  refine ⟨⟨issueWave, rfl, by decide +kernel, by decide, by decide +kernel, rfl, fetchBundle_through (pa := 0x10040) (mt := 0) (by decide +kernel),
    fetchBundle_fault (k := 5) (c := 6) (by decide +kernel)⟩, by decide +kernel, fetchLine_through (p := (0x10040, false)) (by decide +kernel) (by decide +kernel), by decide +kernel⟩

/-! Steps that no program issues. -/

/-- A wave between steps, with the operands of a step; its context lies at 0x20000, where slot 0 maps. -/
def arg (a b : Nat) (c : Nat := 0) (x : Dword := 0) : Arg := { a, b, c, x }
def ctxWave : Wave := { wave0 with ctx := 0x20000 }
def stepWith (w : Wave) (g : Arg) : State := { mapped (idleState w) [] with arg := g }
/-- Thread 31 waits for cycle 0, which has come. -/
def waitingWave (k : WKind) : Wave :=
  let t : Thread := { wave0.threads.get 0 with st := .waiting, wkind := k, wpd := 3 }
  { wave0 with threads := wave0.threads.setIfInBounds 31 t, c := { wave0.c with mon := some 64 } }
/-- A wave that has never run, and one ready to return with a full core. -/
def freshWave : Wave := { ctxWave with act := .dormant 0 true false }
def stoppedWave : Wave := { ctxWave with c := { wave0.c with stopped := true } }
def crowd : List Wave := (List.range 63).map fun k => { wave0 with uid := 100 + k, act := .active (k + 1) 0 }
def crowdState : State := { stepWith stoppedWave (arg 2 0) with waves := stoppedWave :: { freshWave with uid := 99 } :: crowd, nextUid := 200 }
def fullState : State := { crowdState with arg := arg 0 0 }
/-- A wave that goes to 0x10000, whose next group reads v5: v5 is not here, or waits for a place. -/
def readBundle : FBundle := { bits := 1 + 0x00_2A05_0500_0000 * 2 ^ 120, bad := false }
def readWave (lines : BitVec 133) : Wave :=
  { ctxWave with threads := Vector.replicate 32 { wave0.threads.get 0 with pc := 0x10000, via := some 2 }, cursor := 0x10000,
                 targets := wave0.targets.setIfInBounds 2 { targetEntry with got := [readBundle] },
                 lines := { wave0.lines with resident := lines, dead := 0 } }
def tiredWave : Wave := { readWave (BitVec.allOnes 133) with c := { wave0.c with wdog := 10 } }
/-- The same core with its profile set to another slot. -/
def readState (lines : BitVec 133) : State :=
  (stepWith (readWave lines) (arg 2 5)).modCore 0 fun (c : Core) => { c with trace := { c.trace with entry := [0, 0, 0, 0, 0, 0x40040, 0, 0] } }
/-- Waits and sleeps that are over in lane 31; a limited wait whose predicate the wave holds. -/
theorem witness_WaveSteps_waits :
    (let w := waitingWave .sleep
     (stepWith w (arg 2 31)).wave? (arg 2 31).a = some w ∧ (arg 2 31).b = (31 : Fin 32).val ∧ (w.threads.get 31).st = .waiting ∧
      (w.threads.get 31).wkind = .sleep ∧ (BitVec.ofNat 48 (stepWith w (arg 2 31)).cycle - (w.threads.get 31).wend).toNat < 2 ^ 47) ∧
    (let w := { waitingWave .waitLim with lines := { wave0.lines with resident := BitVec.allOnes 133, dead := 0 } }
     (stepWith w (arg 2 31)).wave? 2 = some w ∧ (w.threads.get 31).wkind = .waitLim ∧ w.isActive = true ∧ w.holds 132 = true ∧ w.owed = [] ∧
      (w.threads.get 31).wpd ≠ 0) ∧
    (let w := waitingWave .wait
     w.c.mon = some 64 ∧ (w.threads.get 31).st = .waiting ∧ (w.threads.get 31).wkind = .wait ∧
      ∀ y, y ∈ (stepWith w (arg 2 0)).waves → 64 ∉ y.c.parkLines ∧ ∀ e, e ∈ y.c.pinAt → e.2 ≠ 64) ∧
    (let w := waitingWave .sleep
     w.c.mon = some 64 ∧ w.c.mon ≠ some 65 ∧ ∀ k : Fin 32, ¬((w.threads.get k).st = .waiting ∧ ((w.threads.get k).wkind = .wait ∨ (w.threads.get k).wkind = .waitLim))) :=
  ⟨⟨rfl, by decide +kernel⟩, ⟨rfl, by decide +kernel⟩, by decide +kernel, by decide +kernel⟩
/-- A fresh wave with a free slot; a stopped wave that leaves a full core; a line to read, a line to place, and a wave past its limit. -/
theorem witness_WaveSteps :
    (let s := stepWith freshWave (arg 2 0)
     s.wave? 2 = some freshWave ∧ s.coreOf freshWave = 0 ∧ (s.firstReady 0).map (fun x => x.uid) = some 2 ∧ freshWave.pair = none ∧
      s.freeSlots 0 = 0 :: (List.range 64).drop 1 ∧ freshWave.act = .dormant 0 true false) ∧
    (crowdState.wave? 2 = some stoppedWave ∧ (crowdState.victimNow 0).map (fun v => v.2.uid) = some 2 ∧ stoppedWave.pair = none ∧
      stoppedWave.act = .active 0 0 ∧ stoppedWave.dirtyLines = [] ∧ stoppedWave.c.kept = [] ∧ stoppedWave.owed = [] ∧
      (crowdState.putHeader 0 (crowdState.slotOf stoppedWave) stoppedWave).2 = none) ∧
    (∃ c w, crowdState.victimNow { crowdState with arg := arg 0 0 }.arg.a = some (c, w)) ∧
    (let s := readState (~~~(1#133 <<< 5))
     let w := readWave (~~~(1#133 <<< 5))
     s.wave? 2 = some w ∧ s.readiness w = .line 5 true ∧ s.arg.b = 5 ∧ s.rcRoom w = true ∧ (s.core (s.coreOf w)).counted (s.slotOf w) = false ∧
      w.lines.legend.toList.getD 5 0 = 0 ∧
      ∃ r bs, s.ctxRead (s.coreOf w) (s.slotOf w) (w.ctx + BitVec.ofNat 64 (0x1000 + 128 * 5)) 128 5 = (r, .inr bs) ∧ (r.wave? 2).isSome = true) ∧
    (let w := readWave (BitVec.allOnes 133)
     (readState (BitVec.allOnes 133)).readiness w = .line 5 false ∧ (readState (BitVec.allOnes 133)).rcRoom w = true) ∧
    (let s := stepWith tiredWave (arg 2 0)
     s.wave? 2 = some tiredWave ∧ tiredWave.isActive = true ∧ tiredWave.c.stopped = false ∧ tiredWave.c.halted = false ∧ tiredWave.cur ≠ 0 ∧
      (s.fetchGroup tiredWave).2 = .got [readBundle] ∧ s.wdogOver tiredWave 1 = true) := by
  refine ⟨⟨rfl, by decide +kernel⟩, ⟨rfl, by decide +kernel⟩, ?_, ⟨rfl, by decide +kernel, rfl, by decide +kernel, by decide +kernel, by decide +kernel, ?_⟩,
    by decide +kernel, ⟨rfl, rfl, rfl, rfl, by decide, by rw [fetchGroup_held (b := readBundle) (by decide +kernel) (by decide +kernel)], by decide +kernel⟩⟩
  · obtain ⟨e, he⟩ := Option.isSome_iff_exists.1 (show (crowdState.victimNow 0).isSome = true by decide +kernel)
    exact ⟨e.1, e.2, he⟩
  · have h : (match (readState (~~~(1#133 <<< 5))).ctxRead 0 0 0x21280 128 5 with
        | (r, .inr _) => (r.wave? 2).isSome | (_, .inl _) => false) = true := by decide +kernel
    generalize hx : (readState (~~~(1#133 <<< 5))).ctxRead 0 0 0x21280 128 5 = x at h
    obtain ⟨r, _ | bs⟩ := x
    · cases h
    · exact ⟨r, bs, hx, h⟩

/-! Queues, debug and the device's life. -/

/-- A packet of queue 0 at 0x4000: SEQ 1, OP, its third and fourth words. -/
def pktCells (op : Byte) (va x : Byte) : Cells := [(0x4000, 1), (0x4008, op), (0x4011, va), (0x4018, x)].filter fun e => e.2 != 0
def queueOn : CmdQueue := { queueReset 0 with base := 0x4000, ctl := 0x9 }
def queueState (q : CmdQueue) (cells : Cells) (g : Arg) : State :=
  { State.reset with hub := { State.reset.hub with queues := [q] }, mem := cells, arg := g }
/-- The packet of a queue's state as the front end reads it. -/
def packetOf (s : State) : List Dword := match s.cqPacket (s.queue 0) with | some (.inr ws) => ws | _ => []
theorem packetOf_read {s : State} (h : (packetOf s).length = 8) : s.cqPacket (s.queue 0) = some (.inr (packetOf s)) := by
  unfold packetOf at h ⊢
  split at h
  · assumption
  · cases h
/-- A queue disabled and enabled; a kick and a timer with and without a packet; a packet that faults; a packet of every operation. -/
theorem witness_QueueSteps :
    ((queueReset 0).ctl.getLsbD 0 = false ∧ (arg 0 1 0 9).x.getLsbD 0 = true ∧ 4 ≤ (arg 0 1 0 9).x.toNat / 2 % 32 ∧ (arg 0 1 0 9).x.toNat / 2 % 32 ≤ 16) ∧
    (queueOn.ctl.getLsbD 0 = true ∧ (arg 0 1).x.getLsbD 0 = false ∧ queueOn.up = true ∧ queueOn.state = .reading) ∧
    (queueState queueOn [] (arg 0 0)).cqPacket queueOn = none ∧ (queueState queueOn (pktCells 0 0 0) (arg 0 0)).cqPacket queueOn ≠ none ∧
    (∃ t, ({ queueOn with timer := some 5 } : CmdQueue).timer = some t ∧ t ≤ 7) ∧
    ((queueState { queueOn with base := 0x7000000000 } [] (arg 0 0)).cqPacket { queueOn with base := 0x7000000000 } = some (.inl 0x81)) ∧
    (∀ op : Fin 6, let s := queueState queueOn (pktCells (BitVec.ofNat 8 op) 0x50 7) (arg 0 0)
      s.cqPacket (s.queue 0) = some (.inr (packetOf s)) ∧ ((packetOf s).getD 1 0).toNat % 256 = op.val ∧ cqReserved (packetOf s) = false ∧
      ((packetOf s).getD 2 0).toNat = 0x5000 ∧ ((packetOf s).getD 3 0).toNat = 7 ∧ queueOn.live = [] ∧ 0x5000 + 8 ≤ s.life.memTop ∧
      (s.touchView (0x5000 / 128)).llcBytes 0x5000 8 = cleanBytes 8 0 ∧ s.sw.queue.length < 16) := by
  refine ⟨by decide, by decide, by decide +kernel, by decide +kernel, ⟨5, rfl, by decide⟩, by decide +kernel, fun op => ⟨packetOf_read ?_, ?_⟩⟩
  · revert op; decide +kernel
  · revert op; decide +kernel

/-- A device whose debug slot is 0, enabled, halted for a cause. -/
def dbgState (w : Wave) (ctl : Dword) (cause : Nat) (g : Arg) : State :=
  { idleState w with dbg := { State.reset.dbg with ctl := ctl, cause := cause }, arg := g }
def sampleCore : Core :=
  { coreReset 0 with trace := { (coreReset 0).trace with entry := [0x5000, 0x10221, 0, 0, 0, 2, 0, 0], nextSample := 0 } }
def goodStart : StartReport :=
  { imageFail := none, ownImageOk := true, trained := BitVec.allOnes 48, fails := [], fabricOk := true, portsOk := true, hang := none }
def replayLog : RLog := { unit := 3, base := 0, log2 := 12, count := 2, limit := 5, since := some 0, runWave := none, runLen := 0 }
/-- A service request at 0x6000: its first word, and where its status goes. -/
def svcState (op : Byte) : State :=
  { State.reset with mem := [(0x6000, op), (0x6021, 0x70)], life := { lifeReset with serviceQ := [0x6000] } }
def svcWords (s : State) : List Dword := match s.svcHead with | some (_, .inr ws) => ws | _ => []
/-- A slot that is armed, halted, stepped and made dormant; a core whose sample is due; a slot without grids and with one; a wait
beyond its limit; a start, a trip and a sample of power; a service request of every operation; an image that waits. -/
theorem witness_DebugReplayLifeSteps :
    (let s := dbgState wave0 0x1000 0 (arg 0 0)
     s.arg.c = 0 ∧ s.dbg.ctl.getLsbD 12 = true ∧ s.dbg.cause = 0 ∧ s.arg.x.getLsbD 10 = false ∧ s.arg.x.toNat % 1024 < 768 ∧ (s.core 0).trace.queue = []) ∧
    (let w := { wave0 with c := { wave0.c with halted := true } }
     let s := dbgState w 0x1000 3 (arg 0 0)
     s.dbg.cause ≠ 0 ∧ s.sectionsOf 0 = [] ∧ s.waves = [w] ∧ w.isActive = true ∧ w.slot = s.arg.b ∧ s.coreOf w = s.arg.a ∧ s.slotOf w = 0 ∧
      w.c.halted = true ∧ w.cur ≠ 0) ∧
    (let s : State := { State.reset with cores := [sampleCore], arg := arg 0 0 }
     (s.core 0).sampling = true ∧ (s.core 0).trace.nextSample ≤ s.cycle) ∧
    (let s : State := { State.reset with mem := [(24, 5)] }
     (∀ r, r ∈ s.grids → r.slot ≠ s.arg.x.toNat % 4096) ∧ (∀ e, e ∈ s.lrateQ → e.rslot = s.arg.x.toNat % 4096 → s.stillWaits e.src = false) ∧
      (s.replayPut 2).repDone = false) ∧
    (¬ ∀ r, r ∈ (idleState wave0).grids → r.slot ≠ (idleState wave0).arg.x.toNat % 4096) ∧
    (let s : State := { State.reset with now := 10000000, rep := { State.reset.rep with state := 2, ctl := 0x100000000, logs := [replayLog] }, arg := arg 3 0 }
     s.rep.logs.find? (fun l => l.unit == s.arg.a) = some replayLog ∧ s.rep.state = 2 ∧ s.rep.ctl.toNat / 2 ^ 32 ≠ 0 ∧
      0 + 40 * 1024 * (s.rep.ctl.toNat / 2 ^ 32) < s.now) ∧
    (goodStart.ownImageOk = true ∧ goodStart.imageFail = none ∧ goodStart.trained = BitVec.allOnes 48 ∧ goodStart.fails = [] ∧ goodStart.fabricOk = true ∧
      goodStart.portsOk = true ∧ goodStart.hang = none ∧ lifeReset.f ≠ 3 ∧ lifeReset.retired = [] ∧ lifeReset.stopCode = none ∧ lifeReset.lastCode = 0 ∧
      lifeReset.state = .ready) ∧
    (let s : State := { State.reset with now := 30 * 72000000000, life := { lifeReset with state := .starting 2 }, arg := arg 2 0 }
     s.life.state = .starting 2 ∧ s.arg.a = 2 ∧ s.life.resetAt + 30 * 72000000000 ≤ s.now) ∧
    (let p : PowerSample := { watts := 700, tmax := 101, coolin := 20, flow := 5 }
     p.tmax < 110 ∧ lifeReset.held ≤ 1000 ∧ 100 ≤ p.tmax) ∧
    (∀ op : Fin 4, let s := svcState (BitVec.ofNat 8 (op + 1))
      s.svcHead = some (0x6000, .inr (svcWords s)) ∧ svcOk (svcWords s) = true ∧ ((svcWords s).getD 0 0).toNat % 16 = op.val + 1 ∧
      s.sw.service = false ∧ s.sw.phase = .idle ∧ s.groups = [] ∧ s.lateWr = []) ∧
    (let i : Image := { kind := 2, version := 5, digest := 0 }
     let s : State := { State.reset with life := { lifeReset with pendingImages := [i] }, arg := arg 2 0 }
     s.life.pendingImages.find? (fun k => k.kind == s.arg.a) = some i ∧ 1 ≤ i.kind ∧ i.kind ≤ 4) ∧
    ((arg 0 0 0 0x8000).x &&& 0x000FFFFFFFFFFF00).toNat + 4096 ≤ lifeReset.memTop := by
  refine ⟨by decide +kernel, ⟨by decide, by decide +kernel, rfl, by decide +kernel⟩, by decide +kernel, by decide +kernel, by decide +kernel, by decide +kernel,
    by decide +kernel, by decide +kernel, by decide +kernel, ?_, by decide +kernel, by decide +kernel⟩
  decide +kernel

/-! Memory's levels, faults, switches and the ring. -/

/-- A peer port that takes every page of the first 4 GiB. -/
def openPeer : PeerPort := { peerReset 0 with en := true, link := true, lim := 0xFFFFFFFF }
def peerState : State := { State.reset with hub := { State.reset.hub with peers := [openPeer] }, mem := [(0x4000, 5)] }
/-- A wave whose monitor lies in an enabled frame partition of one unit. -/
def frameState : State :=
  let w := { wave0 with c := { wave0.c with mon := some 1536 } }
  { idleState w with sys := { State.reset.sys with frameBase := 196608, frameSize := 196608, frameWays := 1 }, arg := arg 0 0 0 393216 }
/-- A buffered store, a map line and a copy of a region block, each old enough; registers of memory and a window; an error of each
sort; a mailbox slot; a peer's and the control node's accesses. -/
theorem witness_MemorySteps :
    (let l : WcLine := { line := 3, data := 0, bad := 0, mask := 1, classes := 1, since := 0 }
     let s : State := { State.reset with now := 40 * 64, cores := [{ coreReset 0 with wc := [l] }], arg := arg 0 0 }
     ∃ l, l ∈ (s.core s.arg.a).wc ∧ l.line = 3 ∧ l.since + 64 ≤ s.cycle) ∧
    (∀ x, x ∈ State.reset.groups → x.core ≠ State.reset.arg.a) ∧
    (frameState.arg.a = 0 ∧ frameState.frameUp = true ∧ (frameState.arg.x &&& 0x000FFFFFFFFFFFFF) ≠ frameState.sys.frameBase ∧
      (∃ y, y ∈ frameState.waves ∧ y.c.mon = some 1536) ∧ frameState.sys.frameBase.toNat < 128 * 1536 + 128 ∧
      128 * 1536 < frameState.sys.frameBase.toNat + frameState.sys.frameSize.toNat) ∧
    (let s : State := { State.reset with sys := { State.reset.sys with fwin := (State.reset.sys.fwin.setIfInBounds 0 0x8000000000).setIfInBounds 3 0x10045 } }
     (s.window 0).map (fun f => (f.view, f.depth, f.readk, f.pages)) = some (0x8000000000, 2, 2, 1)) ∧
    (State.reset.ringRoom = false ∧ 0x4000 + 8 ≤ State.reset.life.memTop) ∧
    (let w := { wave0 with lines := { wave0.lines with resident := BitVec.allOnes 133 } }
     (idleState w).wave? 2 = some w ∧ 127 < 128 ∧ 31 < 32 ∧ w.holds 127 = true) ∧
    (519 < 520 ∧ (List.replicate 64 (1 : Byte)).length = 64 ∧ State.reset.life.memTop ≤ 0x7000000000 ∧
      ¬ (State.reset.head 259).latchesDue State.reset.dcycle > 0 ∧ Memory.wf State.reset.disp.mailbox = true) ∧
    (peerState.inboundOk (peerState.peer 0) 0x4000 4 = true ∧ aopOk .n32 9 = true ∧ Ty.n32.isInt = true ∧ 0x4000 % Ty.n32.size = 0 ∧
      (let u := (peerState.purgeLine (0x4000 / 128)).touchView (0x4000 / 128)
       anyBad (u.llcBytes 0x4000 Ty.n32.size) = false)) ∧
    (let s : State := { peerState with memBad := [0x4001] }
     let u := (s.purgeLine (0x4000 / 128)).touchView (0x4000 / 128)
     anyBad (u.llcBytes 0x4000 Ty.n32.size) = true) := by
  refine ⟨⟨_, List.mem_singleton.2 rfl, by decide +kernel⟩, by decide, by decide +kernel, by decide +kernel, by decide +kernel, ⟨rfl, by decide +kernel⟩, by decide +kernel,
    by decide +kernel, by decide +kernel⟩

/-- A state whose region block at 0 is a root of one core, 32 banks and 6,144 lines; its policy is in w3. -/
def regState (s : State) (w3 : Dword) : State :=
  { s with regions := [{ slot := 0, addr := 0, words := [0, 0xFF00, 0x1002018000001, w3, 0, 0, 0x100000, 0] }] }
/-- A wave that a trap has stopped, and its record, open at index 0 with its time over. -/
def trapRec (code : Byte) : FaultRec :=
  { code, kind := 0, slot := 0, sloti := some 0, detail := 0, region := 0, ctx := 0, pc := 0, next := 8, lanes := 1, addr := 0, info := 0, wave := some 2,
    nexts := [some 8] }
def openTrap (code : Byte) (w3 : Dword) : State :=
  let s := regState (idleState stoppedWave) w3
  { s with fault := { s.fault with opened := [{ idx := 0, r := trapRec code, expires := some 0, handler := none }] }, arg := arg 0 0 }
theorem idle_of_reset {s : State} (hc : s.cores = []) (hg : s.groups.all (fun g => g.bench.isEmpty) = true) (hw : s.waves.all (fun v => v.tokensOpen == 0) = true) :
    (∀ g, (s.core g).copyQ = [] ∧ (s.core g).matQ = [] ∧ (s.core g).syncQ = []) ∧ (∀ g, g ∈ s.groups → g.bench = []) ∧
      ∀ v, v ∈ s.waves → v.tokensOpen = 0 := by
  refine ⟨fun g => ?_, fun g h => by simpa using List.all_eq_true.1 hg g h, fun v h => by simpa using List.all_eq_true.1 hw v h⟩
  simp [State.core, hc, getOr, coreReset]
/-- A switch request of slot 0 at 0x6000, out or in, with a pool of 2 MiB at 0x200000. -/
def swMem (in' : Bool) : Cells := (if in' then [(0x6001, 0x10)] else []) ++ [(0x600A, 0x20), (0x6012, 0x20), (0x6019, 0x70)]
def swState (s : State) (in' : Bool) : State := { s with mem := swMem in', sw := { s.sw with queue := [(0x6000, none)] } }
def swWords (s : State) : List Dword := match s.swHead with | some (_, .inr ws) => ws | _ => []
/-- The slot's one group, its wave dormant, in phase A; then saved, with a switch in that runs. -/
def outState : State :=
  let s := idleState { wave0 with act := .dormant 0 false false }
  { s with sw := { s.sw with phase := .a, words := [0, 0x200000, 0x200000, 0x7000, 0, 0, 0, 0], groups := [1] } }
def backState : State :=
  let s := regState (idleState { wave0 with act := .dormant 0 false false }) 0
  { s with groups := [{ soloGroup 1 0 with saved := true }], arg := arg 0 767,
           sw := { s.sw with phase := .a, words := [0x1000, 0x200000, 0x200000, 0x7000, 0, 0, 0, 0],
                             saved := [{ group := 1, slot := 0, off := 0, size := 12288 }] } }
/-- A stopped wave whose record is open, under each policy and after a watchdog trap; requests out with a group and without, and in; a
switch out in its phases, and a switch in. -/
theorem witness_FaultAndSwitchSteps :
    (let s := openTrap 0x02 0
     (s.openRec s.arg.a).map (fun o => (o.r.kind, o.r.wave, o.r.nexts[0]?)) = some (0, some 2, some (some 8)) ∧ s.wave? 2 = some stoppedWave ∧
      s.isSaved stoppedWave = false ∧ stoppedWave.surveyor = false ∧ stoppedWave.pair = none ∧ stoppedWave.isActive = true ∧
      stoppedWave.lines.pinned = 0 ∧ stoppedWave.c.stopped = true ∧ (stoppedWave.threads.get 0).st = .runnable ∧
      s.group? stoppedWave.group = some (soloGroup 1 0) ∧ s.gridOf stoppedWave = some (soloGrid 0) ∧
      ((∀ g, (s.core g).copyQ = [] ∧ (s.core g).matQ = [] ∧ (s.core g).syncQ = []) ∧ (∀ g, g ∈ s.groups → g.bench = []) ∧
        ∀ v, v ∈ s.waves → v.tokensOpen = 0)) ∧
    (∀ p : Fin 6, (openTrap 0x02 (BitVec.ofNat 64 (p * 2 ^ 32))).policy (soloGrid 0) = p.val) ∧
    ((openTrap 0x09 0).openRec 0).map (fun o => (o.r.code, o.expires)) = some (0x09, some 0) ∧
    (let s := swState (idleState wave0) false
     s.sw.service = false ∧ s.swHead = some (0x6000, .inr (swWords s)) ∧ swIsIn (swWords s) = false ∧ swBad (swWords s) = none ∧
      s.slotGroups (((swWords s).getD 0 0).toNat % 4096) = [soloGroup 1 0] ∧
      natSum ((s.slotGroups 0).map fun g => g.saveBytes) ≤ ((swWords s).getD 2 0).toNat ∧
      ((swWords s).getD 1 0).toNat + natSum ((s.slotGroups 0).map fun g => g.saveBytes) ≤ s.life.memTop ∧ s.sectionsOf 0 = [] ∧ s.lateWr = []) ∧
    (let s := swState State.reset false
     s.swHead = some (0x6000, .inr (swWords s)) ∧ s.slotGroups (((swWords s).getD 0 0).toNat % 4096) = []) ∧
    (let s := swState State.reset true
     s.swHead = some (0x6000, .inr (swWords s)) ∧ swIsIn (swWords s) = true ∧ swBad (swWords s) = none ∧ s.sw.out = []) ∧
    (outState.outReady = true ∧ outState.sw.groups = [1] ∧ outState.group? 1 = some (soloGroup 1 0) ∧
      ∀ v, v ∈ outState.waves → v.group = 1 → v.isActive = false ∧ (outState.wave? v.uid).isSome = true) ∧
    (let s := backState
     s.sw.phase = .a ∧ swIsIn s.sw.words = true ∧ s.sw.saved = [{ group := 1, slot := s.sw.slot, off := 0, size := 12288 }] ∧
      s.group? 1 = some { soloGroup 1 0 with saved := true } ∧ s.arg.b < 768 ∧ s.canReturn { soloGroup 1 0 with saved := true } s.arg.b = true) := by
  refine ⟨⟨by decide +kernel, rfl, by decide +kernel, rfl, rfl, rfl, by decide +kernel, rfl, by decide +kernel, rfl, rfl,
    idle_of_reset rfl (by decide +kernel) (by decide +kernel)⟩, by decide +kernel, by decide +kernel, by decide +kernel, by decide +kernel, by decide +kernel,
    ⟨by decide +kernel, rfl, rfl, by decide +kernel⟩, by decide +kernel⟩

/-! Heads, the ring, commands and launches. -/

/-- Cells of 64-bit words from an address. -/
def wordCells (a : Nat) (ws : List Dword) : Cells :=
  ((List.range (8 * ws.length)).map fun k => (a + k, (ws.getD (k / 8) 0 >>> (8 * (k % 8))).setWidth 8)).filter fun e => e.2 != 0
/-- A virtual head of 64 by 2 active pixels by its descriptor at 0x4000, its program's descriptor at 0x5000. -/
def headWords : List Dword := [63 + 1 * 2 ^ 16 + 3 * 2 ^ 32 + 1000 * 2 ^ 48, 0, 1, 0x5000, 0x6000, 0x8000, 256, 0x9000]
def headState : State :=
  { State.reset with mem := wordCells 0x4000 headWords ++ wordCells 0x5000 [0x10000, 0x141, 32 + 2 ^ 16 + 2 ^ 32], arg := arg 4 0 0 0x4000 }
/-- A head whose frames, lines and poses have come, or whose stop waits. -/
def dueHead (stop : Bool) : HeadUnit :=
  { scanHead with stop, f0 := 2000, desc := [63 + 1 * 2 ^ 16 + 3 * 2 ^ 32 + 1000 * 2 ^ 48, 0x40, 1, 0, 0, 0, 0, 0], link := true,
                  queue := [{ order := 0, words := [0, 0, 0, 0, 0, 0, 0, 0], done := 0, removed := false, used := false }] }
def dueState (x : HeadUnit) (now : Nat) : State := { State.reset with now, disp := { lines := [], heads := [x], mailbox := [] }, arg := arg 0 0 }
/-- A head that is enabled from its descriptor and one that is not; a promotion with a record and a stop; a latch, a band to start and
one that is over; a line at its deadline and a line to scan out; a stalled group and a queued command. -/
theorem witness_DisplaySteps :
    (4 ≤ headState.arg.a ∧ headState.arg.a < 260 ∧ (headState.head 4).en = false ∧ headState.life.min = false ∧
      let s1 := headState.modHead 4 fun (x : HeadUnit) => { x with ctl := 0x4000, rate := 0, link := false }
      ∃ r d, s1.readDesc 4 0 0x4000 = (r, some d)) ∧
    (∃ r, headState.readDesc 4 0 0x7000 = (r, none)) ∧
    (let x := dueHead false
     let s := dueState x 45045
     s.arg.a < 4 ∧ s.head 0 = x ∧ x.en = true ∧ x.latchAt x.nextPromote 0 ≤ (s.dcycle : Int) ∧ x.stop = false ∧
      ((x.queue.filter fun p => !p.removed && !p.used && decide (((p.done / 45 : Nat) : Int) < x.latchAt x.nextPromote 0) && frameOk p.words).length = 1) ∧
      x.start (x.nextLatch - x.lead) ≤ (s.dcycle : Int)) ∧
    ((dueHead true).en = true ∧ (dueHead true).stop = true ∧ (dueHead true).latchAt (dueHead true).nextPromote 0 ≤ ((dueState (dueHead true) 45045).dcycle : Int)) ∧
    (let s := dueState { dueHead false with en := true } 0
     s.lineFree 0 = true ∧ s.bandFor 0 = some (0, 0, 0) ∧ s.arg.b = 0) ∧
    (let x := { dueHead false with bands := [{ frame := 0, first := 0 }] }
     x.bands.find? (fun b => decide (x.closesAt b.frame b.first ≤ ((dueState x 450450).dcycle : Int))) = some { frame := 0, first := 0 }) ∧
    (let b : LineBuf := { frame := 0, line := 0, segs := [0, 1], pixels := [], taken := false }
     let x := { dueHead false with lines := [b] }
     let s := dueState x 450450
     x.deadline 0 0 ≤ (s.dcycle : Int) ∧ x.lines.find? (fun b => b.frame == 0 && b.line == 0) = some b ∧ (∀ k, k < ceilDiv x.width 32 → inKeys k b.segs = true) ∧
      (let y := { x with nextTake := 1 }
       y.scanAt 0 0 ≤ (s.dcycle : Int) ∧ y.nextScan < y.nextTake ∧ y.link = true)) ∧
    (let l : LineCore := { bandCore lineWave with run := none, susp := some (lineFlight lineWave), wait := some .lbar }
     let s : State := { State.reset with disp := { State.reset.disp with lines := [l] }, arg := arg 0 0 }
     s.flight = none ∧ (s.line 0).wait = some .lbar ∧ (s.line 0).susp = some (lineFlight lineWave) ∧ s.waitOver 0 = true) ∧
    (let l : LineCore := { bandCore lineWave with xq := [{ op := .xcfg h0 { d := 0, a := 0, s := 0, md := 0 }, addr := 0 }] }
     (({ State.reset with disp := { State.reset.disp with lines := [l] } } : State).line 0).xq = [{ op := .xcfg h0 { d := 0, a := 0, s := 0, md := 0 }, addr := 0 }]) := by
  refine ⟨⟨by decide, by decide, rfl, rfl, ?_⟩, ?_, by decide +kernel, by decide +kernel, by decide +kernel, by decide +kernel, by decide +kernel,
    ⟨rfl, rfl, rfl, by decide +kernel⟩, rfl⟩
  · have h : ((headState.modHead 4 fun (x : HeadUnit) => { x with ctl := 0x4000, rate := 0, link := false }).readDesc 4 0 0x4000).2.isSome = true := by decide +kernel
    obtain ⟨d, hd⟩ := Option.isSome_iff_exists.1 h
    exact ⟨_, d, Prod.ext rfl hd⟩
  · have h : (headState.readDesc 4 0 0x7000).2.isNone = true := by decide +kernel
    exact ⟨_, Prod.ext rfl (Option.isNone_iff_eq_none.1 h)⟩

/-- Two groups of a grid on stops 0 and 1 of cluster 0, a packet of two flits between them at its source or delivered. -/
def ringGroup (k : Nat) : Group := { soloGroup (k + 1) 0 with core := k, sbanks := [3] }
def ringPacket (f : Flit) : Packet :=
  { uid := 20, cluster := 0, src := 0, dst := 1, flits := List.replicate 2 f, links := [], vc := 0, n := 2, data := List.replicate 64 ⟨7, false⟩,
    addr := 0x100, ch := 3, grid := 0, slot := 0, cmd := 9, group := 1, seq := 1, result := none }
def ringState (now : Nat) (f : Flit) : State :=
  { State.reset with now, grids := [soloGrid 0], groups := (List.range 8).map ringGroup, arg := arg 0 20,
                     fab := { State.reset.fab with packets := [ringPacket f] } }
def secState (t0 : Option Nat) (opening members closing : List Nat) : State :=
  { ringState 800 { place := .source, since := 0 } with
    fab := { State.reset.fab with sections := [{ cluster := 0, opening, members, t0, closing, cmds := [], flits := [] }] } }
/-- A collective of one participant. -/
def collCmd : Cmd :=
  { uid := 9, wave := 2, group := 1, core := 0, op := .coll h0 (engFields 0x20), run := [], td := 8, deps := [], banks := [], prog := 0, aux := [],
    started := true, priv := false }
def collInst : CollInst := { uid := 30, slot := 0, tag := 0, sc := 2, die := 0, need := 1, parts := [{ core := 0, cmd := 9, seq := 1 }] }
/-- A packet that moves and one that arrives; a section to open, one that opens and one that closes; a complete instance. -/
theorem witness_FabricSteps :
    (let s := ringState 40 { place := .source, since := 0 }
     (s.section 0).hopAt ≤ s.cycle ∧ s.packetsOf 0 = [ringPacket { place := .source, since := 0 }] ∧ s.mayInject 0 = true ∧
      (ringPacket { place := .source, since := 0 }).flits = List.replicate 2 { place := .source, since := s.cycle - 1 } ∧ 1 ≤ s.cycle) ∧
    (let s := ringState 400 { place := .delivery, since := 5 }
     s.packet? s.arg.a s.arg.b = some (ringPacket { place := .delivery, since := 5 }) ∧ 5 ≤ s.cycle ∧ s.slotAway 0 = false ∧
      s.receiver 0 1 false = some (ringGroup 1) ∧ s.group? (ringGroup 1).uid = some (ringGroup 1) ∧ 0x100 + 32 * 2 ≤ 131072 * (ringGroup 1).sbanks.length) ∧
    (let s := secState none [1, 2, 3, 4, 5, 6, 7, 8] [] []
     (s.section 0).t0 = none ∧ (s.section 0).members = [] ∧
      ((List.range 8).filterMap fun k => (s.section 0).opening.find? fun g => (s.group? g).any fun x => x.core == k).length = 8 ∧ s.packetsOf 0 = []) ∧
    (let s := secState (some 800) [] [1, 2] []
     (s.section 0).t0 = some 800 ∧ 800 ≤ s.now) ∧
    (let t := secState (some 0) [] [1, 2] [1, 2]
     let s : State := { t with groups := t.groups.map fun x => { x with inSection := true } }
     (s.section 0).t0 ≠ none ∧ s.secPending (s.section 0) = false ∧
      ∀ g, g ∈ (s.section 0).members → g ∈ (s.section 0).closing ∧ (s.group? g).any (fun x => x.inSection) = true) ∧
    (let s : State := { State.reset with cores := [{ coreReset 0 with syncQ := [collCmd] }], fab := { State.reset.fab with colls := [collInst] }, arg := arg 30 0 }
     s.fab.colls.find? (fun i => i.uid == s.arg.a) = some collInst ∧ collInst.need ≤ collInst.parts.length ∧
      ∀ p, p ∈ collInst.parts → p.far = none ∧ s.cmdOf p.core p.cmd = some collCmd ∧ collCmd.core = p.core) := by
  refine ⟨by decide +kernel, ?_, by decide +kernel, by decide +kernel, by decide +kernel, rfl, by decide, ?_⟩
  · exact ⟨rfl, by decide +kernel, by decide +kernel, rfl, rfl, by decide⟩
  · intro p hp
    rw [List.mem_singleton.1 hp]
    exact ⟨rfl, rfl, rfl⟩

/-! Launches and tasks. A page that a reader's translation holds gives its bytes and leaves the state as it is. -/

theorem translate_page {s : State} {g : Option Nat} {slot va : Nat} {e : TlbEntry} (vp : Nat) (hv : va / 4096 = vp)
    (h : s.translate g slot (4096 * vp) = (s, .ok e)) : s.translate g slot va = (s, .ok e) := by
  have h' : 4096 * vp / 4096 = va / 4096 := by omega
  rw [← h]
  simp only [State.translate, h']
/-- The byte that such a reader sees at a physical address. -/
def byteAt (s : State) (g : Option Nat) (pa : Nat) : PByte := match g with | none => s.llcByte pa | some k => s.dieByte (dieOf k) pa
/-- With every window at its reset value no address lies in a view. -/
theorem no_view {s : State} (h : s.sys.fwin = State.reset.sys.fwin) (pa : Nat) : s.viewAt pa = none := by
  unfold State.viewAt
  rw [List.findSome?_eq_none_iff]
  intro w hw
  have hz : s.fwin w 3 = 0 := by
    unfold State.fwin
    rw [h]
    exact (show ∀ k, k ∈ List.range 16 → (State.reset.sys.fwin[4 * k + 3]?).getD 0 = (0 : Dword) by decide +kernel) w hw
  simp only [State.window, hz]
  rfl
/-- What such a reader holds of its own: nothing that a read could disturb. -/
def quiet (s : State) (g : Option Nat) : Prop :=
  s.sys.fwin = State.reset.sys.fwin ∧ ∀ k, g = some k → (s.core k).wc = [] ∧ (s.core k).l1 = [] ∧ s.tex.lines = []
theorem engineByte_held {s : State} {g : Option Nat} {pa : Nat} (hr : s.range pa = .mem) (hw : quiet s g) :
    s.engineByte g pa 0 = (s, byteAt s g pa) := by
  have hv : s.touchView (pa / 128) = s := by simp only [State.touchView, no_view hw.1]
  cases g with
  | none => simp only [State.engineByte, hr, byteAt, hv]
  | some k =>
    obtain ⟨h1, h2, h3⟩ := hw.2 k rfl
    simp only [State.engineByte, hr, byteAt, hv, State.wcFlushLine, h1, State.letGo, Core.l1Find, h2, h3, List.find?_nil, List.isEmpty_nil,
      Option.isNone_none, Bool.and_self, beq_self_eq_true, if_true]
theorem readWords_held {s : State} {g : Option Nat} {slot n : Nat} {va : Dword} {e : TlbEntry} (vp : Nat) (ws : List Dword)
    (ht : s.translate g slot (4096 * vp) = (s, .ok e)) (hm : e.mt = 0) (hw : quiet s g)
    (hv : va.toNat / 4096 = vp) (hn : va.toNat % 4096 + 8 * n ≤ 4096) (hb : vp < 2 ^ 44) (hp : e.pa + 4096 ≤ s.life.memTop)
    (hbs : (let bs := (List.range (8 * n)).map fun i => byteAt s g (e.pa + va.toNat % 4096 + i)
            !anyBad bs && decide (wordsOf n bs = ws)) = true) :
    s.readWords g slot va n = (s, .inr ws) := by
  have step (l : List Nat) (hl : ∀ i, i ∈ l → i < 8 * n) (bs : List PByte) :
      l.foldl (fun (acc : State × (Nat ⊕ List PByte)) (i : Nat) =>
        match acc.2 with
        | .inl c => (acc.1, .inl c)
        | .inr bs =>
          let r := acc.1.engineAddr g slot true false ((va.toNat : Int) + i)
          match r.2 with
          | .inl c => (r.1, .inl c)
          | .inr p => let b := r.1.engineByte g p.1 p.2; (b.1, .inr (bs ++ [b.2]))) (s, .inr bs) =
      (s, .inr (bs ++ l.map fun i => byteAt s g (e.pa + va.toNat % 4096 + i))) := by
    induction l generalizing bs with
    | nil => simp
    | cons i l ih =>
      have hi : i < 8 * n := hl i (by simp)
      have ha : s.engineAddr g slot true false ((va.toNat : Int) + i) = (s, .inr (e.pa + va.toNat % 4096 + i, 0)) := by
        have h1 : ¬ ((va.toNat : Int) + i < 0) := by omega
        have h2 : ¬ ((2 : Int) ^ 56 ≤ (va.toNat : Int) + i) := by omega
        have h3 : ((va.toNat : Int) + i).toNat = va.toNat + i := by omega
        have h4 : (va.toNat + i) / 4096 = vp := by omega
        have h5 : (va.toNat + i) % 4096 = va.toNat % 4096 + i := by omega
        have h6 : s.range (e.pa + (va.toNat % 4096 + i)) = .mem := by
          rw [State.range, if_pos (by omega)]
        simp only [State.engineAddr, h1, h2, decide_false, Bool.or_false, Bool.false_eq_true, if_false, h3, translate_page vp h4 ht, h5, h6, hm,
          Bool.false_and, Bool.not_true, Nat.add_assoc]
      rw [List.foldl_cons]
      simp only [ha, engineByte_held (s := s) (g := g) (show s.range (e.pa + va.toNat % 4096 + i) = .mem by rw [State.range, if_pos (by omega)]) hw]
      rw [ih (fun j hj => hl j (by simp [hj]))]
      simp
  have h : s.frontRead g slot va (8 * n) = (s, .inr ((List.range (8 * n)).map fun i => byteAt s g (e.pa + va.toNat % 4096 + i))) :=
    step (List.range (8 * n)) (fun i hi => List.mem_range.1 hi) []
  simp only [Bool.and_eq_true, Bool.not_eq_true', decide_eq_true_eq] at hbs
  simp only [State.readWords, h, hbs.1, hbs.2, Bool.false_eq_true, if_false]
/-- A slot with a launch record at 0x10000, its kernel descriptor at 0x10040, a continuation queue's header at 0x10100 whose template is
that record, a continuation record at 0x10200 and a word 5 at 0x10300; region 0 is live. -/
def launchWords : List Dword := [0x10040, 0, 0, 0, 0, 0, 0, 0]
def kernelWords : List Dword := [0x10000, 0x101, 32 + 2 ^ 16 + 2 ^ 32, 0, 0, 0, 0, 0]
def launchState (g : Arg) : State :=
  let m := mapped (idleState wave0) (wordCells 0x10000 launchWords ++ wordCells 0x10040 kernelWords ++
    wordCells 0x10100 [0, 0, 0, 0, 0x10000] ++ wordCells 0x10200 [0x10000, 7, 0, 0] ++ wordCells 0x10300 [5])
  { regState m 0 with arg := g }
def pageEntry : TlbEntry := { slot := 0, vpage := 0x10, pa := 0x10000, w := true, x := true, u := true, mt := 0, pages := 262144 }
theorem launch_page (s : State) (g : Option Nat) (hs : s.life.memTop = 0x6000000000)
    (h : s.translate g 0 (4096 * 0x10) = (s, .ok pageEntry)) (hw : quiet s g) (a : Dword) (n : Nat) (ws : List Dword)
    (hv : a.toNat / 4096 = 0x10 ∧ a.toNat % 4096 + 8 * n ≤ 4096)
    (hb : (let bs := (List.range (8 * n)).map fun i => byteAt s g (0x10000 + a.toNat % 4096 + i)
           !anyBad bs && decide (wordsOf n bs = ws)) = true) : s.readWords g 0 a n = (s, .inr ws) :=
  readWords_held 0x10 ws h rfl hw hv.1 hv.2 (by decide) (by rw [hs]; decide) hb
def bench1 : State :=
  let c : Cmd := { uid := 9, wave := 2, group := 1, core := 0, op := .nop h0, run := [0x10000], td := 0, deps := [], banks := [], prog := 0, aux := [],
                   started := false, priv := false }
  { launchState (arg 0 0) with groups := [{ soloGroup 1 0 with bench := [c] }] }
theorem translate_walk {s : State} {vp : Nat} {e : TlbEntry} (hv : vp = 0x10)
    (h : s.walk none 0 vp false = .ok e ∧ s.walk none 0 vp true = .ok e) : s.translate none 0 (4096 * vp) = (s, .ok e) := by
  subst hv
  simp only [State.translate, Option.map_none, Nat.mul_div_cancel_left _ (show 0 < 4096 by decide), State.walkAny, h.1, h.2, beq_self_eq_true, if_true]
/-- The answer to a launch whose record and descriptor are at hand, with no handler in its region's chain, when no check refuses it. -/
theorem checkLaunch_read {s : State} {g : Option Nat} {slot : Nat} {la : Dword} {t : Bool} {ws kw : List Dword} {ch : Chain} {kd : KDesc}
    (h1 : s.readWords g slot la 8 = (s, .inr ws)) (h2 : s.readWords g slot (wd ws 0) 8 = (s, .inr kw))
    (hc : (s.dropIdleRegions.chain slot (wd ws 1)).2 = .inr ch) (hh : ch.handlers = []) (hk : KDesc.parse (wd ws 0) kw = some kd)
    (hb : (bits la 5 0 != 0 || bits (wd ws 0) 5 0 != 0 || bits (wd ws 1) 5 0 != 0 || 4 < bits (wd ws 3) 34 32
      || (!t && (bits (wd ws 3) 63 38 != 0 || bits (wd ws 7) 2 0 != 0))) = false)
    (hn : (!t && 2 ^ 32 < lrecN ws) = false) (hp : (kd.prof == 1) = false) (ho : ch.ok = true) (hf : neverPlaced kd (effOf (wd ws 1) ch) = false)
    (hx : bit (wd ws 3) 37 = false) :
    s.checkLaunch g slot la t = ((s.dropIdleRegions.chain slot (wd ws 1)).1, .inr { words := ws, kd, eff := effOf (wd ws 1) ch }) := by
  unfold State.checkLaunch
  simp only [h1]
  rw [show withExtents ws none = ws from rfl]
  rw [if_neg (Bool.eq_false_iff.1 hb)]
  rw [if_neg (Bool.eq_false_iff.1 hn)]
  simp only [h2]
  simp only [hc]
  rw [hh]
  simp only [show ∀ (r : State) (n : Nat), r.handlersOk n [] = (r, .inr true) from fun _ _ => rfl]
  simp only [hk]
  rw [if_neg (Bool.eq_false_iff.1 hp)]
  rw [if_neg (show ¬ ((!ch.ok || !true) = true) by rw [ho]; decide)]
  rw [if_neg (Bool.eq_false_iff.1 hf)]
  rw [if_neg (by rw [hx, Bool.and_false, Bool.false_and]; exact Bool.false_ne_true)]
def launchChain : Chain := [(0, [0, 0xFF00, 0x1002018000001, 0, 0, 0, 0x100000, 0])]
def launchKernel : KDesc :=
  { addr := 0x10040, entry := 0x10000, waves := 1, prof := 0, regs := 1, sbanks := 0, acc := false, surv := false, xsh := 32, ysh := 1, zsh := 1, sentry := 0 }
theorem bench1_read (a : Dword) (n : Nat) (ws : List Dword) (hv : a.toNat / 4096 = 0x10 ∧ a.toNat % 4096 + 8 * n ≤ 4096)
    (hb : (let bs := (List.range (8 * n)).map fun i => byteAt bench1 (some 0) (0x10000 + a.toNat % 4096 + i)
           !anyBad bs && decide (wordsOf n bs = ws)) = true) : bench1.readWords (some 0) 0 a n = (bench1, .inr ws) := by
  have hw : bench1.walk (some (dieOf 0)) 0 0x10 false = .ok pageEntry ∧ bench1.walk (some (dieOf 0)) 0 0x10 true = .ok pageEntry := by decide +kernel
  have ht : (bench1.core 0).tlb.find? (fun e => e.slot == 0 && e.vpage == 0x10) = some pageEntry := by decide +kernel
  refine launch_page bench1 (some 0) rfl ?_ ⟨rfl, fun k hk => by cases hk; exact ⟨rfl, rfl, rfl⟩⟩ a n ws hv hb
  simp only [State.translate, Nat.mul_div_cancel_left _ (show 0 < 4096 by decide), Option.map_some, State.walkAny, hw.1, hw.2, beq_self_eq_true, if_true, ht]
/-- The launch is accepted: its checks pass and its region's budget admits it. -/
theorem bench1_checks : ∃ q l, bench1.checkLaunch (some 0) 0 0x10000 false = (q, .inr l) ∧ q.lrateOk l.eff = true ∧
    q.lrateBehind (.bench 1 9) l.eff = false := by
  have h1 := bench1_read 0x10000 8 launchWords (by decide) (by decide +kernel)
  have h2 := bench1_read (wd launchWords 0) 8 kernelWords (by decide) (by decide +kernel)
  exact ⟨_, _, checkLaunch_read (ch := launchChain) (kd := launchKernel) h1 h2 (by decide +kernel) (by decide +kernel) (by decide +kernel) (by decide +kernel)
    (by decide +kernel) rfl (by decide +kernel) (by decide +kernel) (by decide +kernel), by decide +kernel, by decide +kernel⟩
/-- A continuation at the head of its queue. -/
def contRec : ContRec := { slot := 0, header := 0x10100, rcd := 0x10200, seq := 4, region := 0 }
def contState : State := { launchState (arg 0 0) with conts := [contRec] }
theorem contState_read (a : Dword) (n : Nat) (ws : List Dword) (hv : a.toNat / 4096 = 0x10 ∧ a.toNat % 4096 + 8 * n ≤ 4096)
    (hb : (let bs := (List.range (8 * n)).map fun i => byteAt contState none (0x10000 + a.toNat % 4096 + i)
           !anyBad bs && decide (wordsOf n bs = ws)) = true) : contState.readWords none 0 a n = (contState, .inr ws) :=
  launch_page contState none rfl (translate_walk rfl (by decide +kernel)) ⟨rfl, fun _ h => by cases h⟩ a n ws hv hb
theorem contState_at : ∃ l, contState.contAt 0 = some (contRec, 0x10000, .inr l) ∧ contState.canPop l 0 = true ∧ l.eff.prio = 0 ∧ l.eff.slot = 0 := by
  have h0 : contState.conts[0]? = some contRec := rfl
  have hr := contState_read (contRec.header + 0x20) 1 [0x10000] (by decide) (by decide +kernel)
  have hl := checkLaunch_read (t := true) (ch := launchChain) (kd := launchKernel) (contState_read 0x10000 8 launchWords (by decide) (by decide +kernel))
    (contState_read (wd launchWords 0) 8 kernelWords (by decide) (by decide +kernel)) (by decide +kernel) (by decide +kernel) (by decide +kernel)
    (by decide +kernel) (by decide +kernel) rfl (by decide +kernel) (by decide +kernel) (by decide +kernel)
  refine ⟨{ words := launchWords, kd := launchKernel, eff := effOf (wd launchWords 1) launchChain }, ?_, by decide +kernel, by decide +kernel, by decide +kernel⟩
  have hw : wd [(0x10000 : Dword)] 0 = 0x10000 := rfl
  have hk : (launchKernel.waves == 1 && launchKernel.need == 0 && !launchKernel.surv) = true := rfl
  simp only [State.contAt, h0, Option.bind_some, List.take_zero, List.any_nil, Bool.false_eq_true, if_false, show contRec.slot = 0 from rfl, hr, hw, hl, hk, if_true]
theorem contState_first : contState.outranked 0 4 = false := by
  obtain ⟨l, hl, _, hp, _⟩ := contState_at
  simp only [State.outranked, show List.range contState.conts.length = [0] from rfl, List.any_cons, List.any_nil, hl, hp]
  generalize ((List.range 768).any fun g => contState.canPop l g) = b
  clear hl hp
  revert b
  decide +kernel
/-- A command with an operation, its run and its tokens. -/
def taskCmd (op : Instr) (run : List Dword) (deps : List Dep) : Cmd :=
  { uid := 9, wave := 2, group := 1, core := 0, op, run, td := 8, deps, banks := [], prog := 0, aux := [], started := false, priv := false }
def cmdState (c : Cmd) : State :=
  let w := { wave0 with lines := { wave0.lines with resident := BitVec.allOnes 133 } }
  { idleState w with cores := [{ coreReset 0 with copyQ := [c], syncQ := [c] }], arg := arg 9 0 }
/-- A draw of 1 by 1 tiles with one triangle, and a request whose draw record no address gives. -/
def draw1 (closed : Bool) : Draw :=
  let k : BinTri := { tx := 0, ty := 0, ax := 0, ay := 0, az := 0, bx := 0, byy := 0, bz := 0, cx := 0, cy := 0, cz := 0, prim := 0, late := true }
  { uid := 40, die := 0, slot := 0, addr := 0x8000000000000000, region := 0, priv := false, words := [0, 0, 0, 0, 0, 0, 0, 0], tris := [k], closed, grid := none,
    finals := [], dsc := [] }
def cullReq (kind : Nat) : CullReq :=
  { slot := 0, kind, meshlet := 0, draw := 0x8000000000000000, region := 0, priv := false, gcore := 0, wave := 2 }
def cullState (kind : Nat) : State :=
  { State.reset with draws := [draw1 false], culls := [{ die := 0, queue := [cullReq kind] }], arg := arg 0 40 0 }
/-- A command with a failed token and without, in an engine and in the drawer unit; a launch and a continuation that are accepted; a group to
place; the end of a grid with a word to decrement and without; a batch whose time has come; a close and a meshlet; a tile. -/
theorem witness_LaunchAndTaskSteps :
    (let c := taskCmd (.copy h0 (engFields 0)) [] [.status 0x83]
     let s := cmdState c
     s.cmdAt (.copy 0 0) = some c ∧ c.ready = true ∧ c.depFailed = true ∧ (s.wave? c.wave).any (fun w => w.isActive && w.live != 0 && w.group == c.group &&
      w.holds (128 + c.td.toNat / 16)) = true) ∧
    (let c := taskCmd (.nop h0) [] []
     (cmdState c).cmdAt (.copy 0 0) = some c ∧ c.ready = true ∧ c.depFailed = false ∧ ∃ r x, (cmdState c).runCmd c = (r, some x)) ∧
    (let o := engFields 0
     let c := taskCmd (.enq h0 o) [0x8000000000000000, 0] []
     let s := cmdState c
     s.enqOf s.arg.a = some (c, o) ∧ c.ready = true ∧ c.depFailed = false ∧ s.runCmd c = (s, none) ∧ ∃ r x, s.runEnq c o = (r, some x)) ∧
    (let s := bench1
     (s.benchNext 1).any (fun c => !c.depFailed && c.core == 0 && s.cmdSlot c == 0 && c.run.getD 0 0 == 0x10000) = true ∧
      (s.wcFlush 0 (BitVec.allOnes 16)).writeBackDie (dieOf 0) = s ∧
      ∃ q l, s.checkLaunch (some 0) 0 0x10000 false = (q, .inr l) ∧ q.lrateOk l.eff = true ∧ q.lrateBehind (.bench 1 9) l.eff = false) ∧
    (let r := { soloGrid 0 with next := 0 }
     let s : State := { launchState (arg 0 0) with grids := [r] }
     s.grid? s.arg.a = some r ∧ r.coop = false ∧ s.canPlace r s.arg.b = true ∧ s.outranked (s.gridPrio r) r.seq = false ∧
      (s.effective r.rslot r.region).2.isSome = true) ∧
    (let r := { soloGrid 0 with ended := 1, done := 0x10300 }
     let s : State := { launchState (arg 0 0) with grids := [r] }
     let p := (s.purgeLine (0x10300 / 128)).touchView (0x10300 / 128)
     s.grid? s.arg.a = some r ∧ s.gridOver r = true ∧ r.who = .program ∧ r.done ≠ 0 ∧ s.rep.state = 0 ∧
      s.translate none 0 (4096 * 0x10) = (s, .ok pageEntry) ∧ pageEntry.pa + r.done.toNat % 4096 = 0x10300 ∧
      s.permOk pageEntry 0x10300 8 true .atom = true ∧ s.range 0x10300 = .mem ∧ p.llcBytes 0x10300 8 = cleanBytes 8 5) ∧
    (∃ l, contState.contAt contState.arg.a = some (contRec, 0x10000, .inr l) ∧ contState.canPop l contState.arg.b = true ∧
      contState.outranked l.eff.prio contRec.seq = false ∧ contState.repPlace l.eff.slot contState.arg.b 0 0x10000 = true ∧
      contState.readWords none contRec.slot contRec.rcd 4 = (contState, .inr [0x10000, 7, 0, 0]) ∧ contRec.rcd.toNat % 32 = 0) ∧
    (let b : DrawerBatch := { first := 3, count := 2, due := some 7 }
     let d : Drawer := { uid := 50, slot := 0, header := 0, next := 5, firstOpen := 3, held := 2, opened := some b, region := 0 }
     let s : State := { State.reset with now := 8, drawers := [d], arg := arg 50 0 }
     s.drawer? s.arg.a = some d ∧ d.opened = some b ∧ b.due = some 7 ∧ 7 ≤ s.now) ∧
    (∀ kind : Fin 3, let s := cullState kind
      (s.cull s.arg.a).queue = [cullReq kind] ∧ s.openDraw s.arg.a 0 0x8000000000000000 = some (draw1 false) ∧
      ∃ t, s.cullOne (cullReq kind) (draw1 false) = .inr t) ∧
    (∀ closed : Bool, let s : State := { State.reset with draws := [draw1 closed], arg := arg 0 40 0 }
      (s.resolveArg.map fun x => (x.1 == draw1 closed, x.2.1.dsc, x.2.2)) = some (true, false, 0, 0) ∧ (draw1 closed).spent = false ∧
      (∀ k, k ∈ (draw1 closed).tris → k.late = true) ∧ (0, 0) ∉ (draw1 closed).finals) := by
  refine ⟨⟨rfl, by decide +kernel⟩, ⟨rfl, rfl, rfl, ?_⟩, ⟨rfl, rfl, rfl, rfl, ?_⟩, ⟨by decide +kernel, rfl, bench1_checks⟩,
    ⟨rfl, rfl, by decide +kernel, by decide +kernel, by decide +kernel⟩,
    ⟨rfl, by decide +kernel, rfl, by decide +kernel, rfl, translate_walk rfl (by decide +kernel), by decide +kernel, by decide +kernel, by decide +kernel, by decide +kernel⟩,
    ?_, ⟨rfl, rfl, rfl, by decide⟩, fun kind => ⟨rfl, ?_, ?_⟩, by decide +kernel⟩
  · exact ⟨_, _, rfl⟩
  · have h : ((cmdState (taskCmd (.enq h0 (engFields 0)) [0x8000000000000000, 0] [])).runEnq (taskCmd (.enq h0 (engFields 0)) [0x8000000000000000, 0] [])
        (engFields 0)).2.isSome = true := by decide +kernel
    obtain ⟨x, hx⟩ := Option.isSome_iff_exists.1 h
    exact ⟨_, x, Prod.ext rfl hx⟩
  · obtain ⟨l, h1, h2, h3, h4⟩ := contState_at
    refine ⟨l, h1, h2, by rw [h3]; exact contState_first, by rw [h4]; decide +kernel, ?_, by decide⟩
    exact contState_read 0x10200 4 [0x10000, 7, 0, 0] (by decide) (by decide +kernel)
  · rfl
  · have h : (match (cullState kind).cullOne (cullReq kind) (draw1 false) with | .inr _ => true | .inl _ => false) = true := by
      revert kind; decide +kernel
    split at h
    · exact ⟨_, by assumption⟩
    · cases h

/-- The same accesses where the line waits in the write buffer, those of lane 31 uncached; of a line core; and lanes that read zero. -/
def bufferState : State :=
  let place (k : Nat) : AccPlace :=
    { at0 := (0, 0), lane := k, va := 0x1000 + BitVec.ofNat 64 (4 * k), pa := 0x2000 + 4 * k, mt := if k = 31 then 1 else 0, zero := k == 0 }
  { memState with flight := some { memFlight with placed := (List.range 32).map place },
                  cores := [{ coreReset 0 with wc := [{ line := 64, data := 7, bad := 0, mask := 1, classes := 1, since := 0 }] }] }
theorem witness_Loads_levels :
    (∃ c, RunsIn memState h0 c ∧ memState.memOk = true ∧ (memState.core c.core).wc = [] ∧
      ∀ a, a ∈ c.perLane 4 (c.laneAddr (loadFields 0) 4) → ∃ p, c.place? a = some p ∧ (p.zero = true ∨ p.mt = 0)) ∧
    (∃ c, RunsIn bufferState h0 c ∧ bufferState.memOk = true ∧ bufferState.viewAt 0x2000 = none ∧ bufferState.channelDead 0x2000 = false ∧
      (let as := c.perLane 4 (c.laneAddr (loadFields 0) 4)
       (∀ a, a ∈ as → (c.place? a).isSome = true) ∧ (∃ a p, a ∈ as ∧ c.place? a = some p ∧ p.zero = true) ∧
       (∃ a p, a ∈ as ∧ c.place? a = some p ∧ p.zero = false ∧ bufferState.range p.pa = .mem ∧ 0x2000 / 128 ∈ linesOf p.pa a.size ∧ p.mt ≠ 0) ∧
       bufferState.buffers c.core 0x2000)) ∧
    ∃ c, RunsIn (lineState lineWave) h0 c ∧ c.fl.owner = .line 0 := by
  refine ⟨?_, ?_, ?_⟩
  · obtain ⟨c, hr, h⟩ := sees_runs (s := memState) (h := h0) (p := fun c => decide ((memState.core c.core).wc = []) &&
      (c.perLane 4 (c.laneAddr (loadFields 0) 4)).all fun a => (c.place? a).any fun (p : AccPlace) => p.zero || p.mt == 0) (by decide +kernel)
    simp only [Bool.and_eq_true, decide_eq_true_eq, List.all_eq_true, Option.any_eq_true, Bool.or_eq_true, beq_iff_eq] at h
    exact ⟨c, hr, by decide +kernel, h.1, h.2⟩
  · obtain ⟨c, hr, h⟩ := sees_runs (s := bufferState) (h := h0) (p := fun c =>
      let as := c.perLane 4 (c.laneAddr (loadFields 0) 4)
      (as.all fun a => (c.place? a).isSome) && (as.any fun a => (c.place? a).any fun (p : AccPlace) => p.zero) &&
      (as.any fun a => (c.place? a).any fun (p : AccPlace) => !p.zero && decide (bufferState.range p.pa = .mem ∧ 0x2000 / 128 ∈ linesOf p.pa a.size ∧ p.mt ≠ 0)) &&
      ((bufferState.core c.core).wc.any fun l => l.line == 64)) (by decide +kernel)
    simp only [Bool.and_eq_true, decide_eq_true_eq, List.all_eq_true, List.any_eq_true, Option.any_eq_true, Bool.not_eq_true', beq_iff_eq] at h
    obtain ⟨⟨⟨h1, a, ha, p, hp, hz⟩, b, hb, q, hq, hn, hm⟩, l, hl, he⟩ := h
    exact ⟨c, hr, by decide +kernel, by decide +kernel, by decide +kernel, h1, ⟨a, p, ha, hp, hz⟩, ⟨b, q, hb, hq, hn, hm⟩, l, hl, he⟩
  · obtain ⟨c, hr, h⟩ := sees_runs (s := lineState lineWave) (h := h0) (p := fun c => decide (c.fl.owner = .line 0)) (by decide +kernel)
    exact ⟨c, hr, by simpa using h⟩

/-- The same with every lane, each at its own word of one line. -/
theorem witness_Atomics_lanes :
    ∃ c, RunsIn memState h0 c ∧ c.fl.owner = .wave 2 ∧ memState.rep.state = 0 ∧ (memState.core c.core).wc = [] ∧
      (let as := c.perLane 4 (c.atomAddr (atomFields .i32 7))
       1 < as.length ∧ Passes memState c .atom as lanePa ∧ ∀ a, a ∈ as → lanePa a.lane % 128 + a.size ≤ 128 ∧
         memState.viewAt (128 * (lanePa a.lane / 128)) = none ∧ memState.sliceDead (dieOf c.core) (lanePa a.lane / 128) = false) := by
  obtain ⟨c, hr, h⟩ := sees_runs (s := memState) (h := h0) (p := fun c =>
    let as := c.perLane 4 (c.atomAddr (atomFields .i32 7))
    decide (c.fl.owner = .wave 2 ∧ (memState.core c.core).wc = [] ∧ 1 < as.length ∧ placedAt memState c as lanePa = true ∧
      ∀ a, a ∈ as → lanePa a.lane % 128 + a.size ≤ 128 ∧ memState.viewAt (128 * (lanePa a.lane / 128)) = none ∧
        memState.sliceDead (dieOf c.core) (lanePa a.lane / 128) = false)) (by decide +kernel)
  obtain ⟨ho, hw, hl, p, ha⟩ := of_decide_eq_true h
  exact ⟨c, hr, ho, rfl, hw, hl, placedAt_passes _ p, ha⟩

/-- A line with a store in the write buffer; two lines, both marked, in plain memory. -/
def cst2Fields : LcFmt := { cstFields with nl := 1 }
def pairPa (k : Nat) : Nat := 0x2000 + 128 * k
def pairFlight (w : Wave) : Flight :=
  { flightOf w with placed := (List.range 2).map fun k => { at0 := (0, 0), lane := 0, va := 0x1000 + BitVec.ofNat 64 (128 * k), pa := pairPa k, mt := 0 } }
def pairState (w : Wave) (wc : List WcLine) : State :=
  { idleState w with flight := some (pairFlight w), cores := [{ coreReset 0 with wc }] }
def pairWave : Wave := { memWave with c := { memWave.c with marks := [{ line := 64, broken := false }, { line := 65, broken := false }] } }
theorem pair_placed {c : Ctx} {p : Bool} (h : (List.range 2).all (fun k => decide (c.placed?
      { lane := (0 : Fin 32), va := c.cstAddr cst2Fields + BitVec.ofNat 64 (128 * k), size := 128, mis := false } = some (pairPa k, 0))) = true)
    (r : State) (k : Nat) (hk : k ≤ cst2Fields.nl.toNat) : r.placeAcc c (.mem .cst) p
      { lane := (0 : Fin 32), va := c.cstAddr cst2Fields + BitVec.ofNat 64 (128 * k), size := 128, mis := false } = (r, .ok (pairPa k) 0) := by
  have h1 : k < 2 := Nat.lt_succ_of_le hk
  exact State.placeAcc_placed (by simpa using List.all_eq_true.1 h k (List.mem_range.2 h1))
theorem witness_FencesMonitorsQueues_cst :
    (let s := pairState pairWave [{ line := 65, data := 7, bad := 0, mask := 1, classes := 1, since := 0 }]
     ∃ c, RunsIn s h0 c ∧ c.fl.owner = .wave 2 ∧ s.rep.state = 0 ∧ c.run.lowest = some 0 ∧ s.memOk = true ∧
       (∀ (r : State) (k : Nat), k ≤ cst2Fields.nl.toNat → r.placeAcc c (.mem .cst) (s.priv c.w)
         { lane := 0, va := c.cstAddr cst2Fields + BitVec.ofNat 64 (128 * k), size := 128, mis := false } = (r, .ok (pairPa k) 0)) ∧
       s.buffers c.core (pairPa 1) ∧ s.plainByte 0x2000 ∧ ¬s.buffers c.core 0x2000) ∧
    (let s := pairState pairWave []
     ∃ c, RunsIn s h0 c ∧ c.fl.owner = .wave 2 ∧ c.run.lowest = some 0 ∧ (s.core c.core).wc = [] ∧
       (∀ (r : State) (k : Nat), k ≤ cst2Fields.nl.toNat → r.placeAcc c (.mem .cst) (s.priv c.w)
         { lane := 0, va := c.cstAddr cst2Fields + BitVec.ofNat 64 (128 * k), size := 128, mis := false } = (r, .ok (pairPa k) 0)) ∧
       ∀ k, k ≤ cst2Fields.nl.toNat → (∃ m : Mark, m ∈ c.w.c.marks ∧ m.line = pairPa k / 128 ∧ m.broken = false) ∧ pairPa k % 128 = 0 ∧
         s.sliceDead (dieOf c.core) (pairPa k / 128) = false ∧ ∀ j, j < 128 → s.plainByte (pairPa k + j)) := by
  refine ⟨?_, ?_⟩
  · intro s
    obtain ⟨c, hr, h⟩ := sees_runs (s := s) (h := h0) (p := fun c => decide (c.fl.owner = .wave 2 ∧ c.run.lowest = some 0 ∧
      ((s.core c.core).wc.all fun l => l.line == 65) = true ∧ ((s.core c.core).wc.any fun l => l.line == 65) = true) &&
      (List.range 2).all fun k => decide (c.placed?
        { lane := (0 : Fin 32), va := c.cstAddr cst2Fields + BitVec.ofNat 64 (128 * k), size := 128, mis := false } = some (pairPa k, 0))) (by decide +kernel)
    obtain ⟨h, hp⟩ := Bool.and_eq_true _ _ ▸ h
    obtain ⟨ho, hl, hall, hany⟩ := of_decide_eq_true h
    simp only [List.any_eq_true, List.all_eq_true, beq_iff_eq] at hall hany
    obtain ⟨l, hm, he⟩ := hany
    refine ⟨c, hr, ho, rfl, hl, by decide +kernel, fun r k hk => pair_placed hp r k hk, ⟨l, hm, he⟩, ⟨by decide +kernel, by decide +kernel⟩, ?_⟩
    rintro ⟨x, hx, e⟩
    rw [hall x hx] at e; cases e
  · intro s
    obtain ⟨c, hr, h⟩ := sees_runs (s := s) (h := h0) (p := fun c => decide (c.fl.owner = .wave 2 ∧ c.run.lowest = some 0 ∧
      (s.core c.core).wc = [] ∧ c.w.c.marks = [{ line := 64, broken := false }, { line := 65, broken := false }] ∧ c.core = 0) &&
      (List.range 2).all fun k => decide (c.placed?
        { lane := (0 : Fin 32), va := c.cstAddr cst2Fields + BitVec.ofNat 64 (128 * k), size := 128, mis := false } = some (pairPa k, 0))) (by decide +kernel)
    obtain ⟨h, hp⟩ := Bool.and_eq_true _ _ ▸ h
    obtain ⟨ho, hl, hw, hm, hc⟩ := of_decide_eq_true h
    refine ⟨c, hr, ho, hl, hw, fun r k hk => pair_placed hp r k hk, fun k hk => ?_⟩
    have hk : k < 2 := Nat.lt_succ_of_le hk
    have h2 : (List.range 2).all (fun k => decide (pairPa k % 128 = 0 ∧ s.sliceDead 0 (pairPa k / 128) = false ∧
        (List.range 128).all (fun j => decide (s.viewAt (pairPa k + j) = none ∧ s.channelDead (pairPa k + j) = false)) = true)) = true := by decide +kernel
    obtain ⟨h3, h4, h5⟩ := of_decide_eq_true (List.all_eq_true.1 h2 k (List.mem_range.2 hk))
    refine ⟨⟨{ line := 64 + k, broken := false }, ?_, by simp [pairPa]; omega, rfl⟩, h3, by rw [hc]; exact h4, fun j hj =>
      of_decide_eq_true (p := s.viewAt (pairPa k + j) = none ∧ s.channelDead (pairPa k + j) = false) (List.all_eq_true.1 h5 j (List.mem_range.2 hj))⟩
    rw [hm]; rcases k with _ | _ | k <;> first | omega | simp
/-- A fence over a write buffer with a store of class 0 in it; one that names no class; a line that no cache holds. -/
theorem witness_FencesMonitorsQueues_fence :
    let s := pairState pairWave [{ line := 65, data := 7, bad := 0, mask := 1, classes := 1, since := 0 }]
    let f (kind : BitVec 2) (cmask : BitVec 16) : FfFmt := { kind, scope := 5, cmask }
    (∃ c, RunsIn s h0 c ∧ c.fl.owner = .wave 2 ∧ (∀ l, l ∈ (s.core c.core).wc → l.classes ≠ 0) ∧ s.l2Find (dieOf c.core) (0x2000 / 128) = none ∧
      ¬s.buffers c.core 0x2000) ∧ s.memOk = true ∧ s.plainByte 0x2000 ∧
    ((f 0 1).kind ≠ 2 ∧ (f 0 1).kind ≠ 1 ∧ 5 ≤ (f 0 1).scope.toNat ∧ (f 0 1).cmask ≠ 0 ∧ (f 0 0).cmask = 0 ∧ (f 2 1).kind ≠ 1) := by
  intro s f
  refine ⟨?_, by decide +kernel, ⟨by decide +kernel, by decide +kernel⟩, by decide⟩
  obtain ⟨c, hr, h⟩ := sees_runs (s := s) (h := h0) (p := fun c => decide (c.fl.owner = .wave 2 ∧
    (s.core c.core).wc = [{ line := 65, data := 7, bad := 0, mask := 1, classes := 1, since := 0 }] ∧ s.l2Find (dieOf c.core) (0x2000 / 128) = none)) (by decide +kernel)
  obtain ⟨ho, hw, hl⟩ := of_decide_eq_true h
  refine ⟨c, hr, ho, ?_, hl, ?_⟩
  · rw [hw]; intro l hl; simp only [List.mem_singleton] at hl; subst hl; decide
  · rintro ⟨l, hm, e⟩; rw [hw] at hm; simp only [List.mem_singleton] at hm; subst hm; cases e

/-- A resource of 4 by 4 texels of one byte at 0x10000 with levels 0 and 1, level 0 in one tile whose residency byte at 0x10FFF is set; its
descriptor at 0x4000, where the check of the group has placed it. One lane samples; the sampler is in s5. -/
def texDescWords : List Dword := [0x10000, 3 + 3 * 2 ^ 16 + 2 ^ 32 + 2 ^ 36 + 3 * 2 ^ 40, 0x10FFF, 0, 0, 0, 0, 0]
def texState (x y l : Word) (smp : Dword) : State :=
  let w := (((((wave0.withS 4 0x1000).withS 5 smp).withP 1 0x80000000).withV 20 fun _ => x).withV 21 fun _ => y).withV 22 fun _ => l
  mapped { idleState w with flight := some { flightOf w with placed := [{ at0 := (0, 0), lane := 31, va := 0x1000, pa := 0x4000, mt := 0 }] } }
    (wordCells 0x4000 texDescWords ++ [(0x1000A, 77), (0x10FFF, 1)])
def texFields : TFmt := { d := 30, a := 20, res := 4, smp := 5, md := 0 }
/-- What a sample of lane 31 sees, with its descriptor and the state after the descriptor was read, satisfies a test. -/
def texSees (s : State) (p : Ctx → Sampled → State → TexRes → Bool) : Bool :=
  (slotCtx s oneHead).any fun c => c.run == 1#32 <<< (31 : Fin 32).val && (match s.texDesc c texFields with
    | (s0, some d) =>
      let k : Sampled := { core := c.core, slot := s.slotOf c.w, priv := s.priv c.w, ns := bit texFields.md 1 }
      decide (s0.slotOf c.w = k.slot ∧ s0.priv c.w = k.priv) && p c k s0 d
    | _ => false)
/-- tld of texel (2, 2) of level 0, whose tile is resident, and of the last texel of level 1, which lies in the tail; tex.l of level 1 to
the nearest texel and to the weighted four; an invalid descriptor and an invalid sampler. -/
theorem witness_DisplayScaleTexture_texels :
    texSees (texState 2 2 0 0) (fun _ k s d => decide (2 < d.wl 0 ∧ 2 < d.hl 0 ∧ 0 < d.tail ∧ 0 ≤ d.lm ∧ d.fmt ≤ 3) &&
      (match s.texRead k false (d.mapByte 0 (2 / d.tw, 2 / d.th)) 1 with
       | (s1, some [b]) => !b.bad && b.v.getLsbD 0 && (s1.texRead k true (d.texel 0 2 2) d.bytes).2.isSome
       | _ => false)) = true ∧
    texSees (texState 1 1 1 0) (fun _ k s d => decide (1 < d.wl 1 ∧ 1 < d.hl 1 ∧ d.tail ≤ 1 ∧ 1 ≤ d.lm) &&
      (s.texRead k true (d.texel 1 1 1) d.bytes).2.isSome) = true ∧
    ([(0 : Nat), 1].all fun filt => texSees (texState 0x3F000000 0x3F000000 0x3F800000 (BitVec.ofNat 64 (16 * filt + 256 * 2 ^ 38))) fun c k s d =>
      (match Sampler.parse (c.w.r.sc texFields.smp.toNat) with
       | some p =>
         let lam : Int := (256 * (1 : Rat)).floor + p.bias
         let l : Nat := ((min (max lam p.minl) (min (p.maxl : Int) (256 * d.lm)) + 128) / 256).toNat
         let q := wantL d p (mkRat 1 2) (mkRat 1 2) 1
         decide (p.filt < 2) && (match s.mapMiss k d q l with
           | (s1, none) => (match s1.fetchLevel k d q l with | (_, .inr [_]) => true | _ => false)
           | _ => false)
       | none => false)) = true ∧
    (slotCtx (waveState wave0) h0).any (fun c => ((waveState wave0).texDesc c texFields).2.isNone) = true ∧
    Sampler.parse 0x30 ≠ none ∧ Sampler.parse 3 = none := by
  refine ⟨by decide +kernel, by decide +kernel, by decide +kernel, by decide +kernel, by decide, by decide⟩
/-- A survey ring of 16 entries at 0x10200 with its header at 0x10100: one entry free, none free; a header with a reserved bit; a ring without an
address, at a misaligned one and at one that no page has; a misaligned entry. Nothing waits to reach the LLC. -/
def ringRes : TexRes := { base := 0x10000, w := 4, h := 4, lm := 0, tail := 0, fmt := 3, map := 0, ring := 0x10100, rid := 9 }
def sampler0 : Sampled := { core := 0, slot := 0, priv := false, ns := false }
def surveyState (w0 w1 tail : Dword) : State := mapped (idleState wave0) (wordCells 0x10100 [w0, w1, 1, tail, 5])
theorem witness_DisplayScaleTexture_survey :
    ([(4, 16), (4, 17), (0x24, 16)].all fun (e : Dword × Dword) =>
      let s := surveyState 0x10200 e.1 e.2
      decide (s.memOk = true ∧ (s.core 0).wc = [] ∧ s.l2 = [] ∧ s.tex.survey = []) &&
      (match s.checkVa 0 0 false .load 64 false ringRes.ring with
       | (h, .ok pa _) =>
         let p := (linesOf pa 64).foldl (fun s n => (s.purgeLine n).touchView n) h
         let w (n : Nat) : Dword := s.llcWord (pa + 8 * n)
         let ea : Dword := w 0 + BitVec.ofNat 64 (16 * ((w 3).toNat % 16))
         decide (s.range pa = .mem ∧ pa % 64 = 0 ∧ anyBad (s.llcBytes pa 64) = false ∧ w 5 = 0 ∧ w 6 = 0 ∧ w 7 = 0) &&
         ((List.range 64).all fun i => decide (s.viewAt (pa + i) = none ∧ s.channelDead (pa + i) = false)) &&
         ((w 1 != 4) == (e.1 != 4)) && (decide ((w 3 - w 2).toNat < 16) == (e.2 != 17)) &&
         (match p.checkVa 0 0 false .store 64 false ringRes.ring with
          | (wh, .ok _ _) => (match wh.checkVa 0 0 false .store 16 (bits ea 3 0 != 0) ea with
            | (_, .ok b _) => decide (s.range b = .mem ∧ b % 16 = 0 ∧ pa + 64 ≤ b) &&
              ((List.range 16).all fun i => decide (s.viewAt (b + i) = none ∧ s.channelDead (b + i) = false))
            | _ => false)
          | _ => false)
       | _ => false)) = true ∧
    ({ ringRes with ring := 0 } : TexRes).ring = 0 ∧ (0x10101 : Dword).toNat % 64 ≠ 0 ∧
    (match (surveyState 0x10200 4 16).checkVa 0 0 false .load 64 false 0x100000000000000 with | (_, .ok _ _) => false | _ => true) = true ∧
    (match (surveyState 0x10208 4 16).checkVa 0 0 false .store 16 true 0x10208 with | (_, .ok _ _) => false | _ => true) = true := by
  refine ⟨by decide +kernel, rfl, by decide, by decide +kernel, by decide +kernel⟩

/-- A wave with a header of a queue of 16 records in s5, a record in s6: TAIL, the ring's first slot and COUNT have their places, and memory
holds the ring's address, its size and the count. -/
def forkPlace (va : Dword) (pa : Nat) : AccPlace := { at0 := (0, 0), lane := 0, va, pa, mt := 0 }
def forkState (n : Nat) : State :=
  let w := (wave0.withS 5 0x10000).withS 6 0x10200
  { idleState w with
    flight := some { flightOf w with placed := [forkPlace 0x10018 0x4018, forkPlace 0x10100 0x4080, forkPlace 0x10210 0x4100] }
    mem := wordCells 0x4000 [0x10100, 4] ++ wordCells 0x4100 [BitVec.ofNat 64 n] }
theorem plain_of_all {s : State} {a n : Nat} (h : (List.range n).all (fun i => decide (s.viewAt (a + i) = none ∧ s.channelDead (a + i) = false)) = true)
    (i : Nat) (hi : i < n) : s.plainByte (a + i) := by
  simpa [State.plainByte] using List.all_eq_true.1 h i (List.mem_range.2 hi)
/-- fork, and join from COUNT 1 and from COUNT 2, with every premise about memory. -/
theorem witness_CommandsAndTasks_memory : ∀ n : Nat, n = 1 ∨ n = 2 →
    ∃ c, RunsIn (forkState n) h0 c ∧ (forkState n).agrees c.core ∧ (forkState n).memOk = true ∧ (forkState n).rep.state = 0 ∧
      (∀ r : State, r.headerAcc c (c.w.r.sc 5) = (r, .inr 0x4018)) ∧
      (let q := (forkState n).queueAt c.core 0x4018
       q.full = false ∧ (∀ r : State, r.taskAcc c .store false q.at' = (r, .inr 0x4080)) ∧ (forkState n).word8 0x4018 q.tail.toNat) ∧
      (∀ i, i < 128 → (forkState n).plainByte (128 * (0x4080 / 128) + i)) ∧
      (∀ r : State, r.taskAcc c .atom false (c.w.r.sc 6 + 0x10) = (r, .inr 0x4100)) ∧ (forkState n).word8 0x4100 n := by
  intro n hn
  obtain ⟨c, hr, h⟩ := sees_runs (s := forkState n) (h := h0) (p := fun c => decide (c.core = 0 ∧ c.w.r.sc 5 = 0x10000 ∧ c.w.r.sc 6 = 0x10200 ∧
    c.placed? { lane := 0, va := 0x10018, size := 8, mis := false } = some (0x4018, 0) ∧
    c.placed? { lane := 0, va := 0x10100, size := 8, mis := false } = some (0x4080, 0) ∧
    c.placed? { lane := 0, va := 0x10210, size := 8, mis := false } = some (0x4100, 0))) (by rcases hn with rfl | rfl <;> decide +kernel)
  obtain ⟨hc, h5, h6, p1, p2, p3⟩ := of_decide_eq_true h
  have hp (k : Nat) (hk : k ∈ [0x4000, 0x4080, 0x4100]) (i : Nat) (hi : i < 128) : (forkState n).plainByte (k + i) := by
    refine plain_of_all ?_ i hi
    simp only [List.mem_cons, List.not_mem_nil, or_false] at hk
    rcases hn with rfl | rfl <;> rcases hk with rfl | rfl | rfl <;> decide +kernel
  refine ⟨c, hr, ⟨⟨by rw [hc]; rfl, fun l hl => by cases hl⟩, fun x => rfl⟩, ?_, rfl, ?_, ⟨?_, ?_, ?_⟩, hp 0x4080 (by decide), ?_, ?_⟩
  · rcases hn with rfl | rfl <;> decide +kernel
  · intro r; rw [h5]; exact State.taskAcc_placed p1
  · rw [hc]; rcases hn with rfl | rfl <;> decide +kernel
  · intro r; rw [hc, show ((forkState n).queueAt 0 0x4018).at' = 0x10100 by rcases hn with rfl | rfl <;> decide +kernel]; exact State.taskAcc_placed p2
  · rw [hc]; exact ⟨by decide, hp 0x4000 (by decide), by rcases hn with rfl | rfl <;> decide +kernel⟩
  · intro r; rw [h6]; exact State.taskAcc_placed p3
  · exact ⟨by decide, hp 0x4100 (by decide), by rcases hn with rfl | rfl <;> decide +kernel⟩
/-- A draw record that is open on the die, one that is not, and one whose close is ignored. -/
theorem witness_CommandsAndTasks_draws :
    (let s : State := { waveState wave0 with draws := [draw1 false] }
     ∃ d, d ∈ s.draws ∧ d.die = 0 ∧ d.slot = 0 ∧ d.addr = 0x8000000000000000 ∧ d.isOpen = true) ∧
    (waveState wave0).draws = [] ∧ (waveState wave0).drawClosed 0 9 = false ∧
    ({ waveState wave0 with culls := [{ die := 0, queue := [], closed := [(0, 9)] }] } : State).drawClosed 0 9 = true :=
  ⟨⟨draw1 false, by simp, rfl, rfl, rfl, rfl⟩, rfl, rfl, rfl⟩

/-- A wave at the end of a loop's body whose group ends with a control operation. -/
def endFlight (ctl : Ctl) : Flight := { flightOf loopWave with pc := 448, ctl }
def endState (w : Wave) (fl : Flight) : State := { idleState w with flight := some fl }
theorem witness_GroupEnd_control :
    ∀ ctl ∈ [Ctl.none, .call (BitVec.allOnes 32) 640 2, .loop 0xF 320 448 4, .loop 0xF 320 448 0, .exit 1 64],
    let s := endState loopWave (endFlight ctl)
    s.flight = some (endFlight ctl) ∧ s.owner (endFlight ctl).owner = some loopWave ∧ (endFlight ctl).owner = .wave 2 ∧ (endFlight ctl).bundles ≠ [] ∧
      (endFlight ctl).trap = none ∧ (endFlight ctl).waits = [] ∧ ((endFlight ctl).lanes.has 31 = true ∧ ¬(endFlight ctl).exitsIn 31) ∧
      (∀ i : Fin 32, (loopWave.threads.get i).st = .runnable) := by
  simp only [List.forall_mem_cons]
  refine ⟨?_, ?_, ?_, ?_, ?_, by simp⟩ <;>
    exact ⟨rfl, rfl, rfl, by decide, rfl, rfl, ⟨by decide, by simp [Flight.exitsIn, endFlight] <;> decide⟩, by decide +kernel⟩

/-- All threads go to 64 and meet there; threads 16 to 31 are elsewhere, with 64 in their meeting register or not. -/
def meetWave (far : Bool) : Wave :=
  { wave0 with threads := Vector.ofFn fun i => { wave0.threads.get i with meet := if far && decide (15 < i.val) then 64 else 0 } }
def meetFlight : Flight := { flightOf wave0 with lanes := 0xFFFF, meets := [(0xFFFF, List.replicate 32 64)] }
theorem witness_GroupEnd_meets (far : Bool) :
    let s := endState (meetWave far) meetFlight
    s.flight = some meetFlight ∧ s.owner meetFlight.owner = some (meetWave far) ∧ meetFlight.waits = [] ∧ meetFlight.trap = none ∧
      meetFlight.ctl = .none ∧ meetFlight.lanes.has 0 = true ∧ (List.replicate 32 (64 : Dword)).getD 0 0 = meetFlight.pc + 64 ∧
      (∀ i : Fin 32, ((meetWave far).threads.get i).st = .runnable) ∧
      (far = true → meetFlight.lanes.has 31 = false ∧ ((meetWave far).threads.get 31).meet = 64) ∧
      (far = false → ∀ j : Fin 32, meetFlight.lanes.has j = false → ((meetWave far).threads.get j).meet ≠ 64) := by
  refine ⟨rfl, rfl, rfl, rfl, rfl, by decide, by decide, ?_, ?_, ?_⟩ <;> revert far <;> decide +kernel

/-- Threads that begin each wait; a wave whose monitor is not armed, armed, and triggered; a barrier at which others are missing, or none. -/
def waitReq (m : Mask) (kind : WKind) : WaitReq := { m, kind, pd := 3, vform := 1, votes := m, cycles := 5 }
def monWave (armed trig : Bool) : Wave :=
  { wave0 with c := { wave0.c with mon := if armed then some 64 else none, monTrig := trig }, lines := { wave0.lines with resident := BitVec.allOnes 133, dead := 0 } }
def waitFlight (m : Mask) (kind : WKind) : Flight := { flightOf wave0 with waits := [waitReq m kind] }
theorem witness_GroupEnd_waits (all : Bool) : ∀ kind ∈ [WKind.sleep, .wait, .waitLim, .barc, .bar, .vote], ∀ x ∈ [(false, false), (true, false), (true, true)],
    let m : Mask := if all then BitVec.allOnes 32 else 0xFFFF
    let w := monWave x.1 x.2
    let s := endState w (waitFlight m kind)
    s.flight = some (waitFlight m kind) ∧ s.owner (waitFlight m kind).owner = some w ∧ (waitFlight m kind).trap = none ∧
      (waitFlight m kind).waits = [waitReq m kind] ∧ (waitFlight m kind).ctl = .none ∧ (waitFlight m kind).lanes.has 0 = true ∧ m.has 0 = true ∧
      (∀ i : Fin 32, (w.threads.get i).st = .runnable) ∧ (waitReq m kind).cycles ≠ 0 ∧
      ((waitFlight m kind).kills = [] ∧ w.isActive = true ∧ w.holds 132 = true ∧ w.owed = [] ∧ (waitReq m kind).pd ≠ 0) ∧
      (w.c.mon = none ↔ x.1 = false) ∧ w.c.monTrig = x.2 ∧ w.surveyor = false ∧
      (all = false → (waitFlight m kind).lanes.has 31 = true ∧ m.has 31 = false) ∧
      (all = true → (∀ j : Fin 32, (waitFlight m kind).lanes.has j = true ∧ m.has j = true) ∧ s.waves = [w]) := by
  intro kind _ x hx
  simp only [List.mem_cons, List.not_mem_nil, or_false] at hx
  rcases hx with rfl | rfl | rfl <;> cases all <;>
    exact ⟨rfl, rfl, rfl, rfl, rfl, (by decide : (flightOf wave0).lanes.has 0 = true), by decide, by decide +kernel, by simp [waitReq],
      ⟨rfl, rfl, by decide +kernel, rfl, by simp [waitReq]⟩, by simp [monWave], rfl, rfl,
      fun _ => by first | contradiction | exact ⟨(by decide : (flightOf wave0).lanes.has 31 = true), by decide⟩,
      fun _ => by first | contradiction | exact ⟨fun j => ⟨(by decide : ∀ j : Fin 32, (flightOf wave0).lanes.has j = true) j, by revert j; decide⟩, rfl⟩⟩

/-- A trap taken while the ring has no room; groups of a line core in a loop, and one that exits. -/
def lineLoopWave : Wave := { lineWave with r := { lineWave.r with loops := [{ start := 320, stop := 0, count := 4 }] } }
def lineEnd (exits : Mask) : Flight := { lineFlight lineWave with ctl := if exits = 0 then .none else .exit exits 64 }
theorem witness_GroupEnd_rest :
    (let fl := { flightOf wave0 with trap := some { code := 0x0D, m := BitVec.allOnes 32, slot := 7, addr := 0x42, info := 9 } }
     trapState.flight = some fl ∧ trapState.owner fl.owner = some wave0 ∧ (fl.trap.any fun q => decide (q.code ≠ 0x0B)) = true ∧ wave0.c.stopped = false ∧ fl.waits = [] ∧
      fl.ctl = .none ∧ (∀ i : Fin 32, (wave0.threads.get i).st = .runnable) ∧ trapState.ringRoom = false) ∧
    ∀ e ∈ [(0 : Mask), BitVec.allOnes 32], let s : State := { lineState lineLoopWave with flight := some (lineEnd e) }
      s.owner (lineEnd e).owner = some lineLoopWave ∧ (lineEnd e).owner = .line 0 ∧ (lineEnd e).trap = none ∧ (lineEnd e).exits.1 = e ∧
      ∃ run, (s.line 0).run = some run ∧ run.closing = false := by
  refine ⟨⟨rfl, rfl, by decide, rfl, rfl, rfl, by decide +kernel, by decide +kernel⟩, fun e he => ?_⟩
  simp only [List.mem_cons, List.not_mem_nil, or_false] at he
  rcases he with rfl | rfl <;> exact ⟨rfl, rfl, rfl, by decide, _, rfl, rfl⟩

/-- A bundle of a header and operations in their slots. -/
def bundleOf (hdr : Nat) (ops : List (Nat × Instr)) : FBundle :=
  { bits := BitVec.ofNat 512 (ops.foldl (fun n o => n + ((encodeSlot o.2).getD 0).toNat * 2 ^ (64 + 56 * o.1)) hdr), bad := false }
/-- s3 := s1 + 1, s4 := s3 + 1, and v5 := v5 in its running lanes, guarded by p3. -/
def addTo (d a : BitVec 6) : Instr := .add h0 (.i { d, a, ty := .n64, cond := 0, imm := 1 })
def cmpTo (p : BitVec 5) : Instr := .cmp h0 (.i { d := p.zeroExtend 6, a := 1, ty := .n64, cond := 0, imm := 1 })
def movIf (b : Bool) : Instr := .vmov { h0 with gp := 3 } { d := 5, a := 0, b := 5, c := 0, ty := .i8, md := 0, bsel := b }
def movOf (d : BitVec 7) : Instr := .vmov h0 { d, a := 0, b := 5, c := 0, ty := .i8, md := 0, bsel := false }
/-- Encodings that trap: an undefined operation, a header of the other profile, one of five tests, no closing bundle; a register that a later
operation reads, writes or has for its guard, one that an earlier operation reads, the broadcast register and a test's register. -/
theorem witness_GroupIssue_encodings :
    (let b : FBundle := { bits := 1 + 0xEF * 2 ^ 103, bad := false }
     decodeSlot .c 0 (slotOf b.bits 0) = none) ∧
    hdrProf lineBundle.bits ≠ 0 ∧ hdrProf plainBundle.bits ≠ 1 ∧ 4 < hdrTcnt (bundleOf (1 + 5 * 8) []).bits ∧ hdrStop (lastBits [bundleOf 0 []]) = false ∧
    (let pairs : List (Instr × Nat × Instr × Nat × Reg) := [(addTo 3 1, 0, addTo 4 3, 0, .s 3), (addTo 3 1, 0, addTo 3 1, 0, .s 3), (cmpTo 3, 0, movIf false, 1, .p 3),
       (addTo 4 3, 0, addTo 3 1, 0, .s 3), (movIf false, 1, cmpTo 3, 0, .p 3)]
     ∀ x ∈ pairs, let bs := [bundleOf 0 [(x.2.1, x.1)], bundleOf 1 [(x.2.2.2.1, x.2.2.1)]]
       (groupSlots .c bs).any (fun l => groupLegal .c false false bs l && ((liveOps l).map fun o => o.i) == [x.1, x.2.2.1]) = true ∧
       ((x.2.2.2.2 ∈ x.1.writes ∧ (x.2.2.2.2 ∈ x.2.2.1.reads ∨ x.2.2.2.2 ∈ x.2.2.1.writes ∨ ∃ h : Head, x.2.2.1.head? = some h ∧ x.2.2.2.2 = .p h.gp.toNat)) ∨
        (x.2.2.2.2 ∈ x.2.2.1.writes ∧ (x.2.2.2.2 ∈ x.1.reads ∨ ∃ h : Head, x.1.head? = some h ∧ x.2.2.2.2 = .p h.gp.toNat)))) ∧
    (let bs := [bundleOf (1 + 2 ^ 42 + 3 * 2 ^ 43) [(0, addTo 3 1), (1, movOf 5)]]
     (groupSlots .c bs).any (fun l => (liveOps l).any fun o => o.i == addTo 3 1) = true ∧ .s 3 ∈ (addTo 3 1).writes ∧
      bs.any (fun b => hdrBpe b.bits && hdrBps b.bits == 3) = true) ∧
    (let bs := [bundleOf (1 + 8 + 3 * 2 ^ 6) [(0, cmpTo 3)]]
     (groupSlots .c bs).any (fun l => (liveOps l).any fun o => o.i == cmpTo 3) = true ∧ .p 3 ∈ (cmpTo 3).writes ∧
      (treeOf (lastBits bs)).tests.map (fun t => t.pred) = [3]) := by
  refine ⟨by decide +kernel, by decide +kernel, by decide +kernel, by decide +kernel, by decide +kernel, ?_, by decide +kernel, by decide +kernel⟩
  intro pairs x hx
  simp only [pairs, List.mem_cons, List.not_mem_nil, or_false] at hx
  rcases hx with rfl | rfl | rfl | rfl | rfl <;> refine ⟨by decide +kernel, ?_⟩
  · exact .inl ⟨by decide, .inl (by decide)⟩
  · exact .inl ⟨by decide, .inr (.inl (by decide))⟩
  · exact .inl ⟨by decide, .inr (.inr ⟨_, rfl, by decide⟩)⟩
  · exact .inr ⟨by decide, .inl (by decide)⟩
  · exact .inr ⟨by decide, .inr ⟨_, rfl, by decide⟩⟩

/-- A wave whose next group has an undefined operation, a dependence, or a test on a poisoned predicate. -/
def badBundle : Fin 3 → FBundle
  | 0 => { bits := 1 + 0xEF * 2 ^ 103, bad := false }
  | 1 => bundleOf (1 + 8 + 3 * 2 ^ 6) [(0, cmpTo 3)]
  | _ => bundleOf (1 + 8 + 3 * 2 ^ 6) []
def badWave (k : Fin 3) : Wave :=
  { issueWave with targets := wave0.targets.setIfInBounds 2 { targetEntry with got := [badBundle k] }, r := { issueWave.r with pbad := 8 } }
def badState (k : Fin 3) : State := { mapped (idleState (badWave k)) [] with cores := [{ coreReset 0 with lru := [(2, 131), (2, 132)] }] }
theorem badState_plain : ∀ k : Fin 3, (badState k).rep.state ≠ 2 ∧ ((badState k).core 0).free ≤ (badState k).cycle ∧ (badState k).withheldNow = false ∧
    (badState k).ringRoom = false ∧ (badBundle k).bad = false := by decide +kernel
theorem witness_GroupIssue_traps (k : Fin 3) :
    ∃ w, (badState k).selectWave 0 = some w ∧ (badState k).wave? w.uid = some w ∧
      (badState k).fetchGroup w = (badState k, .got [badBundle k]) ∧ (badBundle k).bad = false ∧ (badState k).wdogOver w 1 = false ∧
      ((badState k).flight = none ∧ (badState k).rep.waiting = [] ∧ (badState k).rep.state ≠ 2 ∧ ((badState k).core 0).free ≤ (badState k).cycle ∧
        (badState k).withheldNow = false ∧ (badState k).ringRoom = false) ∧
      (k = 0 → encodingVerdict .c w.surveyor w.pair.isSome [badBundle k] w.cur = (none, .trap 0x01 0 w.cur 0)) ∧
      (k = 1 → encodingVerdict .c w.surveyor w.pair.isSome [badBundle k] w.cur = (none, .trap 0x02 0 w.cur 0)) ∧
      (k = 2 → encodingVerdict .c w.surveyor w.pair.isSome [badBundle k] w.cur = (some [], .go) ∧
        ∃ d m a n, (badState k).dataVerdict (newFlight (.wave w.uid) w.r w.nextPc [badBundle k] w.cur []) w [] = (badState k, .trap 0x08 d m a n, [])) := by
  have h : ((badState k).selectWave 0).any (fun w => decide ((badState k).wdogOver w 1 = false ∧ (badState k).wave? w.uid = some w ∧ hdrStop (badBundle k).bits = true ∧
      ((w.cur.lowest.bind fun i => (w.threads.get i).via).bind fun bt => (w.targets.get ⟨bt.toNat, bt.isLt⟩).look w.nextPc)
        = some (some (badBundle k)) ∧
      encodingVerdict .c w.surveyor w.pair.isSome [badBundle k] w.cur =
        (match k with | 0 => (none, .trap 0x01 0 w.cur 0) | 1 => (none, .trap 0x02 0 w.cur 0) | _ => (some [], .go)) ∧
      (k = 2 → (match treePoison (newFlight (.wave w.uid) w.r w.nextPc [badBundle k] w.cur []) w with | .trap 0x08 .. => true | _ => false) = true))) = true := by
    revert k; decide +kernel
  obtain ⟨w, hw, h⟩ := (Option.any_eq_true _ _).1 h
  obtain ⟨h1, h2, hs, h3, h4, h5⟩ := of_decide_eq_true h
  refine ⟨w, hw, h2, fetchGroup_held hs h3, (badState_plain k).2.2.2.2, h1, ⟨rfl, rfl, (badState_plain k).1, (badState_plain k).2.1, (badState_plain k).2.2.1, (badState_plain k).2.2.2.1⟩,
    fun e => ?_, fun e => ?_, fun e => ⟨?_, ?_⟩⟩
  · subst e; exact h4
  · subst e; exact h4
  · subst e; exact h4
  · have h := h5 e
    split at h
    · rename_i d m a n hp
      exact ⟨d, m, a, n, by simp [State.dataVerdict, firstVerdict, Verdict.orElse, hp]⟩
    · cases h

/-- A walk that ends without a page leaves that outcome. -/
theorem translate_ends {s : State} {g slot va : Nat} {x : Tr} (hx : ∀ e, x ≠ .ok e)
    (h : s.walk (some (dieOf g)) slot (va / 4096) false = x ∧ s.walk (some (dieOf g)) slot (va / 4096) true = x)
    (ht : (s.core g).tlb.find? (fun e => e.slot == slot && e.vpage == va / 4096) = none) : s.translate (some g) slot va = (s, x) := by
  simp only [State.translate, Option.map_some, State.walkAny, h.1, h.2, beq_self_eq_true, if_true, ht]
theorem translate_finds {s : State} {g slot va : Nat} {e : TlbEntry}
    (h : s.walk (some (dieOf g)) slot (va / 4096) false = .ok e ∧ s.walk (some (dieOf g)) slot (va / 4096) true = .ok e)
    (ht : (s.core g).tlb.find? (fun e => e.slot == slot && e.vpage == va / 4096) = some e) : s.translate (some g) slot va = (s, .ok e) := by
  simp only [State.translate, Option.map_some, State.walkAny, h.1, h.2, beq_self_eq_true, if_true, ht]
/-- Operations of a wave whose words are poisoned: a scalar, a predicate, a vector in its running lanes. -/
def poisonWave : Wave :=
  { wave0 with r := { wave0.r with s := { wave0.r.s with bad := 4 }, pbad := 8, vbad := wave0.r.vbad.setIfInBounds 5 1 } }
def opOf (i : Instr) : GOp := { b := 0, k := 0, i }
def selOf : Instr := .sel h0 { d := 4, a := 2, b := 2, ty := .n64, cond := 0, pos := 3, len := 0 }
theorem witness_GroupIssue_poison :
    let s := idleState poisonWave
    let fl := flightOf poisonWave
    ∀ i ∈ [addTo 3 1, selOf, movOf 6],
      ((∀ q ∈ opOf i :: [], privVerdict (s.priv poisonWave) (s.opCtx fl poisonWave q) q.i = .go) ∧ treePoison fl poisonWave = .go ∧
        (∀ h, i.head? = some h → guardPoison (s.opCtx fl poisonWave (opOf i)) h = .go) ∧ (s.opCtx fl poisonWave (opOf i)).run ≠ 0) ∧
      let r := (s.opCtx fl poisonWave (opOf i)).w.r
      (i = addTo 3 1 → .s 1 ∈ i.reads ∧ r.scBad 1 = true) ∧ (i = selOf → .p 3 ∈ i.reads ∧ r.predBad 3 = true) ∧
      (i = movOf 6 → .v 5 ∈ i.reads ∧ (s.opCtx fl poisonWave (opOf i)).run &&& r.vecBad 5 ≠ 0) := by
  intro s fl i hi
  simp only [List.mem_cons, List.not_mem_nil, or_false] at hi
  rcases hi with rfl | rfl | rfl <;>
    exact ⟨⟨by decide +kernel, by decide +kernel, fun h e => by cases e; decide +kernel, by decide +kernel⟩, by decide +kernel⟩

/-- Loads of one address and of every lane, and loads of the scratchpad, with checks that fail: no virtual address, misaligned, past the group's
bytes; at entries that are malformed, invalid, absent, and without U. -/
def checkWave (a : Dword) : Wave := wave0.withS 4 a
def checkState (a : Dword) : State :=
  let m := mapped (idleState (checkWave a)) [(0x3011, 0x02), (0x3018, 1), (0x3019, 1), (0x3020, 3)]
  { m with cores := m.cores.map fun c => { c with tlb := c.tlb ++ [{ slot := 0, vpage := 0x100000, pa := 0, w := false, x := false, u := false, mt := 0, pages := 262144 }] } }
def checkLoad (off : BitVec 16) : LmFmt := { cls := 0, d := 10, base := 4, ty := .i32, addr := .off off }
def checkCtx (i : Instr) (a : Dword) : Ctx := (checkState a).opCtx (flightOf (checkWave a)) (checkWave a) (opOf i)
theorem witness_GroupIssue_checks :
    (∀ i ∈ [Instr.ldu h0 (checkLoad 0), .ld h0 (checkLoad 0), .lds h0 (checkLoad 0)], ∀ a ∈ [(0x100000000000000 : Dword), 0x10001, 0x20000000, 0x40000000, 0x80000000, 0xC0000000, 0x100000000],
      (privVerdict ((checkState a).priv (checkWave a)) (checkCtx i a) i = .go ∧ treePoison (flightOf (checkWave a)) (checkWave a) = .go ∧
        (∀ h, i.head? = some h → guardPoison (checkCtx i a) h = .go) ∧ (checkCtx i a).run ≠ 0 ∧ (checkCtx i a).srcPoison i = .go)) ∧
    (∀ i ∈ [Instr.ldu h0 (checkLoad 0), .ld h0 (checkLoad 0)],
      ((checkCtx i 0x100000000000000).accesses i).any (fun x => x.2.any fun a => decide (2 ^ 56 ≤ a.va.toNat)) = true ∧
      ((checkCtx i 0x10001).accesses i).any (fun x => (x.2.all fun a => decide (¬2 ^ 56 ≤ a.va.toNat)) && x.2.any fun a => a.mis) = true) ∧
    (let i : Instr := .lds h0 (checkLoad 0)
     ((checkCtx i 0x10001).accesses i).any (fun x => decide (x.1 = .scratch) && x.2.any fun a => a.mis) = true ∧
     ((checkCtx i 0x20000000).accesses i).any (fun x => decide (x.1 = .scratch) && (x.2.all fun a => !a.mis) &&
       x.2.any fun a => decide ((checkState 0x20000000).span (checkCtx i 0x20000000) < a.va.toNat + a.size)) = true) ∧
    (let i : Instr := .ldu h0 (checkLoad 0)
     let one (a : Dword) (x : Tr) : Prop := (checkCtx i a).accesses i = some (.mem .load, [{ lane := 0, va := a, size := 4, mis := false }]) ∧ ¬2 ^ 56 ≤ a.toNat ∧
       (checkState a).translate (some (checkCtx i a).core) ((checkState a).slotOf (checkCtx i a).w) a.toNat = (checkState a, x)
     one 0xC0000000 .malformed ∧ one 0x40000000 .unmapped ∧ one 0x80000000 (.absent (0x3010 / 128)) ∧
     ∃ e, one 0x100000000 (.ok e) ∧ (checkState 0x100000000).permOk e (e.pa + 0x100000000 % 4096) 4 ((checkState 0x100000000).priv (checkCtx i 0x100000000).w) .load = false) := by
  refine ⟨?_, ?_, by decide +kernel, ?_, ?_, ?_, ?_⟩
  · intro i hi a ha
    simp only [List.mem_cons, List.not_mem_nil, or_false] at hi ha
    rcases hi with rfl | rfl | rfl <;> rcases ha with rfl | rfl | rfl | rfl | rfl | rfl | rfl <;>
      exact ⟨by decide +kernel, by decide +kernel, fun h e => by cases e; decide +kernel, by decide +kernel, by decide +kernel⟩
  · decide +kernel
  · exact ⟨by decide +kernel, by decide, translate_ends (fun e => by simp) (by decide +kernel) (by decide +kernel)⟩
  · exact ⟨by decide +kernel, by decide, translate_ends (fun e => by simp) (by decide +kernel) (by decide +kernel)⟩
  · exact ⟨by decide +kernel, by decide, translate_ends (fun e => by simp) (by decide +kernel) (by decide +kernel)⟩
  · exact ⟨{ slot := 0, vpage := 0x100000, pa := 0, w := false, x := false, u := false, mt := 0, pages := 262144 },
      ⟨by decide +kernel, by decide, translate_finds (by decide +kernel) (by decide +kernel)⟩, by decide +kernel⟩

/-- The log of core 3 stands at a RUN entry of a wave that is no more; a peer's link trains, and has trained. -/
def goneState : State :=
  { State.reset with rep := { State.reset.rep with state := 2, logs := [replayLog] }, mem := [(32, 2)], arg := arg 3 0 }
theorem witness_DebugReplayLifeSteps_later :
    (let w := { wave0 with c := { wave0.c with halted := true } }
     (dbgState w 0x1000 3 (arg 0 0)).flight = none ∧ (dbgState w 0x1000 3 (arg 0 0)).rep.waiting = []) ∧
    (goneState.rep.logs.find? (fun l => l.unit == goneState.arg.a) = some replayLog ∧ goneState.rep.state = 2 ∧ goneState.runGone goneState.arg.a = true) ∧
    (let x : LrateWait := { src := .bench 0 9, rslot := 0, region := 0 }
     let s := regState { State.reset with lrateQ := [x] } 0
     s.grids = [] ∧ s.heldSlot x = s.arg.x.toNat % 4096 ∧ s.stillWaits x.src = false) ∧
    (let i : Image := { kind := 2, version := 5, digest := 0 }
     (∀ k, ({ lifeReset with images := [i] } : Life).state ≠ .starting k) ∧ (lifeReset.minVersion.toList.getD (i.kind - 1) 0).toNat ≤ i.version.toNat) ∧
    (let s := svcState 4
     s.life.retrain = none ∧ ∀ due, due ∈ [0, 1] → let t : State := { s with life := { s.life with retrain := some (true, due) } }
       t.svcHead = some (0x6000, .inr (svcWords s)) ∧ svcOk (svcWords s) = true ∧ ((svcWords s).getD 0 0).toNat % 16 = 4 ∧ t.life.retrain = some (true, due) ∧
         (due = 1 → t.now < due) ∧ (due = 0 → due ≤ t.now)) := by
  refine ⟨⟨rfl, rfl⟩, by decide +kernel, by decide +kernel, ⟨fun k => by simp [lifeReset], by decide⟩, by decide +kernel⟩

/-- A window whose control changes its size: monitors in the old view and in the new, and lines of both. -/
def viewCtl (pages : Nat) : Dword := BitVec.ofNat 64 (0x45 + 65536 * pages)
def viewState : State :=
  let w (u n : Nat) : Wave := { wave0 with uid := u, c := { wave0.c with mon := some n } }
  let l (n : Nat) : ViewLine := { line := n, data := 0, bad := 0 }
  { idleState wave0 with waves := [w 2 0x100000000, w 3 0x100000020],
                         sys := { State.reset.sys with fwin := (State.reset.sys.fwin.setIfInBounds 0 0x8000000000).setIfInBounds 3 (viewCtl 1) },
                         views := [l 0x100000000, l 0x100000020, l 5], arg := arg 0 0 0 (viewCtl 2) }
theorem witness_MemorySteps_views :
    viewState.arg.a < 16 ∧ ∃ f t, viewState.window 0 = some f ∧
      ({ viewState with sys := { viewState.sys with fwin := viewState.sys.fwin.setIfInBounds 3 (viewCtl 2) } } : State).window 0 = some t ∧
      (∃ y, y ∈ viewState.waves ∧ y.c.mon = some 0x100000000) ∧ f.view < 128 * 0x100000000 + 128 ∧ 128 * 0x100000000 < f.view + 4096 * f.pages ∧
      (∃ y, y ∈ viewState.waves ∧ y.c.mon = some 0x100000020) ∧ t.view < 128 * 0x100000020 + 128 ∧ 128 * 0x100000020 < t.view + 4096 * t.pages := by
  refine ⟨by decide, _, _, rfl, rfl, ⟨_, List.mem_cons_self, rfl⟩, by decide +kernel, by decide +kernel, ⟨_, List.mem_cons_of_mem _ List.mem_cons_self, rfl⟩,
    by decide +kernel, by decide +kernel⟩
/-- A close whose draw no close has reached yet; a delivered flit that came before this cycle. -/
theorem witness_LaunchAndTaskSteps_close : ∀ kind : Fin 3, (cullState kind).drawClosing (cullReq kind).slot (cullReq kind).draw = false := by decide +kernel
theorem witness_FabricSteps_arrival : ∀ f, f ∈ (ringPacket { place := .delivery, since := 5 }).flits → f.since < (ringState 400 { place := .delivery, since := 5 }).cycle := by
  decide +kernel

/-- Memory right after reset is in canonical form. -/
theorem test_reset_mem : State.reset.memOk = true := by decide

end Sys2Proof.Tests
end

/-! # Reset, and the loads of a line core -/

namespace Sys2Proof.Machine
open Sys2Proof

/-! What reset leaves. -/

/-- A register of the format windows reads its entry of their table (R227). -/
theorem State.sysRead_fwin (s : State) (g k : Nat) (hk : k < 64) : s.sysRead g (0x100 + k) = s.sys.fwin.toList.getD k 0 := by
  unfold State.sysRead
  rw [if_pos (by simp; omega), Nat.add_sub_cancel_left]

theorem State.sysRead_reset_fwin (g k : Nat) (hk : k < 64) : State.reset.sysRead g (0x100 + k) = 0 := by
  have hzero : State.reset.sys.fwin.toList = List.replicate 64 0 := rfl
  rw [State.sysRead_fwin _ g k hk, hzero, List.getD_eq_getElem?_getD, List.getElem?_replicate, if_pos hk,
    Option.getD_some]

/-- The registers of the fault ring, the context table, the frame partition, debug, replay and the device read zero. -/
theorem State.sysRead_reset (g srn : Nat) (h : srn ∈ [0x010, 0x011, 0x012, 0x013, 0x018, 0x040, 0x080, 0x090, 0x091, 0x092, 0xA00,
    0xA02, 0xA04, 0xA05, 0xA30, 0xA31, 0xA32, 0xC00, 0xC02, 0xC08]) : State.reset.sysRead g srn = 0 := by
  simp only [List.mem_cons, List.not_mem_nil, or_false] at h
  rcases h with rfl | rfl | rfl | rfl | rfl | rfl | rfl | rfl | rfl | rfl | rfl | rfl | rfl | rfl | rfl | rfl | rfl | rfl | rfl | rfl <;> rfl

/-! A load of a line core, over a line that a die holds dirty. -/

/-- A load of one byte by each running lane from address 0 on. -/
def lineByteLoad : LmFmt := { cls := 0, d := 1, base := 63, ty := .n8, addr := .off 0 }
/-- No tag and no guard. -/
def unguarded : Head := { tag := .always, neg := false, gp := 0 }
/-- The access that it makes in lane 0. -/
def lineAccess : MemAcc := { lane := 0, va := 0, size := 1, mis := false }
/-- Where the access performs. -/
def linePlace : AccPlace := { at0 := (0, 0), lane := 0, va := 0, pa := 0, mt := 1 }
/-- The wave of a run of line core 0. -/
def lineLoadWave : Wave := runWave 0 0 0 1 0 0 0
/-- The group that issues the load in lane 0, its access placed. -/
def lineLoadFlight : Flight := { newFlight (.line 0) lineLoadWave.r 0 [{ bits := 1, bad := false }] 1 [] with placed := [linePlace] }
/-- Line core 0 with an atlas entry that maps address 0 to physical address 0, while the L2 of die 0 holds a byte of line 0 that
a compute core has stored and that the LLC lacks. -/
def lineLoadState : State :=
  { State.reset with
    flight := some lineLoadFlight,
    disp := { lines := [{ lineCoreReset 0 with wave := some lineLoadWave, atlas := [(0, 1)] }], heads := [], mailbox := [] },
    l2 := [{ die := 0, line := 0, data := 0xAA, valid := 1, dirty := 1, bad := 0 }] }
/-- What the load sees. -/
def lineLoadCtx : Ctx := { fl := lineLoadFlight, w := lineLoadWave, prof := .d, run := 1, bits := 1, addr := 0, core := 0 }

theorem lineLoad_runs : RunsIn lineLoadState unguarded lineLoadCtx := ⟨by decide +kernel, by decide⟩
theorem lineLoad_accesses :
    lineLoadCtx.perLane lineByteLoad.ty.size (lineLoadCtx.laneAddr lineByteLoad lineByteLoad.ty.size) = [lineAccess] := by decide +kernel
/-- The place is the one that the check of the issuing group finds (R400). -/
theorem lineLoad_checked :
    lineLoadState.checkAcc lineLoadCtx (.mem .load) false lineAccess = (lineLoadState, .ok linePlace.pa linePlace.mt) := by decide +kernel
theorem lineLoad_place : lineLoadCtx.place? lineAccess = some linePlace := by decide +kernel
/-- The load leaves the byte at the LLC as it was: a line core reads there, and no die writes its line back (R400). -/
theorem lineLoad_llcByte {t : State} (h : exec (.ld unguarded lineByteLoad) lineLoadState = .next t) : t.llcByte 0 = clean 0 := by
  have hrun : (match exec (.ld unguarded lineByteLoad) lineLoadState with | .next u => u.llcByte 0 | _ => clean 1) = clean 0 := by
    decide +kernel
  rwa [h] at hrun
/-- The byte that the die would send to the LLC is another. -/
theorem lineLoad_settled : lineLoadState.settled lineLoadCtx.core 0 = clean 0xAA := by decide +kernel

end Sys2Proof.Machine

section
open Sys2Proof Sys2Proof.Machine

/-- Settles O43: every part of the device that reset does not list stands in its own reset state, and every register reads zero. -/
theorem resetState : Obligations.ResetState := by
  unfold Obligations.ResetState
  exact ⟨rfl, rfl, rfl, rfl, rfl, fun pa => ⟨rfl, rfl⟩, State.sysRead_reset, State.sysRead_reset_fwin 0,
    fun g => ⟨rfl, rfl, rfl⟩, fun h => ⟨rfl, rfl, rfl⟩, fun q => ⟨rfl, rfl⟩, fun p => ⟨rfl, rfl⟩, rfl, rfl⟩

/-- Refutes O44: `LoadsOnly.placed` asks of the loads of every owner that a line read at a memory type other than write-back reaches
the LLC first. The check places a line core's accesses at such a type, and a line core reads at the LLC without any die writing its
line back (R400). Its number names a compute core whose die holds a dirty byte of that line. -/
theorem not_loads : ¬ Obligations.Loads := by
  unfold Obligations.Loads
  rintro ⟨hloads, -⟩
  obtain ⟨⟨t, _, _, _, hexec, -, honly, -⟩, -⟩ := hloads lineLoadState unguarded lineByteLoad lineLoadCtx lineLoad_runs
  rw [lineLoad_accesses] at honly
  obtain ⟨-, hsettles⟩ := honly.placed rfl (by simp [lineLoad_place]) 0 (by decide +kernel)
  obtain ⟨⟨hllc, -⟩, -⟩ := hsettles
    (.inl ⟨lineAccess, linePlace, by simp, lineLoad_place, rfl, by decide +kernel, by decide, by decide⟩) (by decide +kernel)
  rw [lineLoad_llcByte hexec, lineLoad_settled] at hllc
  exact absurd hllc (by decide)

end

/-! # Traps by instruction and the system registers -/

namespace Sys2Proof.Machine
open Sys2Proof

/-! Fields of a register word. -/

theorem bits_low {n : Nat} (x : BitVec n) (hi : Nat) : bits x hi 0 = x.toNat % 2 ^ (hi + 1) := rfl
/-- The bits of a doubleword from `lo` up are its quotient. -/
theorem bits_high (x : Dword) {lo : Nat} (hlo : lo ≤ 64) : bits x 63 lo = x.toNat / 2 ^ lo := by
  rw [bits, Nat.shiftRight_eq_div_pow, Nat.mod_eq_of_lt]
  exact Nat.div_lt_of_lt_mul (by rw [← Nat.pow_add, show lo + (63 + 1 - lo) = 64 by omega]; exact x.isLt)
/-- A field of a word is its quotient cut to the field's width. -/
theorem bits_div {n : Nat} (x : BitVec n) (hi lo : Nat) : bits x hi lo = x.toNat / 2 ^ lo % 2 ^ (hi + 1 - lo) := by
  rw [bits, Nat.shiftRight_eq_div_pow]

/-- The bits that a register keeps. -/
theorem getLsbD_keepBits (x : Dword) (hi lo i : Nat) :
    (keepBits x hi lo).getLsbD i = (decide (i < 64) && decide (lo ≤ i) && decide (i < hi + 1) && x.getLsbD i) := by
  by_cases hlo : lo ≤ i
  · have hsub : i - lo < hi + 1 - lo ↔ i < hi + 1 := by omega
    simp [keepBits, bits, BitVec.getLsbD_ofNat, Nat.testBit_mul_two_pow, Nat.testBit_mod_two_pow, Nat.testBit_shiftRight, hlo, hsub,
      BitVec.testBit_toNat, Bool.and_assoc]
  · simp [keepBits, BitVec.getLsbD_ofNat, Nat.testBit_mul_two_pow, hlo]
/-- Keeping a field of a word is masking it. -/
theorem keepBits_eq_and {x m : Dword} {hi lo : Nat}
    (hm : ∀ i, i < 64 → m.getLsbD i = (decide (lo ≤ i) && decide (i < hi + 1))) : keepBits x hi lo = x &&& m := by
  apply BitVec.eq_of_getLsbD_eq
  intro i hi64
  rw [getLsbD_keepBits, BitVec.getLsbD_and, hm i hi64]
  simp [hi64, Bool.and_comm]

/-! The core of an operation that runs. -/

theorem slotCtx_prof {s : State} {h : Head} {c : Ctx} (hc : slotCtx s h = some c) : c.prof = c.fl.owner.prof := by
  obtain ⟨fl, -, hm⟩ := Option.bind_eq_some_iff.1 hc
  obtain ⟨w0, -, rfl⟩ := Option.map_eq_some_iff.1 hm
  rfl
theorem slotCtx_core {s : State} {h : Head} {c : Ctx} (hc : slotCtx s h = some c) :
    c.core = match c.fl.owner with | .wave _ => s.coreOf c.w | .line k => k := by
  obtain ⟨fl, -, hm⟩ := Option.bind_eq_some_iff.1 hc
  obtain ⟨w0, -, rfl⟩ := Option.map_eq_some_iff.1 hm
  rfl

/-! What each register reads and causes. -/

section
variable (s : State) (g : Nat) (x : Dword)

theorem State.sysRead_headReserve {k : Nat} (hk : k ≤ 0x103) : s.sysRead g (0x400 + k) = (s.head k).reserve := by
  unfold State.sysRead
  rw [if_neg (by simp; omega), if_pos (by simp; omega), Nat.add_sub_cancel_left]
theorem State.sysRead_headCtl {k : Nat} (hk : k ≤ 0x103) : s.sysRead g (0x600 + k) = (s.head k).ctl := by
  unfold State.sysRead
  rw [if_neg (by simp; omega), if_neg (by simp; omega), if_pos (by simp; omega), Nat.add_sub_cancel_left]

theorem State.sysSteps_fwinCtl {k : Nat} (hk : k < 16) :
    s.sysSteps g (0x103 + 4 * k) x = some [{ instr := .fwinCtl, arg := { a := k, b := 0, c := 0, x } }] := by
  unfold State.sysSteps
  rw [if_pos (by simp; omega), if_pos (by simp [Nat.add_mod]), show (0x103 + 4 * k - 0x100) / 4 = k by omega]
theorem State.sysSteps_headReserve {k : Nat} (hk : k ≤ 0x103) :
    s.sysSteps g (0x400 + k) x = some [{ instr := .headReserve, arg := { a := k, b := 0, c := 0, x } }] := by
  unfold State.sysSteps
  rw [if_neg (by simp; omega), if_pos (by simp; omega), Nat.add_sub_cancel_left]
/-- The step that a write of HEAD_CTL causes: by EN of the value, and by EN of the head (R385). -/
def State.headCtlStep (k : Nat) : Instr :=
  if x.getLsbD 0 = false then .headDisable else if (s.head k).en = true then .headReread else .headEnable
theorem State.sysSteps_headCtl {k : Nat} (hk : k ≤ 0x103) :
    s.sysSteps g (0x600 + k) x = some [{ instr := s.headCtlStep x k, arg := { a := k, b := 0, c := 0, x } }] := by
  unfold State.sysSteps State.headCtlStep
  rw [if_neg (by simp; omega), if_neg (by simp; omega), if_pos (by simp; omega), Nat.add_sub_cancel_left]
  cases hx : x.getLsbD 0 <;> cases he : (s.head k).en <;> simp only [bit, hx, he] <;> rfl

/-- The action that a code of FAULT_ACT names (R426). -/
def faultAction : Nat → Option Instr
  | 0 => some .faultResume
  | 1 => some .faultReplay
  | 2 => some .faultKillWave
  | 3 => some .faultKillGroup
  | 4 => some .faultKillGrid
  | 5 => some .faultKillContext
  | 8 => some .faultVacate
  | _ => none
theorem faultAction_none {k : Nat} (hk : k ∉ [0, 1, 2, 3, 4, 5, 8]) : faultAction k = none := by
  unfold faultAction
  split <;> simp at hk ⊢
theorem State.sysSteps_faultAct : s.sysSteps g 0x014 x =
    (faultAction (x.toNat % 16)).map fun i => [{ instr := i, arg := { a := x.toNat / 256, b := 0, c := 0, x } }] := by
  rw [show x.toNat / 256 = bits x 63 8 from (bits_high x (lo := 8) (by decide)).symm, show x.toNat % 16 = bits x 3 0 from rfl]
  unfold State.sysSteps
  rw [if_neg (by decide), if_neg (by decide), if_neg (by decide)]
  dsimp only
  generalize bits x 3 0 = code
  match code with
  | 0 | 1 | 2 | 3 | 4 | 5 | 6 | 7 | 8 => rfl
  | _ + 9 => rfl

/-- The step that a code of DBG_CMD names (R487). -/
def dbgCommand (x : Dword) : Nat → Option Offer
  | 1 => some { instr := .dbgHalt, arg := { a := 0, b := 0, c := 0, x } }
  | 2 => some { instr := .dbgResume, arg := { a := 0, b := 0, c := 0, x } }
  | 3 => some { instr := .dbgStep, arg := { a := x.toNat / 16 % 1024, b := x.toNat / 16384 % 64, c := 0, x } }
  | 4 => some { instr := .dbgDeactivate, arg := { a := 0, b := 0, c := 0, x } }
  | 5 => some { instr := .dbgProfileDump, arg := { a := 0, b := 0, c := 0, x } }
  | 6 => some { instr := .dbgProfileClear, arg := { a := 0, b := 0, c := 0, x } }
  | _ => none
theorem dbgCommand_none {x : Dword} {k : Nat} (hk : k ∉ [1, 2, 3, 4, 5, 6]) : dbgCommand x k = none := by
  unfold dbgCommand
  split <;> simp at hk ⊢
theorem State.sysSteps_dbgCmd : s.sysSteps g 0xA03 x = (dbgCommand x (x.toNat % 16)).map fun e => [e] := by
  unfold State.sysSteps
  rw [if_neg (by decide), if_neg (by decide), if_neg (by decide)]
  dsimp only
  rw [bits_low, bits_div x 13 4, bits_div x 19 14]
  generalize x.toNat % 16 = code
  match code with
  | 0 | 1 | 2 | 3 | 4 | 5 | 6 => rfl
  | _ + 7 => rfl

/-- The step that a mode of REPLAY_CTL names (R507). -/
def replayMode : Nat → Option Instr
  | 0 => some .replayOff
  | 1 => some .replayRecord
  | 2 => some .replayEnforce
  | _ => none
theorem State.sysSteps_replayCtl : s.sysSteps g 0xA31 x =
    (replayMode (x.toNat / 4096 % 4)).map fun i => [{ instr := i, arg := { a := 0, b := 0, c := 0, x } }] := by
  unfold State.sysSteps
  rw [if_neg (by decide), if_neg (by decide), if_neg (by decide)]
  dsimp only
  rw [bits_div x 13 12]
  generalize x.toNat / 4096 % 4 = code
  match code with
  | 0 | 1 | 2 => rfl
  | _ + 3 => rfl

/-- A page address (R231, R433). -/
theorem State.sysPut_ctxTable : s.sysPut 0x080 x = { s with sys := { s.sys with ctxTable := x &&& 0x000FFFFFFFFFF000 } } := by
  rw [← keepBits_eq_and (x := x) (hi := 51) (lo := 12) (by decide)]
  rfl
theorem State.sysPut_pwrCap : s.sysPut 0xC08 x = { s with life := { s.life with pwrCap := x &&& 0xFFFF } } := by
  rw [← keepBits_eq_and (x := x) (hi := 15) (lo := 0) (by decide)]
  rfl

/-- A switch request enters its queue of 16, or completes later (R445). -/
theorem State.reqWrite_switch (wave : Option Nat) : s.reqWrite wave 0x070 x = if s.sw.queue.length < 16 then
    { s with sw := { s.sw with queue := s.sw.queue ++ [(x &&& 0x000FFFFFFFFFFFC0, none)] } }
    else { s with lateWr := s.lateWr ++ [{ wave, srn := 0x070, value := x }] } := by
  by_cases h : s.sw.queue.length < 16
  · rw [if_pos h, State.reqWrite, if_neg (by simp [State.reqFull, h])]
    rfl
  · rw [if_neg h, State.reqWrite, if_pos (by simp [State.reqFull]; omega)]
/-- A service request enters its queue of 4, or completes later (R519). -/
theorem State.reqWrite_service (wave : Option Nat) : s.reqWrite wave 0xC04 x = if s.life.serviceQ.length < 4 then
    { s with life := { s.life with serviceQ := s.life.serviceQ ++ [x &&& 0x000FFFFFFFFFFFC0] } }
    else { s with lateWr := s.lateWr ++ [{ wave, srn := 0xC04, value := x }] } := by
  by_cases h : s.life.serviceQ.length < 4
  · rw [if_pos h, State.reqWrite, if_neg (by simp [State.reqFull, h])]
    rfl
  · rw [if_neg h, State.reqWrite, if_pos (by simp [State.reqFull]; omega)]

end

/-! The roles that BANK_ROLE reads (R215, R216). -/

theorem roleField_toNat (x : Dword) (j : Nat) : x.toNat / 4 ^ j % 4 = (x.extractLsb' (2 * j) 2).toNat := by
  rw [BitVec.extractLsb'_toNat, Nat.shiftRight_eq_div_pow, show (4 : Nat) = 2 ^ 2 from rfl, ← Nat.pow_mul]
/-- The bits of a role above its field are zero. -/
theorem getLsbD_role {r n : Nat} (hr : r < 4) (hn : 2 ≤ n) : (BitVec.ofNat 64 r).getLsbD n = false := by
  rw [BitVec.getLsbD_ofNat, Nat.testBit_lt_two_pow (Nat.lt_of_lt_of_le hr (Nat.pow_le_pow_right Nat.two_pos hn)), Bool.and_false]
/-- The field of the bank that is replaced, and of every other bank. -/
theorem withRole_field (x : Dword) {k r j : Nat} (hj : j < 32) (hr : r < 4) :
    (withRole x (k + 3, r)).extractLsb' (2 * j) 2 = if j = k then BitVec.ofNat 2 r else x.extractLsb' (2 * j) 2 := by
  apply BitVec.eq_of_getLsbD_eq
  intro i hi
  have h64 : 2 * j + i < 64 := by omega
  by_cases hjk : j = k
  · subst j
    have hin : (3#64).getLsbD i = true := (show ∀ n, n < 2 → (3#64).getLsbD n = true by decide) i hi
    simp only [withRole, BitVec.getLsbD_extractLsb', BitVec.getLsbD_or, BitVec.getLsbD_and, BitVec.getLsbD_not, BitVec.getLsbD_shiftLeft,
      Nat.add_sub_cancel, Nat.add_sub_cancel_left, hin, h64, BitVec.getLsbD_ofNat]
    simp [hi, show i < 64 by omega, show ¬ 2 * k + i < 2 * k by omega, BitVec.getElem_eq_testBit_toNat, Nat.mod_eq_of_lt hr]
  · simp only [withRole, BitVec.getLsbD_extractLsb', BitVec.getLsbD_or, BitVec.getLsbD_and, BitVec.getLsbD_not, BitVec.getLsbD_shiftLeft,
      Nat.add_sub_cancel, if_neg hjk, hi, h64]
    by_cases hlt : 2 * j + i < 2 * k
    · simp [hlt]
    · simp [hlt, getLsbD_role hr (show 2 ≤ 2 * j + i - 2 * k by omega), getLsbD_role (r := 3) (by decide) (show 2 ≤ 2 * j + i - 2 * k by omega)]

/-- With no role that waits, BANK_ROLE reads the roles in force. -/
theorem Core.rolesWritten_none (c : Core) (hw : c.roleWait = []) : c.rolesWritten = c.bankRole := by
  rw [Core.rolesWritten, hw, List.foldl_nil]
/-- With one role that waits, BANK_ROLE reads that role at its bank and the roles in force at the others. -/
theorem Core.rolesWritten_one (c : Core) {k r j : Nat} (hw : c.roleWait = [(k + 3, r)]) (hr : r < 4) (hj : j < 32) :
    c.rolesWritten.toNat / 4 ^ j % 4 = if j = k then r else c.bankRole.toNat / 4 ^ j % 4 := by
  rw [roleField_toNat, Core.rolesWritten, hw, List.foldl_cons, List.foldl_nil, withRole_field _ hj hr, apply_ite BitVec.toNat,
    roleField_toNat, BitVec.toNat_ofNat, Nat.mod_eq_of_lt hr]

/-! Traps by instruction. -/

section
variable {s : State} {h : Head} {c : Ctx}

/-- The state with another content of the group in flight. -/
abbrev State.withFlight (s : State) (fl : Flight) : State := { s with flight := some fl }
/-- A trap that an operation asks for: it stands in the flight until the group's end (R430). -/
def Flight.asks (fl : Flight) (m : Mask) (code : Byte) (addr info : Dword) : Flight :=
  { fl with trap := some { code, m, slot := fl.cur.2, addr, info } }
theorem State.askTrap_runs (r : RunsIn s h c) (code : Byte) (addr info : Dword) :
    s.askTrap c code addr info = s.withFlight (c.fl.asks (runMask c.w.r c.fl h) code addr info) := by
  rw [← slotCtx_run r.ctx]
  exact State.modFlight_some (slotCtx_flight r.ctx) _
/-- trap without its bit 16: on the status of an error. -/
theorem exec_trap_error (r : RunsIn s h c) {o : YgFmt} (ho : o.imm.getLsbD 16 = false) :
    exec (.trap h o) s = if 0x80 ≤ (c.w.r.sc o.a.toNat).toNat % 256 then
      .next (s.withFlight (c.fl.asks (runMask c.w.r c.fl h) 0x10 0 (c.w.r.sc o.a.toNat))) else .next s := by
  refine (slot_runs _ r).trans ?_
  rw [← apply_ite, ← State.askTrap_runs r]
  refine congrArg _ (ite_congr (propext ?_) (fun _ => rfl) fun _ => rfl)
  simp only [bit, ho, bits_low]
  exact decide_eq_true_iff
/-- trap with its bit 16: on every status but done. -/
theorem exec_trap_any (r : RunsIn s h c) {o : YgFmt} (ho : o.imm.getLsbD 16 = true) :
    exec (.trap h o) s = if (c.w.r.sc o.a.toNat).toNat % 256 ≠ 0 then
      .next (s.withFlight (c.fl.asks (runMask c.w.r c.fl h) 0x10 0 (c.w.r.sc o.a.toNat))) else .next s := by
  refine (slot_runs _ r).trans ?_
  rw [← apply_ite, ← State.askTrap_runs r]
  refine congrArg _ (ite_congr (propext ?_) (fun _ => rfl) fun _ => rfl)
  simp [-BitVec.getLsbD_eq_getElem, bit, ho, bits_low]
theorem exec_sysc (r : RunsIn s h c) (o : YgFmt) : exec (.sysc h o) s = .next
      (s.withFlight (c.fl.asks (runMask c.w.r c.fl h) 0x0D (BitVec.ofNat 64 o.imm.toNat) (c.w.r.sc o.a.toNat))) := by
  rw [← State.askTrap_runs r, BitVec.ofNat_toNat]
  change execSysc h o s = _
  rw [execSysc, slot_runs _ r]
theorem exec_bkpt (r : RunsIn s h c) (o : YgFmt) : exec (.bkpt h o) s = .next
      (s.withFlight (c.fl.asks (runMask c.w.r c.fl h) 0x0B 0 (BitVec.ofNat 64 (o.imm.toNat % 2 ^ 16)))) := by
  rw [← State.askTrap_runs r, ← bits_low o.imm 15]
  change execBkpt h o s = _
  rw [execBkpt, slot_runs _ r]

/-! rdsr. -/

/-- The value that rdsr gives (R146, R433). -/
def State.rdsrValue (s : State) (c : Ctx) (n : Nat) : Dword :=
  if 0x020 ≤ n && n ≤ 0x023 then ((s.stochNow c).word (n - 0x020)).zeroExtend 64
  else match c.prof with | .c => s.sysRead c.core n | .d => 0
theorem exec_rdsr (r : RunsIn s h c) (q : YsFmt) :
    exec (.rdsr h q) s = .next (s.leaves c.fl 1 [.s q.s (s.rdsrValue c q.srn.toNat) 0]) := by
  have hf := slotCtx_flight r.ctx
  rw [← State.emitS_leaves hf]
  change execRdsr h q s = _
  rw [execRdsr, hf]
  exact slot_runs _ r
/-- On a line core the system registers read zero (log entry 69). -/
theorem State.rdsrValue_line (hc : slotCtx s h = some c) {k n : Nat} (ho : c.fl.owner = .line k) (hn : n < 0x020 ∨ 0x023 < n) :
    s.rdsrValue c n = 0 := by
  rw [State.rdsrValue, if_neg (by simp; omega), slotCtx_prof hc, ho]
  rfl
theorem State.rdsrValue_wave (hc : slotCtx s h = some c) {u n : Nat} (ho : c.fl.owner = .wave u) (hn : n < 0x020 ∨ 0x023 < n) :
    s.rdsrValue c n = s.sysRead c.core n := by
  rw [State.rdsrValue, if_neg (by simp; omega), slotCtx_prof hc, ho]
  rfl
/-- A wave reads the words of its stochastic state (R146). -/
theorem State.rdsrValue_stoch {u k : Nat} (ho : c.fl.owner = .wave u) (hk : k < 4) :
    (s.rdsrValue c (0x020 + k)).toNat = (c.w.r.stoch.word k).toNat := by
  rw [State.rdsrValue, if_pos (by simp; omega), State.stochNow, ho, Nat.add_sub_cancel_left]
  exact BitVec.toNat_setWidth_of_le (by decide)

/-! wrsr by a group in flight. -/

/-- The flight with more steps to run before its later operations (R263). -/
abbrev Flight.causing (fl : Flight) (l : List Offer) : Flight := { fl with sysw := fl.sysw ++ l }

/-- A register whose write neither sets the stochastic state nor makes a request. -/
abbrev ordinaryReg (n : Nat) : Prop := (n < 0x020 ∨ 0x023 < n) ∧ n ≠ 0x070 ∧ n ≠ 0xC04

theorem writtenBy_other {n : Nat} (hn : n ≠ 0x014) (b : Nat) (x : Dword) (l : List Offer) : writtenBy n b x l = l := by
  rw [writtenBy, if_neg (by simpa using hn)]

theorem exec_wrsr_stoch (r : RunsIn s h c) {q : YsFmt} {k : Nat} (hk : k < 4) (hq : q.srn.toNat = 0x020 + k) :
    exec (.wrsr h q) s =
      .next { s with flight := some { c.fl with stochW := c.fl.stochW ++ [(k, (c.w.r.sc q.s.toNat).extractLsb' 0 32)] } } := by
  have hf := slotCtx_flight r.ctx
  change execWrsr h q s = _
  rw [execWrsr, hf]
  refine (slot_runs _ r).trans ?_
  rw [if_pos (by simp; omega), State.modFlight_some hf, hq, Nat.add_sub_cancel_left]
theorem exec_wrsr_request (r : RunsIn s h c) {q : YsFmt} {n : Nat} (hn : n = 0x070 ∨ n = 0xC04) (hq : q.srn.toNat = n) :
    exec (.wrsr h q) s = .next (s.reqWrite (some c.w.uid) n (c.w.r.sc q.s.toNat)) := by
  change execWrsr h q s = _
  rw [execWrsr, slotCtx_flight r.ctx]
  refine (slot_runs _ r).trans ?_
  rw [if_neg (by simp; omega), if_pos (by simpa [hq] using hn), hq]
/-- Steps that the write causes run before the later operations of the group (R263, log entry 109). -/
theorem exec_wrsr_steps (r : RunsIn s h c) {q : YsFmt} {n : Nat} {l : List Offer} (hq : q.srn.toNat = n) (hn : ordinaryReg n)
    (hl : s.sysSteps c.core n (c.w.r.sc q.s.toNat) = some l) : exec (.wrsr h q) s = .next
      (s.withFlight (c.fl.causing (writtenBy n (c.w.uid + 1) (c.w.r.sc q.s.toNat) l))) := by
  obtain ⟨hstoch, hswitch, hservice⟩ := hn
  have hf := slotCtx_flight r.ctx
  change execWrsr h q s = _
  rw [execWrsr, hf]
  refine (slot_runs _ r).trans ?_
  rw [if_neg (by simp; omega), if_neg (by simp [hq, hswitch, hservice]), hq, hl]
  exact congrArg _ (State.modFlight_some hf _)
theorem exec_wrsr_own (r : RunsIn s h c) {q : YsFmt} {n : Nat} {l : List Offer} (hq : q.srn.toNat = n) (hn : ordinaryReg n ∧ n ≠ 0x014)
    (hl : s.sysSteps c.core n (c.w.r.sc q.s.toNat) = some l) :
    exec (.wrsr h q) s = .next (s.withFlight (c.fl.causing l)) := by
  rw [exec_wrsr_steps r hq hn.1 hl, writtenBy_other hn.2]
theorem exec_wrsr_put (r : RunsIn s h c) {q : YsFmt} {n : Nat} (hq : q.srn.toNat = n) (hn : ordinaryReg n)
    (hl : s.sysSteps c.core n (c.w.r.sc q.s.toNat) = none) : exec (.wrsr h q) s = .next (s.sysPut n (c.w.r.sc q.s.toNat)) := by
  obtain ⟨hstoch, hswitch, hservice⟩ := hn
  change execWrsr h q s = _
  rw [execWrsr, slotCtx_flight r.ctx]
  refine (slot_runs _ r).trans ?_
  rw [if_neg (by simp; omega), if_neg (by simp [hq, hswitch, hservice]), hq, hl]
/-- FAULT_ACT names its writer and the value written (R426). -/
theorem exec_wrsr_faultAct (r : RunsIn s h c) {q : YsFmt} (hq : q.srn.toNat = 0x014) {i : Instr}
    (hi : faultAction ((c.w.r.sc q.s.toNat).toNat % 16) = some i) : exec (.wrsr h q) s = .next
      (s.withFlight (c.fl.causing
        [{ instr := i, arg := { a := (c.w.r.sc q.s.toNat).toNat / 256, b := c.w.uid + 1, c := 0, x := c.w.r.sc q.s.toNat } }])) :=
  (exec_wrsr_steps r hq (by decide) (by rw [State.sysSteps_faultAct, hi]; rfl)).trans rfl
theorem exec_wrsr_dbgCmd (r : RunsIn s h c) {q : YsFmt} (hq : q.srn.toNat = 0xA03) {e : Offer}
    (he : dbgCommand (c.w.r.sc q.s.toNat) ((c.w.r.sc q.s.toNat).toNat % 16) = some e) :
    exec (.wrsr h q) s = .next (s.withFlight (c.fl.causing [e])) :=
  exec_wrsr_own r hq (by decide) (by rw [State.sysSteps_dbgCmd, he]; rfl)
theorem exec_wrsr_replayCtl (r : RunsIn s h c) {q : YsFmt} (hq : q.srn.toNat = 0xA31) {i : Instr}
    (hi : replayMode ((c.w.r.sc q.s.toNat).toNat / 4096 % 4) = some i) : exec (.wrsr h q) s = .next
      (s.withFlight (c.fl.causing [{ instr := i, arg := { a := 0, b := 0, c := 0, x := c.w.r.sc q.s.toNat } }])) :=
  exec_wrsr_own r hq (by decide) (by rw [State.sysSteps_replayCtl, hi]; rfl)

/-! wrsr through a control port. -/

theorem exec_wrsr_port_steps (hf : s.flight = none) {q : YsFmt} {n : Nat} {l : List Offer} (hq : q.srn.toNat = n)
    (hl : s.sysSteps s.arg.a n s.arg.x = some l) :
    exec (.wrsr h q) s = .next { s with posted := writtenBy n s.arg.b s.arg.x l ++ s.posted } := by
  change execWrsr h q s = _
  rw [execWrsr, hf, hq]
  simp only [hl]
theorem exec_wrsr_port_own (hf : s.flight = none) {q : YsFmt} {n : Nat} {e : Offer} (hq : q.srn.toNat = n) (hn : n ≠ 0x014)
    (hl : s.sysSteps s.arg.a n s.arg.x = some [e]) : exec (.wrsr h q) s = .next { s with posted := e :: s.posted } := by
  rw [exec_wrsr_port_steps hf hq hl, writtenBy_other hn]
  rfl
theorem exec_wrsr_port_put (hf : s.flight = none) {q : YsFmt} {n : Nat} (hq : q.srn.toNat = n)
    (hl : s.sysSteps s.arg.a n s.arg.x = none) : exec (.wrsr h q) s = .next (s.sysPut n s.arg.x) := by
  change execWrsr h q s = _
  rw [execWrsr, hf, hq]
  simp only [hl]
theorem exec_wrsr_port_faultAct (hf : s.flight = none) {q : YsFmt} (hq : q.srn.toNat = 0x014) {i : Instr}
    (hi : faultAction (s.arg.x.toNat % 16) = some i) : exec (.wrsr h q) s =
      .next { s with posted := { instr := i, arg := { a := s.arg.x.toNat / 256, b := s.arg.b, c := 0, x := s.arg.x } } :: s.posted } :=
  exec_wrsr_port_steps hf hq (by rw [State.sysSteps_faultAct, hi]; rfl)
theorem exec_wrsr_port_headCtl (hf : s.flight = none) {q : YsFmt} {k : Nat} (hk : k ≤ 0x103) (hq : q.srn.toNat = 0x600 + k) {i : Instr}
    (hi : s.headCtlStep s.arg.x k = i) : exec (.wrsr h q) s =
      .next { s with posted := { instr := i, arg := { a := k, b := 0, c := 0, x := s.arg.x } } :: s.posted } := by
  subst hi
  exact exec_wrsr_port_own hf hq (by omega) (State.sysSteps_headCtl s _ _ hk)
theorem exec_rdsr_port (hf : s.flight = none) (q : YsFmt) : exec (.rdsr h q) s = .next s := by
  change execRdsr h q s = _
  rw [execRdsr, hf]

end
end Sys2Proof.Machine

section
open Sys2Proof Sys2Proof.Machine

/-- Settles O37: each clause is the lemma about its instruction, taken at the register that the clause names. -/
theorem trapsAndRegisters : Obligations.TrapsAndRegisters := by
  unfold Obligations.TrapsAndRegisters
  refine ⟨fun s h o q fl w hrun => ?_, fun s h q hf => ?_⟩
  · obtain ⟨c, r, rfl, rfl, -⟩ := hrun.runsIn
    have hcore := slotCtx_core r.ctx
    have reg {n : BitVec 12} (hq : q.srn = n) : q.srn.toNat = n.toNat := congrArg BitVec.toNat hq
    have own {n : BitVec 12} {l : List Offer} (hn : ordinaryReg n.toNat ∧ n.toNat ≠ 0x014)
        (hl : s.sysSteps c.core n.toNat (c.w.r.sc q.s.toNat) = some l) (hq : q.srn = n) := exec_wrsr_own r (reg hq) hn hl
    refine ⟨exec_trap_error r, exec_trap_any r, exec_sysc r o, exec_bkpt r o, ?rdsr, fun k hk hq => exec_wrsr_stoch r hk hq, ?wrsr⟩
    case rdsr =>
      refine ⟨_, exec_rdsr r q, fun k ho hn => State.rdsrValue_line r.ctx ho hn, fun u ho => ?_⟩
      have word {k : Nat} (hk : k < 4) (hq : q.srn.toNat = 0x020 + k) := hq ▸ State.rdsrValue_stoch (s := s) ho hk
      have read {n : BitVec 12} (hn : n.toNat < 0x020 ∨ 0x023 < n.toNat) (hq : q.srn = n) :
          s.rdsrValue c q.srn.toNat = s.sysRead c.core n.toNat := by rw [reg hq]; exact State.rdsrValue_wave r.ctx ho hn
      refine ⟨read (by decide), read (by decide), read (by decide), read (by decide), read (by decide), read (by decide),
        fun hq => word (k := 0) (by decide) (reg hq), fun hq => word (k := 1) (by decide) (reg hq),
        fun hq => word (k := 2) (by decide) (reg hq), fun hq => word (k := 3) (by decide) (reg hq), fun hq => ?role,
        read (by decide), fun k hk hq => ?reserve, fun k hk hq => ?ctl, read (by decide), read (by decide)⟩
      case role =>
        rw [read (by decide) hq, show c.core = s.coreOf c.w by rw [hcore, ho]]
        simp only [ho]
        exact ⟨fun hw => Core.rolesWritten_none _ hw, fun k role _ hr hw j hj => Core.rolesWritten_one _ hw hr hj⟩
      case reserve => rw [State.rdsrValue_wave r.ctx ho (by omega), hq, State.sysRead_headReserve s _ hk]
      case ctl => rw [State.rdsrValue_wave r.ctx ho (by omega), hq, State.sysRead_headCtl s _ hk]
    case wrsr =>
      refine ⟨fun hq => ?fault, fun hq => ?debug, fun hq => ?replay, fun hq => ⟨_, own (by decide) rfl hq, rfl⟩,
        own (by decide) rfl, own (by decide) rfl, fun hq => ?role, own (by decide) rfl, own (by decide) rfl, own (by decide) rfl,
        own (by decide) rfl, own (by decide) rfl, own (by decide) rfl,
        fun k hk hq => exec_wrsr_own r hq (by omega) (State.sysSteps_headReserve s _ _ hk),
        fun k hk hq => exec_wrsr_own r hq (by omega) (State.sysSteps_fwinCtl s _ _ hk),
        fun hq => ?table, fun hq => ?cap, fun hq => ?switch, fun hq => ?service⟩
      case fault =>
        have act {k : Nat} {i : Instr} (hi : faultAction k = some i) (hk : (c.w.r.sc q.s.toNat).toNat % 16 = k) :=
          exec_wrsr_faultAct r (reg hq) (hk ▸ hi)
        exact ⟨act rfl, act rfl, act rfl, act rfl, act rfl, act rfl, act rfl, fun hk =>
          exec_wrsr_put r (reg hq) (by decide) ((State.sysSteps_faultAct s _ _).trans (by rw [faultAction_none hk]; rfl))⟩
      case debug =>
        have act {k : Nat} {e : Offer} (he : dbgCommand (c.w.r.sc q.s.toNat) k = some e) (hk : (c.w.r.sc q.s.toNat).toNat % 16 = k) :=
          exec_wrsr_dbgCmd r (reg hq) (hk ▸ he)
        exact ⟨act rfl, act rfl, act rfl, act rfl, act rfl, act rfl, fun hk =>
          exec_wrsr_put r (reg hq) (by decide) ((State.sysSteps_dbgCmd s _ _).trans (by rw [dbgCommand_none hk]; rfl))⟩
      case replay =>
        have act {k : Nat} {i : Instr} (hi : replayMode k = some i) (hk : (c.w.r.sc q.s.toNat).toNat / 4096 % 4 = k) :=
          exec_wrsr_replayCtl r (reg hq) (hk ▸ hi)
        exact ⟨act rfl, act rfl, act rfl⟩
      case role =>
        have hrole := own (by decide) rfl hq
        rw [hcore] at hrole
        exact hrole
      case table => rw [exec_wrsr_put r (reg hq) (by decide) rfl]; exact congrArg _ (State.sysPut_ctxTable s _)
      case cap => rw [exec_wrsr_put r (reg hq) (by decide) rfl]; exact congrArg _ (State.sysPut_pwrCap s _)
      case switch => rw [exec_wrsr_request r (.inl rfl) (reg hq), State.reqWrite_switch, reg hq]; rfl
      case service => rw [exec_wrsr_request r (.inr rfl) (reg hq), State.reqWrite_service, reg hq]; rfl
  · have reg {n : BitVec 12} (hq : q.srn = n) : q.srn.toNat = n.toNat := congrArg BitVec.toNat hq
    have own {n : BitVec 12} {e : Offer} (hn : n.toNat ≠ 0x014) (hl : s.sysSteps s.arg.a n.toNat s.arg.x = some [e]) (hq : q.srn = n) :=
      exec_wrsr_port_own (h := h) hf (reg hq) hn hl
    refine ⟨own (by decide) rfl, own (by decide) rfl, fun hq => ?fault, own (by decide) rfl, own (by decide) rfl, own (by decide) rfl,
      own (by decide) rfl, own (by decide) rfl, own (by decide) rfl,
      fun k hk hq => exec_wrsr_port_own hf hq (by omega) (State.sysSteps_headReserve s _ _ hk),
      fun k hk hq => ?head, fun hq => ?table, fun hq => exec_wrsr_port_put hf (reg hq) rfl, fun hq => ?switch, fun hq => ?service,
      fun hq => ?cap, exec_rdsr_port hf q⟩
    case fault =>
      have act {k : Nat} {i : Instr} (hi : faultAction k = some i) (hk : s.arg.x.toNat % 16 = k) :=
        exec_wrsr_port_faultAct (h := h) hf (reg hq) (hk ▸ hi)
      exact ⟨act rfl, act rfl, act rfl, act rfl, act rfl, act rfl, act rfl⟩
    case head =>
      have step {i : Instr} (hi : s.headCtlStep s.arg.x k = i) := exec_wrsr_port_headCtl (h := h) hf hk hq hi
      exact ⟨fun hx => step (if_pos hx), fun hx he => step (by rw [State.headCtlStep, if_neg (by simp [hx]), if_pos he]),
        fun hx he => step (by rw [State.headCtlStep, if_neg (by simp [hx]), if_neg (by simp [he])])⟩
    case table => rw [exec_wrsr_port_put hf (reg hq) rfl]; exact congrArg _ (State.sysPut_ctxTable s _)
    case cap => rw [exec_wrsr_port_put hf (reg hq) rfl]; exact congrArg _ (State.sysPut_pwrCap s _)
    case switch =>
      rw [exec_wrsr_port_put hf (reg hq) rfl, reg hq]
      exact congrArg _ (State.reqWrite_switch s _ none)
    case service =>
      rw [exec_wrsr_port_put hf (reg hq) rfl, reg hq]
      exact congrArg _ (State.reqWrite_service s _ none)

end
